-- ==== Sys2Proof/Word.lean ====
section
/-! DEFINITION. The word and byte types, the small operand enumerations of R71 and R72 with their codes, and finite tables keyed by a number. -/

namespace Sys2Proof

/-- A 64-bit general register value (R13). -/
abbrev Word := BitVec 64

/-- One byte of memory (R11). -/
abbrev Byte := BitVec 8

/-- A general-register field, 5 bits (R67): 0 to 31, where 28 to 31 name the ports. -/
abbrev Reg := Fin 32

/-- A general register of a root form, g0 to g15 only (R85). -/
abbrev KReg := Fin 16

/-- A SIMD-register field, 4 bits (R67). -/
abbrev VReg := Fin 16

/-- A token field, 3 bits (R67). -/
abbrev TokId := Fin 8

/-- A format-register field, 3 bits (R67). -/
abbrev FmtId := Fin 8

/-- WIDTH of R71; the store codes of SIZE are the same four. -/
inductive Width where
  | d | w | h | b
  deriving DecidableEq, Repr

/-- The number of bytes of a width. -/
def Width.bytes : Width → Nat
  | .d => 8 | .w => 4 | .h => 2 | .b => 1

/-- The number of bits of a width. -/
def Width.bits : Width → Nat
  | .d => 64 | .w => 32 | .h => 16 | .b => 8

/-- SAT of R71; code 3 is reserved. -/
inductive Sat where
  | wrap | sats | satu
  deriving DecidableEq, Repr

/-- The load codes of SIZE (R71): width and extension; code 4 is reserved. -/
inductive LdSize where
  | d | ws | hs | bs | wz | hz | bz
  deriving DecidableEq, Repr

/-- The width a load reads. -/
def LdSize.width : LdSize → Width
  | .d => .d | .ws => .w | .wz => .w | .hs => .h | .hz => .h | .bs => .b | .bz => .b

/-- Whether the load sign-extends. -/
def LdSize.signed : LdSize → Bool
  | .wz => false | .hz => false | .bz => false | _ => true

/-- SCOPE of R71; codes 5 to 7 are reserved. -/
inductive Scope where
  | core | cluster | die | device | system
  deriving DecidableEq, Repr

/-- ORDER of R71. -/
inductive Order where
  | plain | acq | rel | sc
  deriving DecidableEq, Repr

/-- The integer lane types of T, codes 0 to 7 (R71). -/
inductive ILane where
  | bs | hs | ws | ds | bz | hz | wz | dz
  deriving DecidableEq, Repr

/-- Lane width in bits (R18). -/
def ILane.bits : ILane → Nat
  | .bs => 8 | .bz => 8 | .hs => 16 | .hz => 16 | .ws => 32 | .wz => 32 | .ds => 64 | .dz => 64

/-- Whether the lane type is signed (T 0 to 3). -/
def ILane.signed : ILane → Bool
  | .bs => true | .hs => true | .ws => true | .ds => true | _ => false

/-- The float lane types of T, codes 8 to 11 (R71). -/
inductive FLane where
  | f16 | bf16 | f32 | f64
  deriving DecidableEq, Repr

/-- Lane width in bits. -/
def FLane.bits : FLane → Nat
  | .f16 => 16 | .bf16 => 16 | .f32 => 32 | .f64 => 64

/-- A lane type of any kind, codes 0 to 11 (R71). -/
inductive Lane where
  | int (t : ILane)
  | flt (t : FLane)
  deriving DecidableEq, Repr

/-- Lane width in bits. -/
def Lane.bits : Lane → Nat
  | .int t => t.bits | .flt t => t.bits

/-- Rounding codes of R72; 6 and 7 are reserved, 5 is dyn (own in an fmtp). -/
inductive Rnd where
  | rne | rz | ru | rd | sr | dyn
  deriving DecidableEq, Repr

/-- The conversion types CV of R71, codes 0 to 8. -/
inductive CvType where
  | ds | dz | ws | wz | f64 | f32 | f16 | bf16 | narrow
  deriving DecidableEq, Repr

/-- Whether a conversion type is an integer, codes 0 to 3. -/
def CvType.isInt : CvType → Bool
  | .ds => true | .dz => true | .ws => true | .wz => true | _ => false

/-- The amxM operand of an instruction that may update a running maximum: G and M (R169, R178, R207). -/
abbrev AmxSel := Option (Fin 4)

/-- What the hypervisor gives a partition on one die (R441): the guaranteed minimum of cores, the first id and count of its
dependence counters, NOTIFY and the entry quota. -/
structure DieCfg where
  minG : Nat
  ctrFirst : Nat
  ctrCount : Nat
  notify : Nat
  entq : Nat
  deriving DecidableEq, Repr

/-- What a partition is created with (R441, R451): the clusters as die × 256 + cluster number, the class, the minimum
G of cores on a die, the first id and count of its dependence counters there, its contexts on a memory core, its PID
table of (PID, root table address), the far base of its Whistle area, NOTIFY, UNSIGNED, the entry quota, the bytes
of its owner key, the dies and the memory cores on which it is given other numbers, and its save and Transit regions as a base and
a length in bytes. -/
structure PartCfg where
  clusters : List Nat
  cls : Nat
  minG : Nat
  ctrFirst : Nat
  ctrCount : Nat
  mcShare : Nat
  pids : List (Nat × Nat)
  whistle : Nat
  notify : Nat
  unsignedOk : Bool
  entq : Nat
  ownerKey : List Byte
  dieCfgs : List (Nat × DieCfg)
  shares : List (Nat × Nat)
  save : Nat × Nat
  transit : Nat × Nat
  deriving DecidableEq, Repr

/-- What a launch queue is created with (R451): the PID, whether the rings lie in host memory, their bases (far
addresses under that PID, or host addresses), and the number of entries. -/
structure QueueCfg where
  pid : Nat
  host : Bool
  cmdBase : Nat
  compBase : Nat
  entries : Nat
  deriving DecidableEq, Repr

/-- A table of values keyed by a number: a list of pairs, the first of a key counting. -/
abbrev Tab (α : Type) := List (Nat × α)

/-- The value a table holds for a key. -/
def Tab.get? {α : Type} : Tab α → Nat → Option α
  | [], _ => none
  | (k, v) :: t, n => if k = n then some v else Tab.get? t n

/-- A table with one key set: a listed key is replaced in place, a new key goes before the first larger one. -/
def Tab.put {α : Type} : Tab α → Nat → α → Tab α
  | [], n, x => [(n, x)]
  | (k, v) :: t, n, x =>
    if k = n then (k, x) :: t
    else if n < k then (n, x) :: (k, v) :: t
    else (k, v) :: Tab.put t n x

/-- What a partition has on a die (R441). -/
def PartCfg.onDie (c : PartCfg) (die : Nat) : DieCfg :=
  (Tab.get? c.dieCfgs die).getD ⟨c.minG, c.ctrFirst, c.ctrCount, c.notify, c.entq⟩

/-- The contexts a partition has on the memory core of a channel (R306, R441). -/
def PartCfg.shareOn (c : PartCfg) (ch : Nat) : Nat := (Tab.get? c.shares ch).getD c.mcShare

/-- Whether a counter of a die belongs to a partition (R441). -/
def PartCfg.ownsCtr (c : PartCfg) (die n : Nat) : Bool :=
  (c.onDie die).ctrFirst ≤ n && n < (c.onDie die).ctrFirst + (c.onDie die).ctrCount

/-- A table without a key. -/
def Tab.del {α : Type} (t : Tab α) (n : Nat) : Tab α :=
  t.filter (fun p => p.1 ≠ n)

/-- Bit `i` of a number. -/
def bitAt (n i : Nat) : Bool := n / 2 ^ i % 2 = 1

/-- Bits `lo` to `lo + len - 1` of a number. -/
def bitsAt (n lo len : Nat) : Nat := n / 2 ^ lo % 2 ^ len

/-- The quotient rounded up. -/
def ceilDiv (a b : Nat) : Nat := (a + b - 1) / b

/-- Position `i` of a list with a default beyond its end. -/
def nth {α : Type} (l : List α) (i : Nat) (dflt : α) : α := l.getD i dflt

/-- The list with position `i` replaced. -/
def setNth {α : Type} (l : List α) (i : Nat) (x : α) : List α := l.set i x

end Sys2Proof
end

