-- ==== Sys2Proof/Config.lean ====
section
/-! DEFINITION. Constants of this part, and the values the spec leaves open as constants without a body. -/

namespace Sys2Proof.Config

/-- Free values, one for each number: where the spec states no value the model takes the next of these.
Log 7 (DESIGN CHOICE), 42 (DESIGN CHOICE). -/
opaque freeValue : Nat → Word

/-- The private half of the security engine's identity key (R461). Log 8 (DESIGN CHOICE). -/
opaque identityKey : Nat

/-- The number that the security engine draws to sign a message (R461). Log 8 (DESIGN CHOICE). -/
opaque identityNonce : List Byte → Nat

/-- The bytes of the keys that the security engine makes for namespaces, by a number of the key (R446). Log 65 (DESIGN CHOICE). -/
opaque namespaceKeyByte : Nat → Nat → Byte

/-- The Korser public key whose hash is fused in the I/O die (R460). Log 8 (DESIGN CHOICE). -/
opaque korserKey : List Byte

/-- The save slots that a partition's namespace on the NVMe port holds (R446). Log 65 (DESIGN CHOICE). -/
opaque namespaceSlots : Nat → Nat

/-- The package at the other end of a Span link (R456). Log 120 (DESIGN CHOICE). -/
opaque linkPeer : Nat → Nat

/-- This package's own id (R457). Log 120 (DESIGN CHOICE). -/
opaque packageId : Nat

/-- The members that the hypervisor knows a collective id to have (R458). Log 94 (DEDUCED). -/
opaque members : Nat → List Nat

/-- Almanac revision (R278). -/
def almanacRev : Nat := 0x0000000044100001

/-- Part number (R278, R461). -/
def partNumber : Nat := 0x4410

/-- Cycles of a pattern run (R398, R427). Log 6 (DESIGN CHOICE). -/
def scanCycles : Nat := 525000

/-- Age at which retention locks are released, in cycles (R392). -/
def lockAge : Nat := 10500000

/-- Cycles after which a collective epoch expires (R458). -/
def epochExpiry : Nat := 105000000

/-- Cycles a port write is stalled before a deadlock probe (R128). -/
def probeCycles : Nat := 65536

/-- Default slack of a translator run (R258). -/
def translatorSlack : Nat := 10500000

end Sys2Proof.Config
end

