-- ==== Sys2Proof/Syntax.lean ====
section
/-! DEFINITION. The instructions and events of the part, one constructor for each row of the table of operations and events. -/

namespace Sys2Proof

/-- One step of the part: an encoded instruction with its operand fields, or an event with what it names.
Register fields are numbers (R67). Immediates and displacements hold the raw field; their extension is R69's.
An event has no encoding and no fields: what it happens to (a context, core, die, channel, partition, queue, tag or
order) stands in the state's `arg`, which the step sets from the turn it takes. Two rows, amx.clr and loopx, whose one
operand has four values, have one constructor for each value: Lean's runtime holds at most 244 constructors with fields. For the same reason
the steps that the table gives no encoding (an illegal word, a failed fetch, an hcall of another code) read their word at
the pc again. -/
inductive Instr where
  /-- R94. Adds two registers at a chosen width, with wrap or saturation. -/
  | add (d : Reg) (a : Reg) (b : Reg) (s : Sat) (wd : Width)
  /-- R94. Subtracts b from a at a chosen width, with wrap or saturation. -/
  | sub (d : Reg) (a : Reg) (b : Reg) (s : Sat) (wd : Width)
  /-- R94. Multiplies two registers and keeps the low W bits, with wrap or saturation. -/
  | mul (d : Reg) (a : Reg) (b : Reg) (s : Sat) (wd : Width)
  /-- R94. Gives the high W bits of the signed product. -/
  | mulh (d : Reg) (a : Reg) (b : Reg) (wd : Width)
  /-- R94. Gives the high W bits of the unsigned product. -/
  | mulhu (d : Reg) (a : Reg) (b : Reg) (wd : Width)
  /-- R96. Signed division truncating towards zero, with defined results for division by zero and overflow. -/
  | div (d : Reg) (a : Reg) (b : Reg) (wd : Width)
  /-- R96. Unsigned division, with a defined result for division by zero. -/
  | divu (d : Reg) (a : Reg) (b : Reg) (wd : Width)
  /-- R96. Signed remainder, with the sign of the dividend. -/
  | rem (d : Reg) (a : Reg) (b : Reg) (wd : Width)
  /-- R96. Unsigned remainder. -/
  | remu (d : Reg) (a : Reg) (b : Reg) (wd : Width)
  /-- R94. Bitwise AND of two registers. -/
  | and (d : Reg) (a : Reg) (b : Reg) (wd : Width)
  /-- R94. Bitwise OR of two registers. -/
  | or (d : Reg) (a : Reg) (b : Reg) (wd : Width)
  /-- R94. Bitwise XOR of two registers. -/
  | xor (d : Reg) (a : Reg) (b : Reg) (wd : Width)
  /-- R94. Bitwise a AND NOT b. -/
  | andn (d : Reg) (a : Reg) (b : Reg) (wd : Width)
  /-- R94. Shifts left by the count in b modulo W. -/
  | shl (d : Reg) (a : Reg) (b : Reg) (wd : Width)
  /-- R94. Shifts right logically by the count in b modulo W. -/
  | shr (d : Reg) (a : Reg) (b : Reg) (wd : Width)
  /-- R94. Shifts right arithmetically by the count in b modulo W. -/
  | sar (d : Reg) (a : Reg) (b : Reg) (wd : Width)
  /-- R94. Rotates right by the count in b modulo W. -/
  | rot (d : Reg) (a : Reg) (b : Reg) (wd : Width)
  /-- R94. Gives the smaller signed value. -/
  | min (d : Reg) (a : Reg) (b : Reg) (wd : Width)
  /-- R94. Gives the larger signed value. -/
  | max (d : Reg) (a : Reg) (b : Reg) (wd : Width)
  /-- R94. Gives the smaller unsigned value. -/
  | minu (d : Reg) (a : Reg) (b : Reg) (wd : Width)
  /-- R94. Gives the larger unsigned value. -/
  | maxu (d : Reg) (a : Reg) (b : Reg) (wd : Width)
  /-- R94. Sets 1 if the operands are equal, else 0. -/
  | seq (d : Reg) (a : Reg) (b : Reg) (wd : Width)
  /-- R94. Sets 1 if the operands differ, else 0. -/
  | sne (d : Reg) (a : Reg) (b : Reg) (wd : Width)
  /-- R94. Sets 1 if a is less than b, signed. -/
  | slt (d : Reg) (a : Reg) (b : Reg) (wd : Width)
  /-- R94. Sets 1 if a is less than b, unsigned. -/
  | sltu (d : Reg) (a : Reg) (b : Reg) (wd : Width)
  /-- R97. Selects a or b according to whether register c is nonzero. -/
  | sel (d : Reg) (a : Reg) (b : Reg) (c : Reg)
  /-- R98. Adds a sign-extended 16-bit immediate. -/
  | addi (d : Reg) (a : Reg) (i : Fin 65536)
  /-- R98. ANDs with a zero-extended 16-bit immediate. -/
  | andi (d : Reg) (a : Reg) (i : Fin 65536)
  /-- R98. ORs with a zero-extended 16-bit immediate. -/
  | ori (d : Reg) (a : Reg) (i : Fin 65536)
  /-- R98. XORs with a zero-extended 16-bit immediate. -/
  | xori (d : Reg) (a : Reg) (i : Fin 65536)
  /-- R99. Shifts left by an immediate count. -/
  | shli (d : Reg) (a : Reg) (n : Fin 64)
  /-- R99. Shifts right logically by an immediate count. -/
  | shri (d : Reg) (a : Reg) (n : Fin 64)
  /-- R99. Shifts right arithmetically by an immediate count. -/
  | sari (d : Reg) (a : Reg) (n : Fin 64)
  /-- R99. Rotates right by an immediate count. -/
  | roti (d : Reg) (a : Reg) (n : Fin 64)
  /-- R100. Inserts a 16-bit chunk into chunk k of the destination register. -/
  | ldk (d : Reg) (k : Fin 4) (c : Fin 65536)
  /-- R101. Copies one register to another. -/
  | mov (d : Reg) (a : Reg)
  /-- R101. Counts leading zero bits. -/
  | clz (d : Reg) (a : Reg)
  /-- R101. Counts trailing zero bits. -/
  | ctz (d : Reg) (a : Reg)
  /-- R101. Counts one bits. -/
  | popc (d : Reg) (a : Reg)
  /-- R101. Sign- or zero-extends the low w, h or b bits to 64 bits. -/
  | ext (d : Reg) (a : Reg) (z : Bool) (wd : Width)
  /-- R101. Extracts a bit field, sign- or zero-extended. -/
  | bfx (d : Reg) (a : Reg) (l : Fin 64) (s : Bool) (p : Fin 64)
  /-- R101. Inserts the low bits of a into a bit field of d. -/
  | bfi (d : Reg) (a : Reg) (l : Fin 64) (p : Fin 64)
  /-- R102. Branches if the two registers are equal. -/
  | beq (a : Reg) (b : Reg) (i : Fin 65536)
  /-- R102. Branches if the two registers differ. -/
  | bne (a : Reg) (b : Reg) (i : Fin 65536)
  /-- R102. Branches if a is less than b, signed. -/
  | blt (a : Reg) (b : Reg) (i : Fin 65536)
  /-- R102. Branches if a is at least b, signed. -/
  | bge (a : Reg) (b : Reg) (i : Fin 65536)
  /-- R102. Branches if a is less than b, unsigned. -/
  | bltu (a : Reg) (b : Reg) (i : Fin 65536)
  /-- R102. Branches if a is at least b, unsigned. -/
  | bgeu (a : Reg) (b : Reg) (i : Fin 65536)
  /-- R103. Jumps by a 26-bit word displacement. -/
  | jmp (i : Fin 67108864)
  /-- R103. Writes the return address to g1 and jumps by a 26-bit displacement. -/
  | call (i : Fin 67108864)
  /-- R104. Jumps to the address held in a register, after checking it. -/
  | jr (a : Reg)
  /-- R103. Jumps to a register target and writes the link to d. -/
  | callr (d : Reg) (a : Reg)
  /-- R107. Enters a counted hardware loop at a level, or skips the body when the count is zero. -/
  | loop (l : Fin 4) (c : Reg) (n : Fin 4096)
  /-- R115. Loads 1 to 8 bytes from near memory, with core scope and plain order. -/
  | ld (d : Reg) (b : Reg) (z : LdSize) (o : Fin 8192)
  /-- R115. Stores 1 to 8 bytes to near memory, with core scope and plain order. -/
  | st (d : Reg) (b : Reg) (z : Width) (o : Fin 8192)
  /-- R115. Loads a 128-bit SIMD register from near memory. -/
  | ldV (v : VReg) (b : Reg) (o : Fin 8192)
  /-- R115. Stores a 128-bit SIMD register to near memory. -/
  | stV (v : VReg) (b : Reg) (o : Fin 8192)
  /-- R124. Atomically adds to a near word and returns the old value. -/
  | amoAdd (d : Reg) (a : Reg) (b : Reg) (w32 : Bool) (sc : Scope) (o : Order)
  /-- R124. Atomic signed minimum on a near word. -/
  | amoMin (d : Reg) (a : Reg) (b : Reg) (w32 : Bool) (sc : Scope) (o : Order)
  /-- R124. Atomic signed maximum on a near word. -/
  | amoMax (d : Reg) (a : Reg) (b : Reg) (w32 : Bool) (sc : Scope) (o : Order)
  /-- R124. Atomic AND on a near word. -/
  | amoAnd (d : Reg) (a : Reg) (b : Reg) (w32 : Bool) (sc : Scope) (o : Order)
  /-- R124. Atomic OR on a near word. -/
  | amoOr (d : Reg) (a : Reg) (b : Reg) (w32 : Bool) (sc : Scope) (o : Order)
  /-- R124. Atomic XOR on a near word. -/
  | amoXor (d : Reg) (a : Reg) (b : Reg) (w32 : Bool) (sc : Scope) (o : Order)
  /-- R124. Atomic swap of a near word. -/
  | amoSwp (d : Reg) (a : Reg) (b : Reg) (w32 : Bool) (sc : Scope) (o : Order)
  /-- R124. Atomic compare-and-swap of a near word, comparand in d. -/
  | amoCas (d : Reg) (a : Reg) (b : Reg) (w32 : Bool) (sc : Scope) (o : Order)
  /-- R119. Near load with a scope or an acq or sc order. -/
  | ldScoped (d : Reg) (a : Reg) (b : Fin 32) (z : LdSize) (sc : Scope) (o : Order)
  /-- R119. Near store with a scope or a rel or sc order. -/
  | stScoped (d : Reg) (a : Reg) (b : Fin 32) (z : Width) (sc : Scope) (o : Order)
  /-- R120. Orders earlier accesses before later ones at a scope. -/
  | fence (sc : Scope) (o : Order)
  /-- R132. Initialises a barrier object slot with members and expected count. -/
  | barInit (a : Reg) (b : Reg)
  /-- R133. Records the caller's arrival at a barrier, completing the phase when the count is reached. -/
  | barArr (d : Reg) (a : Reg)
  /-- R133. Arrives at a barrier and leaves its membership. -/
  | barDrop (d : Reg) (a : Reg)
  /-- R133. Waits until the barrier phase differs from the given phase. -/
  | barWait (d : Reg) (a : Reg) (b : Reg)
  /-- R133. Returns the barrier's state word. -/
  | barQ (d : Reg) (a : Reg)
  /-- R135. Initialises a ring object slot. -/
  | rngInit (a : Reg) (b : Reg)
  /-- R136. Reserves n ring slots or reports that none were reserved. -/
  | rngRsv (d : Reg) (a : Reg) (b : Reg)
  /-- R136. Publishes a reservation and advances the publish index over contiguous published slots. -/
  | rngPub (a : Reg) (b : Reg)
  /-- R136. Releases consumed slots and takes published slots, waiting if none. -/
  | rngTake (d : Reg) (a : Reg) (b : Reg)
  /-- R136. Returns the ring's free and available counts. -/
  | rngQ (d : Reg) (a : Reg)
  /-- R127. Returns the words in a receive queue and the free entries at the bound destination. -/
  | ppoll (d : Reg) (k : Fin 4)
  /-- R127. Empties a receive queue and returns the count discarded. -/
  | pdrain (d : Reg) (k : Fin 4)
  /-- R138. Memory-core load from far memory through translation. -/
  | fld (d : Reg) (b : Reg) (z : LdSize) (o : Fin 4096)
  /-- R138. Memory-core store to far memory as a one-line write order. -/
  | fst (d : Reg) (b : Reg) (z : Width) (o : Fin 4096)
  /-- R139. Moves staged bytes outward to the served order's destination. -/
  | push (n : Reg) (a : Reg) (b : Reg)
  /-- R139. Moves the served order's inbound bytes into staging. -/
  | pull (n : Reg) (a : Reg) (b : Reg)
  /-- R143. Lane-wise integer add. -/
  | vadd (d : VReg) (a : VReg) (b : VReg) (t : ILane) (s : Sat)
  /-- R143. Lane-wise integer subtract. -/
  | vsub (d : VReg) (a : VReg) (b : VReg) (t : ILane) (s : Sat)
  /-- R143. Lane-wise integer multiply. -/
  | vmul (d : VReg) (a : VReg) (b : VReg) (t : ILane) (s : Sat)
  /-- R143. Lane-wise multiply-accumulate into vd. -/
  | vmla (d : VReg) (a : VReg) (b : VReg) (t : ILane) (s : Sat)
  /-- R143. Lane-wise integer minimum. -/
  | vmin (d : VReg) (a : VReg) (b : VReg) (t : ILane)
  /-- R143. Lane-wise integer maximum. -/
  | vmax (d : VReg) (a : VReg) (b : VReg) (t : ILane)
  /-- R144. Lane-wise absolute value. -/
  | vabs (d : VReg) (a : VReg) (t : ILane) (s : Sat)
  /-- R144. Lane-wise negation. -/
  | vneg (d : VReg) (a : VReg) (t : ILane) (s : Sat)
  /-- R143. Bitwise AND of SIMD registers. -/
  | vand (d : VReg) (a : VReg) (b : VReg) (t : ILane)
  /-- R143. Bitwise OR of SIMD registers. -/
  | vor (d : VReg) (a : VReg) (b : VReg) (t : ILane)
  /-- R143. Bitwise XOR of SIMD registers. -/
  | vxor (d : VReg) (a : VReg) (b : VReg) (t : ILane)
  /-- R143. Bitwise a AND NOT b of SIMD registers. -/
  | vandn (d : VReg) (a : VReg) (b : VReg) (t : ILane)
  /-- R143. Lane-wise shift left. -/
  | vshl (d : VReg) (a : VReg) (b : VReg) (t : ILane) (s : Sat)
  /-- R143. Lane-wise shift right, arithmetic or logical by type. -/
  | vshr (d : VReg) (a : VReg) (b : VReg) (t : ILane)
  /-- R143. Lane-wise equality mask. -/
  | vceq (d : VReg) (a : VReg) (b : VReg) (t : ILane)
  /-- R143. Lane-wise less-than mask. -/
  | vclt (d : VReg) (a : VReg) (b : VReg) (t : ILane)
  /-- R143. Lane-wise less-or-equal mask. -/
  | vcle (d : VReg) (a : VReg) (b : VReg) (t : ILane)
  /-- R145. Bitwise select between va and vb under mask vc. -/
  | vsel (d : VReg) (a : VReg) (b : VReg) (c : VReg)
  /-- R147. Lane-wise floating-point add. -/
  | vfadd (d : VReg) (a : VReg) (b : VReg) (t : FLane) (r : Rnd)
  /-- R147. Lane-wise floating-point subtract. -/
  | vfsub (d : VReg) (a : VReg) (b : VReg) (t : FLane) (r : Rnd)
  /-- R147. Lane-wise floating-point multiply. -/
  | vfmul (d : VReg) (a : VReg) (b : VReg) (t : FLane) (r : Rnd)
  /-- R147. Lane-wise fused multiply-add into vd. -/
  | vfma (d : VReg) (a : VReg) (b : VReg) (t : FLane) (r : Rnd)
  /-- R148. Lane-wise floating-point minimum. -/
  | vfmin (d : VReg) (a : VReg) (b : VReg) (t : FLane)
  /-- R148. Lane-wise floating-point maximum. -/
  | vfmax (d : VReg) (a : VReg) (b : VReg) (t : FLane)
  /-- R148. Clears the sign bit of each float lane. -/
  | vfabs (d : VReg) (a : VReg) (t : FLane)
  /-- R148. Inverts the sign bit of each float lane. -/
  | vfneg (d : VReg) (a : VReg) (t : FLane)
  /-- R148. Lane-wise float equality mask. -/
  | vfceq (d : VReg) (a : VReg) (b : VReg) (t : FLane)
  /-- R148. Lane-wise float less-than mask. -/
  | vfclt (d : VReg) (a : VReg) (b : VReg) (t : FLane)
  /-- R148. Lane-wise float less-or-equal mask. -/
  | vfcle (d : VReg) (a : VReg) (b : VReg) (t : FLane)
  /-- R151. Permutes lanes of va by indices in vb. -/
  | vperm (d : VReg) (a : VReg) (b : VReg) (t : Lane)
  /-- R152. Byte dot products of four into 32-bit lanes of vd. -/
  | vdot4 (d : VReg) (a : VReg) (b : VReg) (t : ILane) (s : Sat)
  /-- R153. Sums all lanes into lane 0. -/
  | vredAdd (d : VReg) (a : VReg) (t : Lane)
  /-- R153. Minimum of all lanes into lane 0. -/
  | vredMin (d : VReg) (a : VReg) (t : Lane)
  /-- R153. Maximum of all lanes into lane 0. -/
  | vredMax (d : VReg) (a : VReg) (t : Lane)
  /-- R154. Copies a general register into every lane. -/
  | vsplat (d : VReg) (r : Reg) (t : Lane)
  /-- R154. Inserts a general register into one lane. -/
  | vins (d : VReg) (r : Reg) (t : Lane) (i : Fin 16)
  /-- R154. Extracts one lane into a general register. -/
  | vext (a : VReg) (r : Reg) (t : Lane) (i : Fin 16)
  /-- R157. Splits a linear index into coordinates by a shape entry. -/
  | tidx (d : Reg) (a : Reg) (s : Fin 16)
  /-- R156. Writes a shape entry with reciprocal multipliers. -/
  | tset (e : Fin 16) (a : Reg) (n : Fin 6)
  /-- R163. Scalar floating-point add. -/
  | fadd (d : Reg) (a : Reg) (b : Reg) (r : Rnd) (dbl : Bool)
  /-- R163. Scalar floating-point subtract. -/
  | fsub (d : Reg) (a : Reg) (b : Reg) (r : Rnd) (dbl : Bool)
  /-- R163. Scalar floating-point multiply. -/
  | fmul (d : Reg) (a : Reg) (b : Reg) (r : Rnd) (dbl : Bool)
  /-- R163. Scalar fused multiply-add into d. -/
  | fma (d : Reg) (a : Reg) (b : Reg) (r : Rnd) (dbl : Bool)
  /-- R163. Scalar floating-point divide. -/
  | fdiv (d : Reg) (a : Reg) (b : Reg) (r : Rnd) (dbl : Bool)
  /-- R163. Scalar floating-point square root. -/
  | fsqrt (d : Reg) (a : Reg) (r : Rnd) (dbl : Bool)
  /-- R163. Scalar floating-point minimum. -/
  | fmin (d : Reg) (a : Reg) (b : Reg) (dbl : Bool)
  /-- R163. Scalar floating-point maximum. -/
  | fmax (d : Reg) (a : Reg) (b : Reg) (dbl : Bool)
  /-- R163. Scalar floating-point compare returning a relation code. -/
  | fcmp (d : Reg) (a : Reg) (b : Reg) (dbl : Bool)
  /-- R168. Converts between integer, fixed float and narrow formats. -/
  | cvt (d : Reg) (a : Reg) (f : Fin 8) (r : Rnd) (t : CvType) (c : CvType)
  /-- R158. Writes a format register after checking legality. -/
  | fmtw (a : Reg) (n : Fin 8)
  /-- R158. Reads a format register into a general register. -/
  | fmtr (d : Reg) (n : Fin 8)
  /-- R171. Quantises eight f32 lanes into a packed block-scaled narrow register. -/
  | qnt (d : VReg) (a : VReg) (b : VReg) (f : FmtId) (r : Rnd) (m : AmxSel)
  /-- R172. Decodes a packed narrow register into two f32 registers. -/
  | dqt (d : VReg) (a : VReg) (b : VReg) (f : FmtId) (r : Rnd) (m : AmxSel)
  /-- R174. Reads a running maximum register. -/
  | amxRd (d : Reg) (m : Fin 4)
  /-- R176. Sine of an f32, correctly rounded. -/
  | fsin (d : Reg) (a : Reg) (r : Rnd)
  /-- R176. Cosine of an f32, correctly rounded. -/
  | fcos (d : Reg) (a : Reg) (r : Rnd)
  /-- R176. Two to the power of an f32. -/
  | fexp2 (d : Reg) (a : Reg) (r : Rnd)
  /-- R176. Base-two logarithm of an f32. -/
  | flog2 (d : Reg) (a : Reg) (r : Rnd)
  /-- R176. Reciprocal of an f32. -/
  | frcp (d : Reg) (a : Reg) (r : Rnd)
  /-- R176. Reciprocal square root of an f32. -/
  | frsq (d : Reg) (a : Reg) (r : Rnd)
  /-- R176. Hyperbolic tangent of an f32. -/
  | ftanh (d : Reg) (a : Reg) (r : Rnd)
  /-- R161. Sets the pending prefix that re-types the next instruction's formats and rounding. -/
  | fmtp (a : Fin 8) (b : Fin 8) (o : Fin 8) (r : Rnd)
  /-- R188. Queues a multiply-accumulate of a 16x32 and 32x16 tile into an accumulator, B from the weight stack. -/
  | mma (a : Reg) (b : Reg) (t : TokId) (k : Fin 4)
  /-- R188. Queues a multiply-accumulate with B from near memory. -/
  | mmaL (a : Reg) (b : Reg) (t : TokId) (k : Fin 4)
  /-- R188. Queues a multiply that overwrites the accumulator, B from the weight stack. -/
  | mmaZ (a : Reg) (b : Reg) (t : TokId) (k : Fin 4)
  /-- R188. Queues an overwriting multiply with B from near memory. -/
  | mmaZL (a : Reg) (b : Reg) (t : TokId) (k : Fin 4)
  /-- R191. Queues zeroing of an accumulator. -/
  | accz (t : TokId) (k : Fin 4)
  /-- R192. Queues loading of an accumulator from near memory. -/
  | accld (a : Reg) (b : Reg) (t : TokId) (k : Fin 4)
  /-- R196. Queues a drain of an accumulator to near memory in a chosen format. -/
  | drn (a : Reg) (b : Reg) (t : TokId) (m : AmxSel) (e : Bool) (k : Fin 4)
  /-- R195. Queues a drain with an additional transposed copy. -/
  | drnT (a : Reg) (b : Reg) (t : TokId) (m : AmxSel) (e : Bool) (k : Fin 4)
  /-- R193. Queues element-wise addition of near f32 data into an accumulator. -/
  | psumAdd (a : Reg) (b : Reg) (t : TokId) (k : Fin 4)
  /-- R199. Returns the matrix engine's k-step counters and queue state. -/
  | mqStat (d : Reg)
  /-- R200. Returns the NaN summary of an accumulator. -/
  | mqNan (d : Reg) (k : Fin 4)
  /-- R201. Returns the matrix engine capability word. -/
  | mqCap (d : Reg)
  /-- R211. Queues an element-wise vector-engine operation. -/
  | vxEw (a : Reg) (b : Reg) (t : TokId) (m : AmxSel) (y : Bool)
  /-- R211. Queues a vector-engine reduction. -/
  | vxRed (a : Reg) (b : Reg) (t : TokId) (m : AmxSel)
  /-- R211. Queues a vector-engine format conversion. -/
  | vxCvt (a : Reg) (b : Reg) (t : TokId) (m : AmxSel)
  /-- R211. Queues a vector-engine special function. -/
  | vxSfn (a : Reg) (b : Reg) (t : TokId) (m : AmxSel)
  /-- R213. Queues a gather of element codes by index. -/
  | vxGth (a : Reg) (b : Reg) (t : TokId)
  /-- R213. Queues a scatter of element codes by index. -/
  | vxSct (a : Reg) (b : Reg) (t : TokId)
  /-- R216. Starts or queues a copy chain on a channel with a chain token. -/
  | cpyGo (a : Reg) (t : TokId) (c : Fin 4)
  /-- R233. Issues a continuation record to the die's Drover. -/
  | taskSpawn (a : Reg) (b : Reg) (t : TokId)
  /-- R233. Issues a job card to the die's Drover. -/
  | taskCard (a : Reg) (b : Reg) (t : TokId)
  /-- R226. Adds n to both counts of a token. -/
  | tokExp (a : Reg) (t : TokId)
  /-- R227. Waits until a token's source-free count is zero or raises its held fault. -/
  | tokWaitSrc (t : TokId)
  /-- R227. Waits until a token's visible count is zero, joining its operations, or raises its held fault. -/
  | tokWaitVis (t : TokId)
  /-- R228. Binds a token to a dependence counter to be decremented when VIS reaches zero. -/
  | tokBind (a : Reg) (t : TokId)
  /-- R229. Reads a token's count word. -/
  | tokRd (d : Reg) (t : TokId)
  /-- R229. Waits for all operations issued to named engines and joins them. -/
  | efence (e : Fin 8)
  /-- R229. Returns the context's engine busy word. -/
  | ebusy (d : Reg)
  /-- R234. Waits until a dependence counter reaches zero and returns its status. -/
  | taskJoin (d : Reg) (a : Reg)
  /-- R236. Ends the task, naming an optional successor, unless a held fault is pending. -/
  | halt (a : Reg)
  /-- R235. Returns the member index and flock width. -/
  | flockId (d : Reg)
  /-- R238. Reads a control register. -/
  | mfc (d : Reg) (c : Fin 64)
  /-- R238. Writes a control register that has no row of its own. -/
  | mtc (a : Reg) (c : Fin 64)
  /-- R31. Writes SEED and loads the context's LFSR. -/
  | mtcSeed (a : Reg)
  /-- R125. Writes a port binding after checking its destination. -/
  | mtcPbind (a : Reg) (k : Fin 4)
  /-- R216. Writes a chain head, starting a copy chain with no chain token. -/
  | mtcChhead (a : Reg) (k : Fin 4)
  /-- R239. Sets the partition's supervisor entry for every context. -/
  | mtcSvec (a : Reg)
  /-- R239. Sets the partition's debug control for every context. -/
  | mtcDbgctl (a : Reg)
  /-- R240. Retires and raises SOFTWARE with a code and an argument. -/
  | trap (a : Reg) (k : Fin 4096)
  /-- R241. Enters supervisor code at SVEC in the same context. -/
  | sys (a : Reg) (k : Fin 4096)
  /-- R240. Raises BREAK before retiring, or stops the partition through the Whistle. -/
  | ebrk (a : Reg) (k : Fin 4096)
  /-- R244. Asks the Drover to raise BUDGET and returns the admission code. -/
  | budx (a : Reg) (d : Reg)
  /-- R254. Seals a core of the partition. -/
  | seal (a : Reg)
  /-- R254. Clears a core's seal. -/
  | unseal (a : Reg)
  /-- R254. Runs the stored scan patterns on a sealed idle core. -/
  | scanGo (a : Reg)
  /-- R254. Returns a core's suspicion score and scan state. -/
  | scanQ (d : Reg) (b : Reg)
  /-- R258. Asks the hypervisor to run a tenant translator from a run block. -/
  | hcallTranslatorRun (a : Reg) (b : Reg)
  /-- R315. Invalidates translations of a page range. -/
  | hcallInvalidate (a : Reg) (b : Reg)
  /-- R307. Writes a loader table entry. -/
  | hcallLoaderWrite (a : Reg) (b : Reg)
  /-- R360. Returns the partition's Drover state on the die. -/
  | hcallPartitionQuery (a : Reg) (b : Reg)
  /-- R379. Asks the Whistle to stop the partition. -/
  | hcallWhistleStop (a : Reg) (b : Reg)
  /-- R379. Releases a stopped partition. -/
  | hcallWhistleRelease (a : Reg) (b : Reg)
  /-- R399. Sets or reads the partition's Transit settings. -/
  | hcallTransitSettings (a : Reg) (b : Reg)
  /-- R399. Returns the partition's Transit counts. -/
  | hcallTransitCounts (a : Reg) (b : Reg)
  /-- R406. Arms a one-shot datapath fault on a core. -/
  | hcallArmFault (a : Reg) (b : Reg)
  /-- R430. Counts the cores whose taint lists hold a tag. -/
  | hcallTaintQuery (a : Reg) (b : Reg)
  /-- R444. Evicts a translation directory entry. -/
  | hcallDirectoryEvict (a : Reg) (b : Reg)
  /-- R444. Moves the oldest fault queue entry into a buffer. -/
  | hcallFaultQueueTake (a : Reg) (b : Reg)
  /-- R446. Encrypts a saved task's slot to storage and frees it. -/
  | hcallPageOut (a : Reg) (b : Reg)
  /-- R447. Pages in a paged-out task. -/
  | hcallPageIn (a : Reg) (b : Reg)
  /-- R461. Produces a signed identity statement over a nonce. -/
  | hcallIdentity (a : Reg) (b : Reg)
  /-- R457. Posts a collective contribution to a peer package. -/
  | hcallContributionPost (a : Reg) (b : Reg)
  /-- R458. Waits for a named collective contribution to land. -/
  | hcallContributionWait (a : Reg) (b : Reg)
  /-- R246. Offers a pre-emption point with live bitmap and local-range mask. -/
  | phint (a : Reg) (b : Reg)
  /-- R249. Opens an approximable region or runs its surrogate. -/
  | apxBeg (v : VReg) (a : Reg) (b : Reg)
  /-- R251. Invalidates regions in the die's Orrery. -/
  | apxInv (a : Reg)
  /-- R251. Returns a region's Orrery state. -/
  | apxQ (d : Reg) (a : Reg)
  /-- R252. Returns the task's Transit status and marks it unverifiable. -/
  | rplQ (d : Reg)
  /-- R255. Root-set add. -/
  | kAdd (d : KReg) (a : KReg) (b : KReg)
  /-- R255. Root-set subtract. -/
  | kSub (d : KReg) (a : KReg) (b : KReg)
  /-- R255. Root-set AND. -/
  | kAnd (d : KReg) (a : KReg) (b : KReg)
  /-- R255. Root-set OR. -/
  | kOr (d : KReg) (a : KReg) (b : KReg)
  /-- R255. Root-set XOR. -/
  | kXor (d : KReg) (a : KReg) (b : KReg)
  /-- R255. Root-set shift left. -/
  | kShl (d : KReg) (a : KReg) (b : KReg)
  /-- R255. Root-set logical shift right. -/
  | kShr (d : KReg) (a : KReg) (b : KReg)
  /-- R255. Root-set arithmetic shift right. -/
  | kSar (d : KReg) (a : KReg) (b : KReg)
  /-- R255. Root-set multiply. -/
  | kMul (d : KReg) (a : KReg) (b : KReg)
  /-- R255. Root-set signed less-than. -/
  | kSlt (d : KReg) (a : KReg) (b : KReg)
  /-- R255. Root-set unsigned less-than. -/
  | kSltu (d : KReg) (a : KReg) (b : KReg)
  /-- R255. Root-set equality test. -/
  | kSeq (d : KReg) (a : KReg) (b : KReg)
  /-- R255. Root-set add immediate. -/
  | kAddi (d : KReg) (a : KReg) (i : Fin 65536)
  /-- R255. Root-set chunk insert. -/
  | kLdk (d : KReg) (k : Fin 4) (c : Fin 65536)
  /-- R255. Root-set doubleword load. -/
  | kLdD (d : KReg) (b : KReg) (o : Fin 8192)
  /-- R255. Root-set zero-extending word load. -/
  | kLdW (d : KReg) (b : KReg) (o : Fin 8192)
  /-- R255. Root-set doubleword store. -/
  | kStD (s : KReg) (b : KReg) (o : Fin 8192)
  /-- R255. Root-set word store. -/
  | kStW (s : KReg) (b : KReg) (o : Fin 8192)
  /-- R255. Root-set branch if equal. -/
  | kBeq (a : KReg) (b : KReg) (i : Fin 65536)
  /-- R255. Root-set branch if not equal. -/
  | kBne (a : KReg) (b : KReg) (i : Fin 65536)
  /-- R255. Root-set signed branch if less. -/
  | kBlt (a : KReg) (b : KReg) (i : Fin 65536)
  /-- R255. Root-set unsigned branch if less. -/
  | kBltu (a : KReg) (b : KReg) (i : Fin 65536)
  /-- R255. Root-set jump. -/
  | kJmp (i : Fin 67108864)
  /-- R255. Root-set call linking g1. -/
  | kCall (i : Fin 67108864)
  /-- R255. Root-set register jump. -/
  | kJr (a : KReg)
  /-- R263. Appends a word to the translator output. -/
  | kEmit (d : KReg) (a : KReg)
  /-- R264. Appends a provenance pair. -/
  | kEmap (a : KReg) (b : KReg)
  /-- R265. Reads a word of an Almanac record. -/
  | kLda (d : KReg) (a : KReg) (b : KReg)
  /-- R262. Returns the meter count remaining. -/
  | kMtr (d : KReg)
  /-- R266. Ends a translator run with TFAIL. -/
  | kTfail (a : KReg)
  /-- R103. Jumps to the address in g1. -/
  | ret
  /-- R111. Ends hardware loop levels L to 3. The level is 0. -/
  | loopx0
  /-- R111. Ends hardware loop levels L to 3. The level is 1. -/
  | loopx1
  /-- R111. Ends hardware loop levels L to 3. The level is 2. -/
  | loopx2
  /-- R111. Ends hardware loop levels L to 3. The level is 3. -/
  | loopx3
  /-- R329. A retired store at the head of the store queue performs into the coherence lists. -/
  | storePerform
  /-- R126. A port word sent to a core reaches its receive queue. -/
  | portWordArrival
  /-- R128. A port write stalled for 2^16 cycles sends a deadlock probe. -/
  | deadlockProbe
  /-- R128. A probe reaches a core and is forwarded, dropped or found to close a ring. -/
  | deadlockProbeArrival
  /-- R128. A ring notice reaches the named context, which raises PORT_DEADLOCK. -/
  | deadlockNoticeArrival
  /-- R139. Pushed bytes reach the near destination and the write pointer advances over the contiguous prefix. -/
  | pushDelivery
  /-- R174. Clears a running maximum register. The running maximum is 0. -/
  | amxClr0
  /-- R174. Clears a running maximum register. The running maximum is 1. -/
  | amxClr1
  /-- R174. Clears a running maximum register. The running maximum is 2. -/
  | amxClr2
  /-- R174. Clears a running maximum register. The running maximum is 3. -/
  | amxClr3
  /-- R177. The matrix engine takes the oldest queued command and begins it. -/
  | matrixCommandStart
  /-- R181. A matrix command's result is in place, flags reach ST and the token's VIS drops. -/
  | matrixCommandComplete
  /-- R207. The vector engine takes the oldest queued command and begins it. -/
  | vectorCommandStart
  /-- R210. A vector command's writes are visible at cluster scope and its token's VIS drops. -/
  | vectorCommandComplete
  /-- R216. A queued chain starts when every earlier chain on its channel has ended. -/
  | copyChainStart
  /-- R223. A record finishes reading its source and the source-free counts drop. -/
  | recordFinishedReading
  /-- R220. POS advances over the finished near prefix of a record, releasing marks it passes. -/
  | writePointerAdvance
  /-- R219. A record's bytes are visible at its scope, OWN clears and the next record is taken. -/
  | transferRecordComplete
  /-- R224. A record fault ends the chain and is held on a token or in CHSTAT. -/
  | recordFault
  /-- R311. A channel translates and forwards the next 64-byte far line of its record. -/
  | lineForward
  /-- R313. A page-table walk for a far address completes or faults. -/
  | translationWalk
  /-- R319. An order reaches the head of a channel's order queue and is checked against the window. -/
  | orderAtHead
  /-- R319. A write line commits at its memory channel or a read line is read. -/
  | lineCommit
  /-- R334. An inbound far line arrives at its near destination. -/
  | farLineArrival
  /-- R236. After halt and its engine work end, the context is freed, the counter signalled and the window zeroed or retained. -/
  | taskCompletion
  /-- R242. Returns from a trap handler, sys or hypervisor entry. -/
  | tret
  /-- R398. The 525,000-cycle pattern run ends with a pass or a failure. -/
  | scanPatternsEnd
  /-- R243. The hypervisor writes the result and then the status of an hcall to its reply slot. -/
  | hcallReply
  /-- R250. Closes a region, sends an observation and compares a sampled run. -/
  | apxEnd
  /-- R266. Ends a translator run and triggers the output check. -/
  | kTend
  /-- R276. Reads and checks the Vexid image, computes the key and looks up the directory. -/
  | imagePrepare
  /-- R259. A translator run starts in root mode on a free context. -/
  | translatorRunStart
  /-- R262. The meter count reaches its limit and the run ends. -/
  | meter
  /-- R285. The Drover decides a spawned record and writes the result word. -/
  | spawnDecision
  /-- R292. The Drover decides a job card as a whole. -/
  | cardDecision
  /-- R345. The Drover decides a budx by the admission test. -/
  | budgetExtensionDecision
  /-- R288. A signal arrives at a dependence counter and may make parked tasks ready. -/
  | counterSignal
  /-- R295. A ready or saved task is placed on a chosen core and context. -/
  | taskPlacement
  /-- R293. The Drover deals the next chunk of a card and orders its argument push. -/
  | chunkDeal
  /-- R293. A chunk's argument records are pushed and the chunk task is placed. -/
  | argumentPushComplete
  /-- R347. The die counter passes a task's deadline and the miss count rises. -/
  | deadlinePass
  /-- R341. The die counter advances by one each cycle. -/
  | dieCounterTick
  /-- R353. After a retirement, seal or change of G, the Drover re-tests and revokes entries. -/
  | revocationTest
  /-- R369. A pre-emption request reaches the victim and opens the hint window. -/
  | preemptionRequestArrival
  /-- R369. HINTGAP cycles pass with no honoured phint and a forced stop begins. -/
  | hintWindowExpiry
  /-- R371. The stopped context's engine work is settled and the save begins. -/
  | drainComplete
  /-- R372. The save is written, the context freed and the window zeroed. -/
  | saveComplete
  /-- R375. A saved task's slot is read back into its new context and it resumes. -/
  | restoreComplete
  /-- R380. Every context of the stopped partition has settled and Whistle records are written. -/
  | whistleSettled
  /-- R308. A PROGRAM order gets a memory-core context and its loader or storer starts. -/
  | programOrderStart
  /-- R309. A program reaches its instruction limit and the record takes ENGINE. -/
  | programInstructionLimit
  /-- R392. A selected task's locks reach 10 ms and the comparison is abandoned. -/
  | retentionLockAge
  /-- R394. The Transit unit places a replay or third run on a qualifying core. -/
  | replayPlacement
  /-- R398. A draining core's contexts are all free and its scan begins. -/
  | foldScanStart
  /-- R409. The Orrery takes an observation from its buffer and applies it to an entry. -/
  | observationTake
  /-- R412. A width-0 entry's closed-form fit finishes and may arm it. -/
  | closedFormFit
  /-- R413. A mini-batch step updates an entry's masters and GOOD count. -/
  | sgdStep
  /-- R414. An armed region's weights arrive in a core's surrogate cache. -/
  | weightsArrival
  /-- R420. A failed sample's reset returns the entry to observing. -/
  | regionReset
  /-- R416. An invalidated or reset region's weights leave a core's cache. -/
  | cacheRemoval
  /-- R427. Scan rotation takes the next cluster, pre-empts it and runs the patterns. -/
  | rotationClusterStart
  /-- R432. An uncorrectable error is consumed and contained at its level. -/
  | uncorrectable
  /-- R438. A vertical-bus transfer with a parity error is resent. -/
  | parityResend
  /-- R438. A 64-cycle lane test ends and a spare replaces the faulty lane or the channel retires. -/
  | laneTest
  /-- R456. A Span-link flit is received and checked by CRC, or replayed. -/
  | flitReceive
  /-- R457. A collective contribution lands in the peer's landing area. -/
  | contributionLand
  /-- R458. A collective epoch expires after 100 ms and its landing area is freed. -/
  | collectiveExpiry
  /-- R453. A host write of SUBMIT to a queue's doorbell. -/
  | doorbellSubmit
  /-- R453. The device takes the launch command at ACCEPTED and submits it for decision. -/
  | commandTake
  /-- R343. The Drover decides a launch command. -/
  | launchDecision
  /-- R454. A host write of RELEASE freeing completion slots. -/
  | doorbellRelease
  /-- R453. A host write to the reset doorbell restarts a stopped queue. -/
  | resetDoorbell
  /-- R454. A completion is written to the ring once room exists. -/
  | completionWrite
  /-- R459. At each multiple of 1,024 counter cycles, static energy is added to ECNT. -/
  | ecntStaticShare
  /-- R459. A gated island wakes for new work. -/
  | islandWake
  /-- R459. An island with no task or work is gated. -/
  | islandGate
  /-- R447. A paged task's slot is decrypted and checked before placement. -/
  | pageIn
  /-- R449. A migration round copies dirty units and reads the bitmaps. -/
  | migrationPrecopyRound
  /-- R449. After stop, final copy and state transfer, the partition is released at the destination. -/
  | migrationRelease
  /-- R443. The hypervisor verifies a supervisor image and starts it on a home core. -/
  | supervisorStart
  /-- R441. The hypervisor creates a partition and assigns its clusters. -/
  | partitionCreate
  /-- R460. The boot ROM zeroes memory, verifies the hypervisor image and starts it. -/
  | powerOn
  /-- R86. A fetched word with an illegal, reserved or unassigned encoding raises ILLEGAL before it has any effect. -/
  | illegalWord
  /-- R86. An instruction fetch that fails translation or permission raises FAR_TRANSLATE or FAR_PERMISSION with the pc as the address. -/
  | fetchFault
  /-- R243. An hcall with a code that has no entry of its own posts its request, which the hypervisor answers with status 3. -/
  | hcall
  /-- R409. An observation sent by apx.end reaches the die's 256-pair buffer within 64 cycles, or is dropped when the buffer is full. -/
  | observationArrival
  /-- R335. A host write to device far memory arrives over the host link and becomes an order of the launch queue's party. -/
  | hostWrite
  /-- R127. A destination core reports its receive queue's free count to a sending core, which updates the count that ppoll returns. -/
  | freeCountReport
  /-- R416. The hypervisor releases a partition's clusters, which invalidates its Orrery entries and destroys its XTS key. -/
  | partitionRelease
  /-- R451. The hypervisor creates a launch queue with its rings and counters and binds it to a PID. -/
  | launchQueueCreate
  /-- R460. In recovery, a new boot image received over the host link is checked and started. -/
  | recoveryBootImage
  deriving DecidableEq, Repr

end Sys2Proof
end

