-- ==== Sys2Proof/WellFormed.lean ====
section
/-! DEFINITION. Which instructions of the syntax have an encoding: the combinations that R71 to R85 reserve are not well formed. -/

namespace Sys2Proof

/-- The legal combinations of a cvt (R82, R166): the two types differ, are not both integers, and a side is narrow
whenever a format register is named. -/
def cvtOk (f : FmtId) (t c : CvType) : Bool :=
  t != c && !(t.isInt && c.isInt) && (t == .narrow || c == .narrow || f.val == 0)

/-- The control numbers of a plain mtc: those that have a row of their own in the table (SEED, PBIND, CHHEAD, SVEC,
DBGCTL) are not among them. -/
def mtcPlain (c : Fin 64) : Bool :=
  !(c.val == 14 || (16 ≤ c.val && c.val ≤ 23) || c.val == 32 || c.val == 37)

/-- Whether an instruction is one that an encoding names (R67 to R85). An event has no encoding and is always well
formed. -/
def wellFormed : Instr → Bool
  | .add _ _ _ _ _ | .sub _ _ _ _ _ | .mul _ _ _ _ _ | .mulh _ _ _ _ | .mulhu _ _ _ _ | .div _ _ _ _ | .divu _ _ _ _
  | .rem _ _ _ _ | .remu _ _ _ _ | .and _ _ _ _ | .or _ _ _ _ | .xor _ _ _ _ | .andn _ _ _ _ | .shl _ _ _ _ | .shr _ _ _ _
  | .sar _ _ _ _ | .rot _ _ _ _ | .min _ _ _ _ | .max _ _ _ _ | .minu _ _ _ _ | .maxu _ _ _ _ | .seq _ _ _ _ | .sne _ _ _ _
  | .slt _ _ _ _ | .sltu _ _ _ _ | .sel _ _ _ _ | .addi _ _ _ | .andi _ _ _ | .ori _ _ _ | .xori _ _ _ | .shli _ _ _
  | .shri _ _ _ | .sari _ _ _ | .roti _ _ _ | .ldk _ _ _ | .mov _ _ | .clz _ _ | .ctz _ _ | .popc _ _ => true
  | .ext _ _ _ wd => wd != .d
  | .bfx _ _ l _ p => p.val + (l.val + 1) ≤ 64
  | .bfi _ _ l p => p.val + (l.val + 1) ≤ 64
  | .beq _ _ _ | .bne _ _ _ | .blt _ _ _ | .bge _ _ _ | .bltu _ _ _ | .bgeu _ _ _ | .jmp _ | .call _ | .jr _ | .callr _ _ | .ret
  | .loopx0 | .loopx1 | .loopx2 | .loopx3 | .loop _ _ _ | .ld _ _ _ _ | .st _ _ _ _ | .ldV _ _ _ | .stV _ _ _ | .storePerform
  | .amoAdd _ _ _ _ _ _ | .amoMin _ _ _ _ _ _ | .amoMax _ _ _ _ _ _ | .amoAnd _ _ _ _ _ _ | .amoOr _ _ _ _ _ _
  | .amoXor _ _ _ _ _ _ | .amoSwp _ _ _ _ _ _ | .amoCas _ _ _ _ _ _ => true
  | .ldScoped _ _ _ _ _ o => o != .rel
  | .stScoped _ _ _ _ _ o => o != .acq
  | .fence _ o => o != .plain
  | .barInit _ _ | .barArr _ _ | .barDrop _ _ | .barWait _ _ _ | .barQ _ _ | .rngInit _ _ | .rngRsv _ _ _ | .rngPub _ _
  | .rngTake _ _ _ | .rngQ _ _ | .ppoll _ _ | .pdrain _ _ | .portWordArrival | .deadlockProbe | .deadlockProbeArrival
  | .deadlockNoticeArrival | .fld _ _ _ _ | .fst _ _ _ _ | .push _ _ _ | .pull _ _ _ | .pushDelivery | .vadd _ _ _ _ _
  | .vsub _ _ _ _ _ | .vmul _ _ _ _ _ | .vmla _ _ _ _ _ | .vmin _ _ _ _ | .vmax _ _ _ _ | .vabs _ _ _ _ | .vneg _ _ _ _
  | .vand _ _ _ _ | .vor _ _ _ _ | .vxor _ _ _ _ | .vandn _ _ _ _ | .vshl _ _ _ _ _ | .vshr _ _ _ _ | .vceq _ _ _ _
  | .vclt _ _ _ _ | .vcle _ _ _ _ | .vsel _ _ _ _ | .vfadd _ _ _ _ _ | .vfsub _ _ _ _ _ | .vfmul _ _ _ _ _ | .vfma _ _ _ _ _
  | .vfmin _ _ _ _ | .vfmax _ _ _ _ | .vfabs _ _ _ | .vfneg _ _ _ | .vfceq _ _ _ _ | .vfclt _ _ _ _ | .vfcle _ _ _ _
  | .vperm _ _ _ _ => true
  | .vdot4 _ _ _ t _ => t == .bs || t == .bz
  | .vredAdd _ _ _ | .vredMin _ _ _ | .vredMax _ _ _ | .vsplat _ _ _ => true
  | .vins _ _ t i => i.val < 128 / t.bits
  | .vext _ _ t i => i.val < 128 / t.bits
  | .tidx _ _ _ => true
  | .tset _ a n => n.val != 0 || a.val == 0
  | .fadd _ _ _ _ _ | .fsub _ _ _ _ _ | .fmul _ _ _ _ _ | .fma _ _ _ _ _ | .fdiv _ _ _ _ _ | .fsqrt _ _ _ _ | .fmin _ _ _ _
  | .fmax _ _ _ _ | .fcmp _ _ _ _ => true
  | .cvt _ _ f _ t c => cvtOk f t c
  | .fmtw _ _ | .fmtr _ _ | .qnt _ _ _ _ _ _ | .dqt _ _ _ _ _ _ | .amxRd _ _ | .amxClr0 | .amxClr1 | .amxClr2 | .amxClr3
  | .fsin _ _ _ | .fcos _ _ _ | .fexp2 _ _ _ | .flog2 _ _ _ | .frcp _ _ _ | .frsq _ _ _ | .ftanh _ _ _ | .fmtp _ _ _ _
  | .mma _ _ _ _ | .mmaL _ _ _ _ | .mmaZ _ _ _ _ | .mmaZL _ _ _ _ | .accz _ _ | .accld _ _ _ _ | .drn _ _ _ _ _ _
  | .drnT _ _ _ _ _ _ | .psumAdd _ _ _ _ | .mqStat _ | .mqNan _ _ | .mqCap _ | .matrixCommandStart | .matrixCommandComplete
  | .vxEw _ _ _ _ _ | .vxRed _ _ _ _ | .vxCvt _ _ _ _ | .vxSfn _ _ _ _ | .vxGth _ _ _ | .vxSct _ _ _ | .vectorCommandStart
  | .vectorCommandComplete | .cpyGo _ _ _ | .copyChainStart | .recordFinishedReading | .writePointerAdvance
  | .transferRecordComplete | .recordFault | .lineForward | .translationWalk | .orderAtHead | .lineCommit | .farLineArrival
  | .taskSpawn _ _ _ | .taskCard _ _ _ | .tokExp _ _ | .tokWaitSrc _ | .tokWaitVis _ | .tokBind _ _ | .tokRd _ _ => true
  | .efence e => e.val != 0
  | .ebusy _ | .taskJoin _ _ | .halt _ | .flockId _ | .taskCompletion | .mfc _ _ => true
  | .mtc _ c => mtcPlain c
  | .mtcSeed _ | .mtcPbind _ _ | .mtcChhead _ _ | .mtcSvec _ | .mtcDbgctl _ | .trap _ _ | .tret | .sys _ _ | .ebrk _ _
  | .budx _ _ | .seal _ | .unseal _ | .scanGo _ | .scanQ _ _ | .scanPatternsEnd | .hcallTranslatorRun _ _ | .hcallInvalidate _ _
  | .hcallLoaderWrite _ _ | .hcallPartitionQuery _ _ | .hcallWhistleStop _ _ | .hcallWhistleRelease _ _
  | .hcallTransitSettings _ _ | .hcallTransitCounts _ _ | .hcallArmFault _ _ | .hcallTaintQuery _ _ | .hcallDirectoryEvict _ _
  | .hcallFaultQueueTake _ _ | .hcallPageOut _ _ | .hcallPageIn _ _ | .hcallIdentity _ _ | .hcallContributionPost _ _
  | .hcallContributionWait _ _ | .hcallReply | .phint _ _ | .apxBeg _ _ _ | .apxEnd | .apxInv _ | .apxQ _ _ | .rplQ _
  | .kAdd _ _ _ | .kSub _ _ _ | .kAnd _ _ _ | .kOr _ _ _ | .kXor _ _ _ | .kShl _ _ _ | .kShr _ _ _ | .kSar _ _ _ | .kMul _ _ _
  | .kSlt _ _ _ | .kSltu _ _ _ | .kSeq _ _ _ | .kAddi _ _ _ | .kLdk _ _ _ | .kLdD _ _ _ | .kLdW _ _ _ | .kStD _ _ _
  | .kStW _ _ _ | .kBeq _ _ _ | .kBne _ _ _ | .kBlt _ _ _ | .kBltu _ _ _ | .kJmp _ | .kCall _ | .kJr _ | .kEmit _ _ | .kEmap _ _
  | .kLda _ _ _ | .kMtr _ | .kTend | .kTfail _ | .imagePrepare | .translatorRunStart | .meter | .spawnDecision | .cardDecision
  | .budgetExtensionDecision | .counterSignal | .taskPlacement | .chunkDeal | .argumentPushComplete | .deadlinePass
  | .dieCounterTick | .revocationTest | .preemptionRequestArrival | .hintWindowExpiry | .drainComplete | .saveComplete
  | .restoreComplete | .whistleSettled | .programOrderStart | .programInstructionLimit | .retentionLockAge | .replayPlacement
  | .foldScanStart | .observationTake | .closedFormFit | .sgdStep | .weightsArrival | .regionReset | .cacheRemoval
  | .rotationClusterStart | .uncorrectable | .parityResend | .laneTest | .flitReceive | .contributionLand | .collectiveExpiry
  | .doorbellSubmit | .commandTake | .launchDecision | .doorbellRelease | .resetDoorbell | .completionWrite | .ecntStaticShare
  | .islandWake | .islandGate | .pageIn | .migrationPrecopyRound | .migrationRelease | .supervisorStart | .partitionCreate
  | .powerOn | .illegalWord | .fetchFault | .hcall | .observationArrival | .hostWrite | .freeCountReport | .partitionRelease
  | .launchQueueCreate | .recoveryBootImage => true

end Sys2Proof
end

