-- ==== Sys2Proof/Decode.lean ====
section
/-! DEFINITION. Instruction words: the decoder of R67 to R86, which rejects a word by the reason of the first failing
step among 1 to 7 of R86, and the encoder written from the same tables. -/

namespace Sys2Proof

/-- The code of a width (R71). -/
def Width.code : Width → Nat
  | .d => 0 | .w => 1 | .h => 2 | .b => 3

/-- The width of a code below 4. -/
def Width.ofCode : Nat → Width
  | 0 => .d | 1 => .w | 2 => .h | _ => .b

/-- The code of a saturation mode. -/
def Sat.code : Sat → Nat
  | .wrap => 0 | .sats => 1 | .satu => 2

/-- The saturation mode of a code; 3 is reserved. -/
def Sat.ofCode : Nat → Option Sat
  | 0 => some .wrap | 1 => some .sats | 2 => some .satu | _ => none

/-- The code of a load size. -/
def LdSize.code : LdSize → Nat
  | .d => 0 | .ws => 1 | .hs => 2 | .bs => 3 | .wz => 5 | .hz => 6 | .bz => 7

/-- The load size of a code below 8; 4 is reserved. -/
def LdSize.ofCode : Nat → Option LdSize
  | 0 => some .d | 1 => some .ws | 2 => some .hs | 3 => some .bs
  | 5 => some .wz | 6 => some .hz | 7 => some .bz | _ => none

/-- The code of a scope. -/
def Scope.code : Scope → Nat
  | .core => 0 | .cluster => 1 | .die => 2 | .device => 3 | .system => 4

/-- The scope of a code; 5 to 7 are reserved. -/
def Scope.ofCode : Nat → Option Scope
  | 0 => some .core | 1 => some .cluster | 2 => some .die | 3 => some .device
  | 4 => some .system | _ => none

/-- The code of an order. -/
def Order.code : Order → Nat
  | .plain => 0 | .acq => 1 | .rel => 2 | .sc => 3

/-- The order of a code below 4. -/
def Order.ofCode : Nat → Order
  | 0 => .plain | 1 => .acq | 2 => .rel | _ => .sc

/-- The code of an integer lane type. -/
def ILane.code : ILane → Nat
  | .bs => 0 | .hs => 1 | .ws => 2 | .ds => 3 | .bz => 4 | .hz => 5 | .wz => 6 | .dz => 7

/-- The integer lane type of a code; 8 to 15 are none. -/
def ILane.ofCode : Nat → Option ILane
  | 0 => some .bs | 1 => some .hs | 2 => some .ws | 3 => some .ds
  | 4 => some .bz | 5 => some .hz | 6 => some .wz | 7 => some .dz | _ => none

/-- The code of a float lane type. -/
def FLane.code : FLane → Nat
  | .f16 => 8 | .bf16 => 9 | .f32 => 10 | .f64 => 11

/-- The float lane type of a code; others are none. -/
def FLane.ofCode : Nat → Option FLane
  | 8 => some .f16 | 9 => some .bf16 | 10 => some .f32 | 11 => some .f64 | _ => none

/-- The code of a lane type. -/
def Lane.code : Lane → Nat
  | .int t => t.code | .flt t => t.code

/-- The lane type of a code; 12 to 15 are reserved. -/
def Lane.ofCode (n : Nat) : Option Lane :=
  match ILane.ofCode n with
  | some t => some (.int t)
  | none =>
    match FLane.ofCode n with
    | some t => some (.flt t)
    | none => none

/-- The code of a rounding. -/
def Rnd.code : Rnd → Nat
  | .rne => 0 | .rz => 1 | .ru => 2 | .rd => 3 | .sr => 4 | .dyn => 5

/-- The rounding of a code; 6 and 7 are reserved. -/
def Rnd.ofCode : Nat → Option Rnd
  | 0 => some .rne | 1 => some .rz | 2 => some .ru | 3 => some .rd
  | 4 => some .sr | 5 => some .dyn | _ => none

/-- The code of a conversion type. -/
def CvType.code : CvType → Nat
  | .ds => 0 | .dz => 1 | .ws => 2 | .wz => 3 | .f64 => 4 | .f32 => 5 | .f16 => 6
  | .bf16 => 7 | .narrow => 8

/-- The conversion type of a code; 9 to 15 are unassigned. -/
def CvType.ofCode : Nat → Option CvType
  | 0 => some .ds | 1 => some .dz | 2 => some .ws | 3 => some .wz | 4 => some .f64
  | 5 => some .f32 | 6 => some .f16 | 7 => some .bf16 | 8 => some .narrow | _ => none

/-- The sizes of a store: codes 0 to 3 (R71); 4 to 7 are reserved. -/
def stSize : Nat → Option Width
  | 0 => some .d | 1 => some .w | 2 => some .h | 3 => some .b | _ => none

/-- The lane types of vdot4: T 0 or 4 (R80). -/
def dotLane : Nat → Option ILane
  | 0 => some .bs | 4 => some .bz | _ => none

/-- The format registers of qnt and dqt: vc/type 0 to 7 (R82). -/
def fmt8 (n : Nat) : Option FmtId := if h : n < 8 then some ⟨n, h⟩ else none

/-- The dimension counts of tset: 0 to 5 (R81). -/
def ndim6 (n : Nat) : Option (Fin 6) := if h : n < 6 then some ⟨n, h⟩ else none

/-- The value of a flag as one bit. -/
def bit (b : Bool) : Nat := if b then 1 else 0

/-- The field of `len` bits at `lo` of a word. -/
def fin (w lo len : Nat) : Fin (2 ^ len) := ⟨w / 2 ^ lo % 2 ^ len, Nat.mod_lt _ (Nat.two_pow_pos len)⟩

/-- A field in two parts: the low `len` bits stand at `lo`, the rest at `hi`. -/
def fin2 (w lo len hi len2 : Nat) : Fin (2 ^ (len + len2)) :=
  ⟨w / 2 ^ lo % 2 ^ len + 2 ^ len * (w / 2 ^ hi % 2 ^ len2), by
    have h1 : w / 2 ^ lo % 2 ^ len < 2 ^ len := Nat.mod_lt _ (Nat.two_pow_pos len)
    have h2 : w / 2 ^ hi % 2 ^ len2 < 2 ^ len2 := Nat.mod_lt _ (Nat.two_pow_pos len2)
    calc w / 2 ^ lo % 2 ^ len + 2 ^ len * (w / 2 ^ hi % 2 ^ len2)
        < 2 ^ len + 2 ^ len * (w / 2 ^ hi % 2 ^ len2) := Nat.add_lt_add_right h1 _
      _ = 2 ^ len * (w / 2 ^ hi % 2 ^ len2 + 1) := by rw [Nat.mul_add, Nat.mul_one, Nat.add_comm]
      _ ≤ 2 ^ len * 2 ^ len2 := Nat.mul_le_mul_left _ h2
      _ = 2 ^ (len + len2) := (Nat.pow_add 2 len len2).symm⟩

/-- The running maximum an instruction names: G at `g`, AMX at `m` (R169, R178, R207). -/
def amxDec (w g m : Nat) : AmxSel := if bitAt w g then some (fin w m 2) else none

/-- The G bit of an amx operand. -/
def amxG : AmxSel → Nat
  | none => 0 | some _ => 1

/-- The AMX number of an amx operand; 0 where none is named. -/
def amxM : AmxSel → Nat
  | none => 0 | some k => k.val

/-- R86 step 6: fields that must be zero. -/
def zeros (w : Nat) (fields : List (Nat × Nat)) (k : Except Nat Instr) : Except Nat Instr :=
  if fields.all (fun p => bitsAt w p.1 p.2 == 0) then k else .error 4

/-- G = 0 requires the AMX number 0, reason 4 (R169, R178, R207). -/
def amxZero (w g m : Nat) (k : Except Nat Instr) : Except Nat Instr :=
  if bitAt w g || bitsAt w m 2 == 0 then k else .error 4

/-- tset with NDIM 0 has a zero, reason 4 (R156). -/
def tsetZero (w : Nat) (k : Except Nat Instr) : Except Nat Instr :=
  if bitsAt w 1 3 == 0 && bitsAt w 16 5 != 0 then .error 4 else k

/-- A nonzero SAT where the operation does not saturate is a reserved combination, reason 5 (R92, R144). -/
def satZero (w lo : Nat) (k : Except Nat Instr) : Except Nat Instr :=
  if bitsAt w lo 2 == 0 then k else .error 5

/-- R86 step 7: a modifier code that must not be reserved. -/
def need {α : Type} (o : Option α) (k : α → Except Nat Instr) : Except Nat Instr :=
  match o with
  | none => .error 5
  | some x => k x

/-- R86 step 7: a combination that must not be reserved. -/
def wfGuard (i : Instr) : Except Nat Instr := if wellFormed i then .ok i else .error 5

/-- A control number is at most 63 (R237). -/
def cnOk (w : Nat) (k : Except Nat Instr) : Except Nat Instr :=
  if bitsAt w 9 3 == 0 then k else .error 5

/-- The amx.clr of a running maximum (R82). -/
def amxClrOf : Nat → Instr
  | 0 => .amxClr0 | 1 => .amxClr1 | 2 => .amxClr2 | _ => .amxClr3

/-- The loopx of a level (R76). -/
def loopxOf : Nat → Instr
  | 0 => .loopx0 | 1 => .loopx1 | 2 => .loopx2 | _ => .loopx3

/-- Major 0x01: add, sub, mul, mulh, mulhu, div and others. -/
def dec01 (w : Nat) : Except Nat Instr :=
  match bitsAt w 0 6 with
  | 0 => zeros w [(6, 1)] <| need (Sat.ofCode (bitsAt w 9 2)) fun s => .ok (.add (fin w 21 5) (fin w 16 5) (fin w 11 5) s (Width.ofCode (bitsAt w 7 2)))
  | 1 => zeros w [(6, 1)] <| need (Sat.ofCode (bitsAt w 9 2)) fun s => .ok (.sub (fin w 21 5) (fin w 16 5) (fin w 11 5) s (Width.ofCode (bitsAt w 7 2)))
  | 2 => zeros w [(6, 1)] <| need (Sat.ofCode (bitsAt w 9 2)) fun s => .ok (.mul (fin w 21 5) (fin w 16 5) (fin w 11 5) s (Width.ofCode (bitsAt w 7 2)))
  | 3 => zeros w [(6, 1)] <| satZero w 9 <| .ok (.mulh (fin w 21 5) (fin w 16 5) (fin w 11 5) (Width.ofCode (bitsAt w 7 2)))
  | 4 => zeros w [(6, 1)] <| satZero w 9 <| .ok (.mulhu (fin w 21 5) (fin w 16 5) (fin w 11 5) (Width.ofCode (bitsAt w 7 2)))
  | 5 => zeros w [(6, 1)] <| satZero w 9 <| .ok (.div (fin w 21 5) (fin w 16 5) (fin w 11 5) (Width.ofCode (bitsAt w 7 2)))
  | 6 => zeros w [(6, 1)] <| satZero w 9 <| .ok (.divu (fin w 21 5) (fin w 16 5) (fin w 11 5) (Width.ofCode (bitsAt w 7 2)))
  | 7 => zeros w [(6, 1)] <| satZero w 9 <| .ok (.rem (fin w 21 5) (fin w 16 5) (fin w 11 5) (Width.ofCode (bitsAt w 7 2)))
  | 8 => zeros w [(6, 1)] <| satZero w 9 <| .ok (.remu (fin w 21 5) (fin w 16 5) (fin w 11 5) (Width.ofCode (bitsAt w 7 2)))
  | 9 => zeros w [(6, 1)] <| satZero w 9 <| .ok (.and (fin w 21 5) (fin w 16 5) (fin w 11 5) (Width.ofCode (bitsAt w 7 2)))
  | 10 => zeros w [(6, 1)] <| satZero w 9 <| .ok (.or (fin w 21 5) (fin w 16 5) (fin w 11 5) (Width.ofCode (bitsAt w 7 2)))
  | 11 => zeros w [(6, 1)] <| satZero w 9 <| .ok (.xor (fin w 21 5) (fin w 16 5) (fin w 11 5) (Width.ofCode (bitsAt w 7 2)))
  | 12 => zeros w [(6, 1)] <| satZero w 9 <| .ok (.andn (fin w 21 5) (fin w 16 5) (fin w 11 5) (Width.ofCode (bitsAt w 7 2)))
  | 13 => zeros w [(6, 1)] <| satZero w 9 <| .ok (.shl (fin w 21 5) (fin w 16 5) (fin w 11 5) (Width.ofCode (bitsAt w 7 2)))
  | 14 => zeros w [(6, 1)] <| satZero w 9 <| .ok (.shr (fin w 21 5) (fin w 16 5) (fin w 11 5) (Width.ofCode (bitsAt w 7 2)))
  | 15 => zeros w [(6, 1)] <| satZero w 9 <| .ok (.sar (fin w 21 5) (fin w 16 5) (fin w 11 5) (Width.ofCode (bitsAt w 7 2)))
  | 16 => zeros w [(6, 1)] <| satZero w 9 <| .ok (.rot (fin w 21 5) (fin w 16 5) (fin w 11 5) (Width.ofCode (bitsAt w 7 2)))
  | 17 => zeros w [(6, 1)] <| satZero w 9 <| .ok (.min (fin w 21 5) (fin w 16 5) (fin w 11 5) (Width.ofCode (bitsAt w 7 2)))
  | 18 => zeros w [(6, 1)] <| satZero w 9 <| .ok (.max (fin w 21 5) (fin w 16 5) (fin w 11 5) (Width.ofCode (bitsAt w 7 2)))
  | 19 => zeros w [(6, 1)] <| satZero w 9 <| .ok (.minu (fin w 21 5) (fin w 16 5) (fin w 11 5) (Width.ofCode (bitsAt w 7 2)))
  | 20 => zeros w [(6, 1)] <| satZero w 9 <| .ok (.maxu (fin w 21 5) (fin w 16 5) (fin w 11 5) (Width.ofCode (bitsAt w 7 2)))
  | 21 => zeros w [(6, 1)] <| satZero w 9 <| .ok (.seq (fin w 21 5) (fin w 16 5) (fin w 11 5) (Width.ofCode (bitsAt w 7 2)))
  | 22 => zeros w [(6, 1)] <| satZero w 9 <| .ok (.sne (fin w 21 5) (fin w 16 5) (fin w 11 5) (Width.ofCode (bitsAt w 7 2)))
  | 23 => zeros w [(6, 1)] <| satZero w 9 <| .ok (.slt (fin w 21 5) (fin w 16 5) (fin w 11 5) (Width.ofCode (bitsAt w 7 2)))
  | 24 => zeros w [(6, 1)] <| satZero w 9 <| .ok (.sltu (fin w 21 5) (fin w 16 5) (fin w 11 5) (Width.ofCode (bitsAt w 7 2)))
  | 25 => .ok (.sel (fin w 21 5) (fin w 16 5) (fin w 11 5) (fin w 6 5))
  | _ => .error 3

/-- Major 0x02: addi. -/
def dec02 (w : Nat) : Except Nat Instr :=
  .ok (.addi (fin w 21 5) (fin w 16 5) (fin w 0 16))

/-- Major 0x03: andi. -/
def dec03 (w : Nat) : Except Nat Instr :=
  .ok (.andi (fin w 21 5) (fin w 16 5) (fin w 0 16))

/-- Major 0x04: ori. -/
def dec04 (w : Nat) : Except Nat Instr :=
  .ok (.ori (fin w 21 5) (fin w 16 5) (fin w 0 16))

/-- Major 0x05: xori. -/
def dec05 (w : Nat) : Except Nat Instr :=
  .ok (.xori (fin w 21 5) (fin w 16 5) (fin w 0 16))

/-- Major 0x06: shli, shri, sari, roti. -/
def dec06 (w : Nat) : Except Nat Instr :=
  match bitsAt w 6 2 with
  | 0 => zeros w [(8, 8)] <| .ok (.shli (fin w 21 5) (fin w 16 5) (fin w 0 6))
  | 1 => zeros w [(8, 8)] <| .ok (.shri (fin w 21 5) (fin w 16 5) (fin w 0 6))
  | 2 => zeros w [(8, 8)] <| .ok (.sari (fin w 21 5) (fin w 16 5) (fin w 0 6))
  | 3 => zeros w [(8, 8)] <| .ok (.roti (fin w 21 5) (fin w 16 5) (fin w 0 6))
  | _ => .error 3

/-- Major 0x07: ldk. -/
def dec07 (w : Nat) : Except Nat Instr :=
  zeros w [(18, 3)] <| .ok (.ldk (fin w 21 5) (fin w 16 2) (fin w 0 16))

/-- Major 0x08: mov, clz, ctz, popc, ext, bfx and others. -/
def dec08 (w : Nat) : Except Nat Instr :=
  match bitsAt w 0 3 with
  | 0 => zeros w [(3, 13)] <| .ok (.mov (fin w 21 5) (fin w 16 5))
  | 1 => zeros w [(3, 13)] <| .ok (.clz (fin w 21 5) (fin w 16 5))
  | 2 => zeros w [(3, 13)] <| .ok (.ctz (fin w 21 5) (fin w 16 5))
  | 3 => zeros w [(3, 13)] <| .ok (.popc (fin w 21 5) (fin w 16 5))
  | 4 => zeros w [(6, 10)] <| wfGuard (.ext (fin w 21 5) (fin w 16 5) (bitAt w 5) (Width.ofCode (bitsAt w 3 2)))
  | 5 => wfGuard (.bfx (fin w 21 5) (fin w 16 5) (fin2 w 11 5 9 1) (bitAt w 10) (fin w 3 6))
  | 6 => zeros w [(10, 1)] <| wfGuard (.bfi (fin w 21 5) (fin w 16 5) (fin2 w 11 5 9 1) (fin w 3 6))
  | _ => .error 3

/-- Major 0x0A: beq. -/
def dec0A (w : Nat) : Except Nat Instr :=
  .ok (.beq (fin w 21 5) (fin w 16 5) (fin w 0 16))

/-- Major 0x0B: bne. -/
def dec0B (w : Nat) : Except Nat Instr :=
  .ok (.bne (fin w 21 5) (fin w 16 5) (fin w 0 16))

/-- Major 0x0C: blt. -/
def dec0C (w : Nat) : Except Nat Instr :=
  .ok (.blt (fin w 21 5) (fin w 16 5) (fin w 0 16))

/-- Major 0x0D: bge. -/
def dec0D (w : Nat) : Except Nat Instr :=
  .ok (.bge (fin w 21 5) (fin w 16 5) (fin w 0 16))

/-- Major 0x0E: bltu. -/
def dec0E (w : Nat) : Except Nat Instr :=
  .ok (.bltu (fin w 21 5) (fin w 16 5) (fin w 0 16))

/-- Major 0x0F: bgeu. -/
def dec0F (w : Nat) : Except Nat Instr :=
  .ok (.bgeu (fin w 21 5) (fin w 16 5) (fin w 0 16))

/-- Major 0x10: jmp. -/
def dec10 (w : Nat) : Except Nat Instr :=
  .ok (.jmp (fin w 0 26))

/-- Major 0x11: call. -/
def dec11 (w : Nat) : Except Nat Instr :=
  .ok (.call (fin w 0 26))

/-- Major 0x12: jr, callr, ret, loopx. -/
def dec12 (w : Nat) : Except Nat Instr :=
  match bitsAt w 0 2 with
  | 0 => zeros w [(2, 14), (21, 5)] <| .ok (.jr (fin w 16 5))
  | 1 => zeros w [(2, 14)] <| .ok (.callr (fin w 21 5) (fin w 16 5))
  | 2 => zeros w [(2, 24)] <| .ok .ret
  | 3 => zeros w [(4, 22)] <| .ok (loopxOf (bitsAt w 2 2))
  | _ => .error 3

/-- Major 0x13: loop. -/
def dec13 (w : Nat) : Except Nat Instr :=
  zeros w [(0, 7)] <| .ok (.loop (fin w 24 2) (fin w 19 5) (fin w 7 12))

/-- Major 0x14: ld. -/
def dec14 (w : Nat) : Except Nat Instr :=
  need (LdSize.ofCode (bitsAt w 13 3)) fun z => .ok (.ld (fin w 21 5) (fin w 16 5) z (fin w 0 13))

/-- Major 0x15: st. -/
def dec15 (w : Nat) : Except Nat Instr :=
  need (stSize (bitsAt w 13 3)) fun z => .ok (.st (fin w 21 5) (fin w 16 5) z (fin w 0 13))

/-- Major 0x16: ld.v and st.v; SIZE 2 to 7 is reserved (R77). -/
def dec16 (w : Nat) : Except Nat Instr :=
  zeros w [(25, 1)] <|
  match bitsAt w 13 3 with
  | 0 => .ok (.ldV (fin w 21 4) (fin w 16 5) (fin w 0 13))
  | 1 => .ok (.stV (fin w 21 4) (fin w 16 5) (fin w 0 13))
  | _ => .error 5

/-- Major 0x17: amo.add, amo.min, amo.max, amo.and, amo.or, amo.xor and others. -/
def dec17 (w : Nat) : Except Nat Instr :=
  match bitsAt w 8 3 with
  | 0 => zeros w [(0, 2)] <| need (Scope.ofCode (bitsAt w 4 3)) fun sc => .ok (.amoAdd (fin w 21 5) (fin w 16 5) (fin w 11 5) (bitAt w 7) sc (Order.ofCode (bitsAt w 2 2)))
  | 1 => zeros w [(0, 2)] <| need (Scope.ofCode (bitsAt w 4 3)) fun sc => .ok (.amoMin (fin w 21 5) (fin w 16 5) (fin w 11 5) (bitAt w 7) sc (Order.ofCode (bitsAt w 2 2)))
  | 2 => zeros w [(0, 2)] <| need (Scope.ofCode (bitsAt w 4 3)) fun sc => .ok (.amoMax (fin w 21 5) (fin w 16 5) (fin w 11 5) (bitAt w 7) sc (Order.ofCode (bitsAt w 2 2)))
  | 3 => zeros w [(0, 2)] <| need (Scope.ofCode (bitsAt w 4 3)) fun sc => .ok (.amoAnd (fin w 21 5) (fin w 16 5) (fin w 11 5) (bitAt w 7) sc (Order.ofCode (bitsAt w 2 2)))
  | 4 => zeros w [(0, 2)] <| need (Scope.ofCode (bitsAt w 4 3)) fun sc => .ok (.amoOr (fin w 21 5) (fin w 16 5) (fin w 11 5) (bitAt w 7) sc (Order.ofCode (bitsAt w 2 2)))
  | 5 => zeros w [(0, 2)] <| need (Scope.ofCode (bitsAt w 4 3)) fun sc => .ok (.amoXor (fin w 21 5) (fin w 16 5) (fin w 11 5) (bitAt w 7) sc (Order.ofCode (bitsAt w 2 2)))
  | 6 => zeros w [(0, 2)] <| need (Scope.ofCode (bitsAt w 4 3)) fun sc => .ok (.amoSwp (fin w 21 5) (fin w 16 5) (fin w 11 5) (bitAt w 7) sc (Order.ofCode (bitsAt w 2 2)))
  | 7 => zeros w [(0, 2)] <| need (Scope.ofCode (bitsAt w 4 3)) fun sc => .ok (.amoCas (fin w 21 5) (fin w 16 5) (fin w 11 5) (bitAt w 7) sc (Order.ofCode (bitsAt w 2 2)))
  | _ => .error 3

/-- Major 0x18: ld.scoped, st.scoped, fence. -/
def dec18 (w : Nat) : Except Nat Instr :=
  match bitsAt w 0 3 with
  | 0 => need (LdSize.ofCode (bitsAt w 8 3)) fun z => need (Scope.ofCode (bitsAt w 5 3)) fun sc => wfGuard (.ldScoped (fin w 21 5) (fin w 16 5) (fin w 11 5) z sc (Order.ofCode (bitsAt w 3 2)))
  | 1 => need (stSize (bitsAt w 8 3)) fun z => need (Scope.ofCode (bitsAt w 5 3)) fun sc => wfGuard (.stScoped (fin w 21 5) (fin w 16 5) (fin w 11 5) z sc (Order.ofCode (bitsAt w 3 2)))
  | 2 => zeros w [(8, 18)] <| need (Scope.ofCode (bitsAt w 5 3)) fun sc => wfGuard (.fence sc (Order.ofCode (bitsAt w 3 2)))
  | _ => .error 3

/-- Major 0x19: bar.init, bar.arr, bar.drop, bar.wait, bar.q, rng.init and others. -/
def dec19 (w : Nat) : Except Nat Instr :=
  match bitsAt w 0 4 with
  | 0 => zeros w [(4, 7), (21, 5)] <| .ok (.barInit (fin w 16 5) (fin w 11 5))
  | 1 => zeros w [(4, 12)] <| .ok (.barArr (fin w 21 5) (fin w 16 5))
  | 2 => zeros w [(4, 12)] <| .ok (.barDrop (fin w 21 5) (fin w 16 5))
  | 3 => zeros w [(4, 7)] <| .ok (.barWait (fin w 21 5) (fin w 16 5) (fin w 11 5))
  | 4 => zeros w [(4, 12)] <| .ok (.barQ (fin w 21 5) (fin w 16 5))
  | 5 => zeros w [(4, 7), (21, 5)] <| .ok (.rngInit (fin w 16 5) (fin w 11 5))
  | 6 => zeros w [(4, 7)] <| .ok (.rngRsv (fin w 21 5) (fin w 16 5) (fin w 11 5))
  | 7 => zeros w [(4, 7), (21, 5)] <| .ok (.rngPub (fin w 16 5) (fin w 11 5))
  | 8 => zeros w [(4, 7)] <| .ok (.rngTake (fin w 21 5) (fin w 16 5) (fin w 11 5))
  | 9 => zeros w [(4, 12)] <| .ok (.rngQ (fin w 21 5) (fin w 16 5))
  | _ => .error 3

/-- Major 0x1A: ppoll, pdrain. -/
def dec1A (w : Nat) : Except Nat Instr :=
  match bitsAt w 0 1 with
  | 0 => zeros w [(3, 18)] <| .ok (.ppoll (fin w 21 5) (fin w 1 2))
  | 1 => zeros w [(3, 18)] <| .ok (.pdrain (fin w 21 5) (fin w 1 2))
  | _ => .error 3

/-- Major 0x1B: fld, fst. -/
def dec1B (w : Nat) : Except Nat Instr :=
  match bitsAt w 12 1 with
  | 0 => need (LdSize.ofCode (bitsAt w 13 3)) fun z => .ok (.fld (fin w 21 5) (fin w 16 5) z (fin w 0 12))
  | 1 => need (stSize (bitsAt w 13 3)) fun z => .ok (.fst (fin w 21 5) (fin w 16 5) z (fin w 0 12))
  | _ => .error 3

/-- Major 0x1C: push, pull. -/
def dec1C (w : Nat) : Except Nat Instr :=
  match bitsAt w 0 1 with
  | 0 => zeros w [(1, 10)] <| .ok (.push (fin w 21 5) (fin w 16 5) (fin w 11 5))
  | 1 => zeros w [(1, 10)] <| .ok (.pull (fin w 21 5) (fin w 16 5) (fin w 11 5))
  | _ => .error 3

/-- Major 0x1D: vadd, vsub, vmul, vmla, vmin, vmax and others. -/
def dec1D (w : Nat) : Except Nat Instr :=
  match bitsAt w 4 6 with
  | 0 => zeros w [(0, 2)] <| need (ILane.ofCode (bitsAt w 10 4)) fun t => need (Sat.ofCode (bitsAt w 2 2)) fun s => .ok (.vadd (fin w 22 4) (fin w 18 4) (fin w 14 4) t s)
  | 1 => zeros w [(0, 2)] <| need (ILane.ofCode (bitsAt w 10 4)) fun t => need (Sat.ofCode (bitsAt w 2 2)) fun s => .ok (.vsub (fin w 22 4) (fin w 18 4) (fin w 14 4) t s)
  | 2 => zeros w [(0, 2)] <| need (ILane.ofCode (bitsAt w 10 4)) fun t => need (Sat.ofCode (bitsAt w 2 2)) fun s => .ok (.vmul (fin w 22 4) (fin w 18 4) (fin w 14 4) t s)
  | 3 => zeros w [(0, 2)] <| need (ILane.ofCode (bitsAt w 10 4)) fun t => need (Sat.ofCode (bitsAt w 2 2)) fun s => .ok (.vmla (fin w 22 4) (fin w 18 4) (fin w 14 4) t s)
  | 4 => zeros w [(0, 2)] <| satZero w 2 <| need (ILane.ofCode (bitsAt w 10 4)) fun t => .ok (.vmin (fin w 22 4) (fin w 18 4) (fin w 14 4) t)
  | 5 => zeros w [(0, 2)] <| satZero w 2 <| need (ILane.ofCode (bitsAt w 10 4)) fun t => .ok (.vmax (fin w 22 4) (fin w 18 4) (fin w 14 4) t)
  | 6 => zeros w [(0, 2), (14, 4)] <| need (ILane.ofCode (bitsAt w 10 4)) fun t => need (Sat.ofCode (bitsAt w 2 2)) fun s => .ok (.vabs (fin w 22 4) (fin w 18 4) t s)
  | 7 => zeros w [(0, 2), (14, 4)] <| need (ILane.ofCode (bitsAt w 10 4)) fun t => need (Sat.ofCode (bitsAt w 2 2)) fun s => .ok (.vneg (fin w 22 4) (fin w 18 4) t s)
  | 8 => zeros w [(0, 2)] <| satZero w 2 <| need (ILane.ofCode (bitsAt w 10 4)) fun t => .ok (.vand (fin w 22 4) (fin w 18 4) (fin w 14 4) t)
  | 9 => zeros w [(0, 2)] <| satZero w 2 <| need (ILane.ofCode (bitsAt w 10 4)) fun t => .ok (.vor (fin w 22 4) (fin w 18 4) (fin w 14 4) t)
  | 10 => zeros w [(0, 2)] <| satZero w 2 <| need (ILane.ofCode (bitsAt w 10 4)) fun t => .ok (.vxor (fin w 22 4) (fin w 18 4) (fin w 14 4) t)
  | 11 => zeros w [(0, 2)] <| satZero w 2 <| need (ILane.ofCode (bitsAt w 10 4)) fun t => .ok (.vandn (fin w 22 4) (fin w 18 4) (fin w 14 4) t)
  | 12 => zeros w [(0, 2)] <| need (ILane.ofCode (bitsAt w 10 4)) fun t => need (Sat.ofCode (bitsAt w 2 2)) fun s => .ok (.vshl (fin w 22 4) (fin w 18 4) (fin w 14 4) t s)
  | 13 => zeros w [(0, 2)] <| satZero w 2 <| need (ILane.ofCode (bitsAt w 10 4)) fun t => .ok (.vshr (fin w 22 4) (fin w 18 4) (fin w 14 4) t)
  | 14 => zeros w [(0, 2)] <| satZero w 2 <| need (ILane.ofCode (bitsAt w 10 4)) fun t => .ok (.vceq (fin w 22 4) (fin w 18 4) (fin w 14 4) t)
  | 15 => zeros w [(0, 2)] <| satZero w 2 <| need (ILane.ofCode (bitsAt w 10 4)) fun t => .ok (.vclt (fin w 22 4) (fin w 18 4) (fin w 14 4) t)
  | 16 => zeros w [(0, 2)] <| satZero w 2 <| need (ILane.ofCode (bitsAt w 10 4)) fun t => .ok (.vcle (fin w 22 4) (fin w 18 4) (fin w 14 4) t)
  | 17 => zeros w [(0, 2)] <| satZero w 2 <| .ok (.vsel (fin w 22 4) (fin w 18 4) (fin w 14 4) (fin w 10 4))
  | _ => .error 3

/-- Major 0x1E: vfadd, vfsub, vfmul, vfma, vfmin, vfmax and others. -/
def dec1E (w : Nat) : Except Nat Instr :=
  match bitsAt w 4 6 with
  | 0 => zeros w [(0, 1)] <| need (FLane.ofCode (bitsAt w 10 4)) fun t => need (Rnd.ofCode (bitsAt w 1 3)) fun r => .ok (.vfadd (fin w 22 4) (fin w 18 4) (fin w 14 4) t r)
  | 1 => zeros w [(0, 1)] <| need (FLane.ofCode (bitsAt w 10 4)) fun t => need (Rnd.ofCode (bitsAt w 1 3)) fun r => .ok (.vfsub (fin w 22 4) (fin w 18 4) (fin w 14 4) t r)
  | 2 => zeros w [(0, 1)] <| need (FLane.ofCode (bitsAt w 10 4)) fun t => need (Rnd.ofCode (bitsAt w 1 3)) fun r => .ok (.vfmul (fin w 22 4) (fin w 18 4) (fin w 14 4) t r)
  | 3 => zeros w [(0, 1)] <| need (FLane.ofCode (bitsAt w 10 4)) fun t => need (Rnd.ofCode (bitsAt w 1 3)) fun r => .ok (.vfma (fin w 22 4) (fin w 18 4) (fin w 14 4) t r)
  | 4 => zeros w [(0, 4)] <| need (FLane.ofCode (bitsAt w 10 4)) fun t => .ok (.vfmin (fin w 22 4) (fin w 18 4) (fin w 14 4) t)
  | 5 => zeros w [(0, 4)] <| need (FLane.ofCode (bitsAt w 10 4)) fun t => .ok (.vfmax (fin w 22 4) (fin w 18 4) (fin w 14 4) t)
  | 6 => zeros w [(0, 4), (14, 4)] <| need (FLane.ofCode (bitsAt w 10 4)) fun t => .ok (.vfabs (fin w 22 4) (fin w 18 4) t)
  | 7 => zeros w [(0, 4), (14, 4)] <| need (FLane.ofCode (bitsAt w 10 4)) fun t => .ok (.vfneg (fin w 22 4) (fin w 18 4) t)
  | 8 => zeros w [(0, 4)] <| need (FLane.ofCode (bitsAt w 10 4)) fun t => .ok (.vfceq (fin w 22 4) (fin w 18 4) (fin w 14 4) t)
  | 9 => zeros w [(0, 4)] <| need (FLane.ofCode (bitsAt w 10 4)) fun t => .ok (.vfclt (fin w 22 4) (fin w 18 4) (fin w 14 4) t)
  | 10 => zeros w [(0, 4)] <| need (FLane.ofCode (bitsAt w 10 4)) fun t => .ok (.vfcle (fin w 22 4) (fin w 18 4) (fin w 14 4) t)
  | _ => .error 3

/-- Major 0x1F: vperm, vdot4, vred.add, vred.min, vred.max, vsplat and others. -/
def dec1F (w : Nat) : Except Nat Instr :=
  match bitsAt w 5 5 with
  | 0 => zeros w [(0, 5)] <| need (Lane.ofCode (bitsAt w 10 4)) fun t => .ok (.vperm (fin w 22 4) (fin w 18 4) (fin w 14 4) t)
  | 1 => zeros w [(2, 3)] <| need (dotLane (bitsAt w 10 4)) fun t => need (Sat.ofCode (bitsAt w 0 2)) fun s => wfGuard (.vdot4 (fin w 22 4) (fin w 18 4) (fin w 14 4) t s)
  | 2 => zeros w [(0, 5), (14, 4)] <| need (Lane.ofCode (bitsAt w 10 4)) fun t => .ok (.vredAdd (fin w 22 4) (fin w 18 4) t)
  | 3 => zeros w [(0, 5), (14, 4)] <| need (Lane.ofCode (bitsAt w 10 4)) fun t => .ok (.vredMin (fin w 22 4) (fin w 18 4) t)
  | 4 => zeros w [(0, 5), (14, 4)] <| need (Lane.ofCode (bitsAt w 10 4)) fun t => .ok (.vredMax (fin w 22 4) (fin w 18 4) t)
  | 5 => zeros w [(0, 4), (18, 4)] <| need (Lane.ofCode (bitsAt w 10 4)) fun t => .ok (.vsplat (fin w 22 4) (fin2 w 14 4 4 1) t)
  | 6 => zeros w [(18, 4)] <| need (Lane.ofCode (bitsAt w 10 4)) fun t => wfGuard (.vins (fin w 22 4) (fin2 w 14 4 4 1) t (fin w 0 4))
  | 7 => zeros w [(22, 4)] <| need (Lane.ofCode (bitsAt w 10 4)) fun t => wfGuard (.vext (fin w 18 4) (fin2 w 14 4 4 1) t (fin w 0 4))
  | _ => .error 3

/-- Major 0x20: tidx, tset. -/
def dec20 (w : Nat) : Except Nat Instr :=
  match bitsAt w 0 1 with
  | 0 => zeros w [(1, 10), (15, 1)] <| .ok (.tidx (fin w 21 5) (fin w 16 5) (fin w 11 4))
  | 1 => zeros w [(4, 12), (25, 1)] <| tsetZero w <| need (ndim6 (bitsAt w 1 3)) fun n => wfGuard (.tset (fin w 21 4) (fin w 16 5) n)
  | _ => .error 3

/-- Major 0x21: fadd, fsub, fmul, fma, fdiv, fsqrt and others. -/
def dec21 (w : Nat) : Except Nat Instr :=
  match bitsAt w 0 6 with
  | 0 => zeros w [(7, 1)] <| need (Rnd.ofCode (bitsAt w 8 3)) fun r => .ok (.fadd (fin w 21 5) (fin w 16 5) (fin w 11 5) r (bitAt w 6))
  | 1 => zeros w [(7, 1)] <| need (Rnd.ofCode (bitsAt w 8 3)) fun r => .ok (.fsub (fin w 21 5) (fin w 16 5) (fin w 11 5) r (bitAt w 6))
  | 2 => zeros w [(7, 1)] <| need (Rnd.ofCode (bitsAt w 8 3)) fun r => .ok (.fmul (fin w 21 5) (fin w 16 5) (fin w 11 5) r (bitAt w 6))
  | 3 => zeros w [(7, 1)] <| need (Rnd.ofCode (bitsAt w 8 3)) fun r => .ok (.fma (fin w 21 5) (fin w 16 5) (fin w 11 5) r (bitAt w 6))
  | 4 => zeros w [(7, 1)] <| need (Rnd.ofCode (bitsAt w 8 3)) fun r => .ok (.fdiv (fin w 21 5) (fin w 16 5) (fin w 11 5) r (bitAt w 6))
  | 5 => zeros w [(7, 1), (11, 5)] <| need (Rnd.ofCode (bitsAt w 8 3)) fun r => .ok (.fsqrt (fin w 21 5) (fin w 16 5) r (bitAt w 6))
  | 6 => zeros w [(7, 4)] <| .ok (.fmin (fin w 21 5) (fin w 16 5) (fin w 11 5) (bitAt w 6))
  | 7 => zeros w [(7, 4)] <| .ok (.fmax (fin w 21 5) (fin w 16 5) (fin w 11 5) (bitAt w 6))
  | 8 => zeros w [(7, 4)] <| .ok (.fcmp (fin w 21 5) (fin w 16 5) (fin w 11 5) (bitAt w 6))
  | _ => .error 3

/-- The cvt forms of major 0x22 (R82, R166): b is zero unless a side is narrow, and then its top two bits are. -/
def decCvt (w : Nat) (t c : CvType) : Except Nat Instr :=
  (if t == .narrow || c == .narrow then zeros w [(14, 2)] else zeros w [(11, 5)]) <|
  need (Rnd.ofCode (bitsAt w 8 3)) fun r => wfGuard (.cvt (fin w 21 5) (fin w 16 5) (fin w 11 3) r t c)

/-- Major 0x22: cvt, fmtw, fmtr (R82). -/
def dec22 (w : Nat) : Except Nat Instr :=
  match bitsAt w 0 8 with
  | 240 => zeros w [(8, 3), (14, 2), (21, 5)] <| .ok (.fmtw (fin w 16 5) (fin w 11 3))
  | 241 => zeros w [(8, 3), (14, 7)] <| .ok (.fmtr (fin w 21 5) (fin w 11 3))
  | _ =>
    match CvType.ofCode (bitsAt w 4 4), CvType.ofCode (bitsAt w 0 4) with
    | some t, some c => decCvt w t c
    | _, _ => .error 3

/-- Major 0x23: qnt, dqt, amx.rd, amx.clr. -/
def dec23 (w : Nat) : Except Nat Instr :=
  match bitsAt w 6 4 with
  | 0 => amxZero w 2 0 <| need (fmt8 (bitsAt w 10 4)) fun f => need (Rnd.ofCode (bitsAt w 3 3)) fun r => .ok (.qnt (fin w 22 4) (fin w 18 4) (fin w 14 4) f r (amxDec w 2 0))
  | 1 => amxZero w 2 0 <| need (fmt8 (bitsAt w 10 4)) fun f => need (Rnd.ofCode (bitsAt w 3 3)) fun r => .ok (.dqt (fin w 22 4) (fin w 18 4) (fin w 14 4) f r (amxDec w 2 0))
  | 2 => zeros w [(3, 3), (10, 12)] <| .ok (.amxRd (fin2 w 22 4 2 1) (fin w 0 2))
  | 3 => zeros w [(2, 4), (10, 16)] <| .ok (amxClrOf (bitsAt w 0 2))
  | _ => .error 3

/-- Major 0x24: fsin, fcos, fexp2, flog2, frcp, frsq and others. -/
def dec24 (w : Nat) : Except Nat Instr :=
  match bitsAt w 0 3 with
  | 0 => zeros w [(3, 5), (11, 5)] <| need (Rnd.ofCode (bitsAt w 8 3)) fun r => .ok (.fsin (fin w 21 5) (fin w 16 5) r)
  | 1 => zeros w [(3, 5), (11, 5)] <| need (Rnd.ofCode (bitsAt w 8 3)) fun r => .ok (.fcos (fin w 21 5) (fin w 16 5) r)
  | 2 => zeros w [(3, 5), (11, 5)] <| need (Rnd.ofCode (bitsAt w 8 3)) fun r => .ok (.fexp2 (fin w 21 5) (fin w 16 5) r)
  | 3 => zeros w [(3, 5), (11, 5)] <| need (Rnd.ofCode (bitsAt w 8 3)) fun r => .ok (.flog2 (fin w 21 5) (fin w 16 5) r)
  | 4 => zeros w [(3, 5), (11, 5)] <| need (Rnd.ofCode (bitsAt w 8 3)) fun r => .ok (.frcp (fin w 21 5) (fin w 16 5) r)
  | 5 => zeros w [(3, 5), (11, 5)] <| need (Rnd.ofCode (bitsAt w 8 3)) fun r => .ok (.frsq (fin w 21 5) (fin w 16 5) r)
  | 6 => zeros w [(3, 5), (11, 5)] <| need (Rnd.ofCode (bitsAt w 8 3)) fun r => .ok (.ftanh (fin w 21 5) (fin w 16 5) r)
  | _ => .error 3

/-- Major 0x25: fmtp. -/
def dec25 (w : Nat) : Except Nat Instr :=
  zeros w [(0, 14)] <| need (Rnd.ofCode (bitsAt w 14 3)) fun r => .ok (.fmtp (fin w 23 3) (fin w 20 3) (fin w 17 3) r)

/-- Major 0x26: mma, mma.l, mma.z, mma.z.l, accz, accld and others. -/
def dec26 (w : Nat) : Except Nat Instr :=
  match bitsAt w 19 7 with
  | 0 => zeros w [(2, 4)] <| .ok (.mma (fin w 14 5) (fin w 9 5) (fin w 6 3) (fin w 0 2))
  | 1 => zeros w [(2, 4)] <| .ok (.mmaL (fin w 14 5) (fin w 9 5) (fin w 6 3) (fin w 0 2))
  | 2 => zeros w [(2, 4)] <| .ok (.mmaZ (fin w 14 5) (fin w 9 5) (fin w 6 3) (fin w 0 2))
  | 3 => zeros w [(2, 4)] <| .ok (.mmaZL (fin w 14 5) (fin w 9 5) (fin w 6 3) (fin w 0 2))
  | 4 => zeros w [(2, 4), (9, 10)] <| .ok (.accz (fin w 6 3) (fin w 0 2))
  | 5 => zeros w [(2, 4)] <| .ok (.accld (fin w 14 5) (fin w 9 5) (fin w 6 3) (fin w 0 2))
  | 6 => amxZero w 3 4 <| .ok (.drn (fin w 14 5) (fin w 9 5) (fin w 6 3) (amxDec w 3 4) (bitAt w 2) (fin w 0 2))
  | 7 => amxZero w 3 4 <| .ok (.drnT (fin w 14 5) (fin w 9 5) (fin w 6 3) (amxDec w 3 4) (bitAt w 2) (fin w 0 2))
  | 8 => zeros w [(2, 4)] <| .ok (.psumAdd (fin w 14 5) (fin w 9 5) (fin w 6 3) (fin w 0 2))
  | 9 => zeros w [(0, 14)] <| .ok (.mqStat (fin w 14 5))
  | 10 => zeros w [(2, 12)] <| .ok (.mqNan (fin w 14 5) (fin w 0 2))
  | 11 => zeros w [(0, 14)] <| .ok (.mqCap (fin w 14 5))
  | 32 => zeros w [(1, 2)] <| amxZero w 3 4 <| .ok (.vxEw (fin w 14 5) (fin w 9 5) (fin w 6 3) (amxDec w 3 4) (bitAt w 0))
  | 33 => zeros w [(0, 3)] <| amxZero w 3 4 <| .ok (.vxRed (fin w 14 5) (fin w 9 5) (fin w 6 3) (amxDec w 3 4))
  | 34 => zeros w [(0, 3)] <| amxZero w 3 4 <| .ok (.vxCvt (fin w 14 5) (fin w 9 5) (fin w 6 3) (amxDec w 3 4))
  | 35 => zeros w [(0, 3)] <| amxZero w 3 4 <| .ok (.vxSfn (fin w 14 5) (fin w 9 5) (fin w 6 3) (amxDec w 3 4))
  | 36 => zeros w [(0, 6)] <| .ok (.vxGth (fin w 14 5) (fin w 9 5) (fin w 6 3))
  | 37 => zeros w [(0, 6)] <| .ok (.vxSct (fin w 14 5) (fin w 9 5) (fin w 6 3))
  | 64 => zeros w [(2, 4), (9, 5)] <| .ok (.cpyGo (fin w 14 5) (fin w 6 3) (fin w 0 2))
  | 96 => zeros w [(0, 6)] <| .ok (.taskSpawn (fin w 14 5) (fin w 9 5) (fin w 6 3))
  | 97 => zeros w [(0, 6)] <| .ok (.taskCard (fin w 14 5) (fin w 9 5) (fin w 6 3))
  | _ => .error 3

/-- Major 0x27: tok.exp, tok.wait.src, tok.wait.vis, tok.bind, tok.rd, efence and others. -/
def dec27 (w : Nat) : Except Nat Instr :=
  match bitsAt w 0 3 with
  | 0 => zeros w [(6, 10), (21, 5)] <| .ok (.tokExp (fin w 16 5) (fin w 3 3))
  | 1 => zeros w [(6, 20)] <| .ok (.tokWaitSrc (fin w 3 3))
  | 2 => zeros w [(6, 20)] <| .ok (.tokWaitVis (fin w 3 3))
  | 3 => zeros w [(6, 10), (21, 5)] <| .ok (.tokBind (fin w 16 5) (fin w 3 3))
  | 4 => zeros w [(6, 15)] <| .ok (.tokRd (fin w 21 5) (fin w 3 3))
  | 5 => zeros w [(3, 3), (9, 17)] <| wfGuard (.efence (fin w 6 3))
  | 6 => zeros w [(3, 18)] <| .ok (.ebusy (fin w 21 5))
  | _ => .error 3

/-- Major 0x28: task.join, halt, flock.id. -/
def dec28 (w : Nat) : Except Nat Instr :=
  match bitsAt w 0 2 with
  | 0 => zeros w [(2, 14)] <| .ok (.taskJoin (fin w 21 5) (fin w 16 5))
  | 1 => zeros w [(2, 14), (21, 5)] <| .ok (.halt (fin w 16 5))
  | 2 => zeros w [(2, 19)] <| .ok (.flockId (fin w 21 5))
  | _ => .error 3

/-- The mtc of major 0x29, by its control number (R237). -/
def decMtc (w : Nat) : Instr :=
  match bitsAt w 16 5 + 32 * bitsAt w 8 1 with
  | 14 => .mtcSeed (fin w 21 5)
  | 16 => .mtcPbind (fin w 21 5) (fin w 16 2)
  | 17 => .mtcPbind (fin w 21 5) (fin w 16 2)
  | 18 => .mtcPbind (fin w 21 5) (fin w 16 2)
  | 19 => .mtcPbind (fin w 21 5) (fin w 16 2)
  | 20 => .mtcChhead (fin w 21 5) (fin w 16 2)
  | 21 => .mtcChhead (fin w 21 5) (fin w 16 2)
  | 22 => .mtcChhead (fin w 21 5) (fin w 16 2)
  | 23 => .mtcChhead (fin w 21 5) (fin w 16 2)
  | 32 => .mtcSvec (fin w 21 5)
  | 37 => .mtcDbgctl (fin w 21 5)
  | _ => .mtc (fin w 21 5) (fin2 w 16 5 8 1)

/-- The hcall of major 0x29, by its code (R237). -/
def decHcall (w : Nat) : Instr :=
  match bitsAt w 0 12 with
  | 16 => .hcallTranslatorRun (fin w 21 5) (fin w 16 5)
  | 17 => .hcallInvalidate (fin w 21 5) (fin w 16 5)
  | 18 => .hcallLoaderWrite (fin w 21 5) (fin w 16 5)
  | 19 => .hcallPartitionQuery (fin w 21 5) (fin w 16 5)
  | 20 => .hcallWhistleStop (fin w 21 5) (fin w 16 5)
  | 21 => .hcallWhistleRelease (fin w 21 5) (fin w 16 5)
  | 22 => .hcallTransitSettings (fin w 21 5) (fin w 16 5)
  | 23 => .hcallTransitCounts (fin w 21 5) (fin w 16 5)
  | 24 => .hcallArmFault (fin w 21 5) (fin w 16 5)
  | 25 => .hcallTaintQuery (fin w 21 5) (fin w 16 5)
  | 26 => .hcallDirectoryEvict (fin w 21 5) (fin w 16 5)
  | 27 => .hcallFaultQueueTake (fin w 21 5) (fin w 16 5)
  | 28 => .hcallPageOut (fin w 21 5) (fin w 16 5)
  | 29 => .hcallPageIn (fin w 21 5) (fin w 16 5)
  | 30 => .hcallIdentity (fin w 21 5) (fin w 16 5)
  | 31 => .hcallContributionPost (fin w 21 5) (fin w 16 5)
  | 32 => .hcallContributionWait (fin w 21 5) (fin w 16 5)
  | _ => .hcall

/-- Major 0x29: control registers, traps, calls and the supervisor's instructions (R84, R237). A control number above
63 is a reserved combination. -/
def dec29 (w : Nat) : Except Nat Instr :=
  match bitsAt w 12 4 with
  | 0 => zeros w [(0, 8)] <| cnOk w <| .ok (.mfc (fin w 21 5) (fin2 w 16 5 8 1))
  | 1 => zeros w [(0, 8)] <| cnOk w <| .ok (decMtc w)
  | 2 => zeros w [(16, 5)] <| .ok (.trap (fin w 21 5) (fin w 0 12))
  | 3 => zeros w [(0, 12), (16, 10)] <| .ok .tret
  | 4 => zeros w [(16, 5)] <| .ok (.sys (fin w 21 5) (fin w 0 12))
  | 5 => .ok (decHcall w)
  | 6 => zeros w [(16, 5)] <| .ok (.ebrk (fin w 21 5) (fin w 0 12))
  | 7 => zeros w [(0, 12)] <| .ok (.budx (fin w 21 5) (fin w 16 5))
  | 8 => zeros w [(0, 12), (16, 5)] <| .ok (.seal (fin w 21 5))
  | 9 => zeros w [(0, 12), (16, 5)] <| .ok (.unseal (fin w 21 5))
  | 10 => zeros w [(0, 12), (16, 5)] <| .ok (.scanGo (fin w 21 5))
  | 11 => zeros w [(0, 12)] <| .ok (.scanQ (fin w 21 5) (fin w 16 5))
  | _ => .error 3

/-- Major 0x2A: phint. -/
def dec2A (w : Nat) : Except Nat Instr :=
  zeros w [(0, 16)] <| .ok (.phint (fin w 21 5) (fin w 16 5))

/-- Major 0x2B: apx.beg, apx.end, apx.inv, apx.q, rpl.q. -/
def dec2B (w : Nat) : Except Nat Instr :=
  match bitsAt w 0 3 with
  | 0 => zeros w [(3, 8), (25, 1)] <| .ok (.apxBeg (fin w 21 4) (fin w 16 5) (fin w 11 5))
  | 1 => zeros w [(3, 23)] <| .ok .apxEnd
  | 2 => zeros w [(3, 13), (21, 5)] <| .ok (.apxInv (fin w 16 5))
  | 3 => zeros w [(3, 13)] <| .ok (.apxQ (fin w 21 5) (fin w 16 5))
  | 4 => zeros w [(3, 18)] <| .ok (.rplQ (fin w 21 5))
  | _ => .error 3

/-- Major 0x30: k.add, k.sub, k.and, k.or, k.xor, k.shl and others. -/
def dec30 (w : Nat) : Except Nat Instr :=
  match bitsAt w 0 4 with
  | 0 => zeros w [(4, 7)] <| .ok (.kAdd (fin w 21 4) (fin w 16 4) (fin w 11 4))
  | 1 => zeros w [(4, 7)] <| .ok (.kSub (fin w 21 4) (fin w 16 4) (fin w 11 4))
  | 2 => zeros w [(4, 7)] <| .ok (.kAnd (fin w 21 4) (fin w 16 4) (fin w 11 4))
  | 3 => zeros w [(4, 7)] <| .ok (.kOr (fin w 21 4) (fin w 16 4) (fin w 11 4))
  | 4 => zeros w [(4, 7)] <| .ok (.kXor (fin w 21 4) (fin w 16 4) (fin w 11 4))
  | 5 => zeros w [(4, 7)] <| .ok (.kShl (fin w 21 4) (fin w 16 4) (fin w 11 4))
  | 6 => zeros w [(4, 7)] <| .ok (.kShr (fin w 21 4) (fin w 16 4) (fin w 11 4))
  | 7 => zeros w [(4, 7)] <| .ok (.kSar (fin w 21 4) (fin w 16 4) (fin w 11 4))
  | 8 => zeros w [(4, 7)] <| .ok (.kMul (fin w 21 4) (fin w 16 4) (fin w 11 4))
  | 9 => zeros w [(4, 7)] <| .ok (.kSlt (fin w 21 4) (fin w 16 4) (fin w 11 4))
  | 10 => zeros w [(4, 7)] <| .ok (.kSltu (fin w 21 4) (fin w 16 4) (fin w 11 4))
  | 11 => zeros w [(4, 7)] <| .ok (.kSeq (fin w 21 4) (fin w 16 4) (fin w 11 4))
  | _ => .error 3

/-- Major 0x31: k.addi. -/
def dec31 (w : Nat) : Except Nat Instr :=
  .ok (.kAddi (fin w 21 4) (fin w 16 4) (fin w 0 16))

/-- Major 0x32: k.ldk. -/
def dec32 (w : Nat) : Except Nat Instr :=
  zeros w [(18, 3)] <| .ok (.kLdk (fin w 21 4) (fin w 16 2) (fin w 0 16))

/-- Major 0x33: k.ld.d and k.ld.w; the other sizes are reserved (R85). -/
def dec33 (w : Nat) : Except Nat Instr :=
  match bitsAt w 13 3 with
  | 0 => .ok (.kLdD (fin w 21 4) (fin w 16 4) (fin w 0 13))
  | 5 => .ok (.kLdW (fin w 21 4) (fin w 16 4) (fin w 0 13))
  | _ => .error 5

/-- Major 0x34: k.st.d and k.st.w; the other sizes are reserved (R85). -/
def dec34 (w : Nat) : Except Nat Instr :=
  match bitsAt w 13 3 with
  | 0 => .ok (.kStD (fin w 21 4) (fin w 16 4) (fin w 0 13))
  | 1 => .ok (.kStW (fin w 21 4) (fin w 16 4) (fin w 0 13))
  | _ => .error 5

/-- Major 0x35: k.beq. -/
def dec35 (w : Nat) : Except Nat Instr :=
  .ok (.kBeq (fin w 21 4) (fin w 16 4) (fin w 0 16))

/-- Major 0x36: k.bne. -/
def dec36 (w : Nat) : Except Nat Instr :=
  .ok (.kBne (fin w 21 4) (fin w 16 4) (fin w 0 16))

/-- Major 0x37: k.blt. -/
def dec37 (w : Nat) : Except Nat Instr :=
  .ok (.kBlt (fin w 21 4) (fin w 16 4) (fin w 0 16))

/-- Major 0x38: k.bltu. -/
def dec38 (w : Nat) : Except Nat Instr :=
  .ok (.kBltu (fin w 21 4) (fin w 16 4) (fin w 0 16))

/-- Major 0x39: k.jmp. -/
def dec39 (w : Nat) : Except Nat Instr :=
  .ok (.kJmp (fin w 0 26))

/-- Major 0x3A: k.call. -/
def dec3A (w : Nat) : Except Nat Instr :=
  .ok (.kCall (fin w 0 26))

/-- Major 0x3B: k.jr. -/
def dec3B (w : Nat) : Except Nat Instr :=
  zeros w [(0, 15), (21, 4)] <| .ok (.kJr (fin w 16 4))

/-- Major 0x3C: k.emit, k.emap. -/
def dec3C (w : Nat) : Except Nat Instr :=
  match bitsAt w 0 1 with
  | 0 => zeros w [(1, 14)] <| .ok (.kEmit (fin w 21 4) (fin w 16 4))
  | 1 => zeros w [(1, 10), (21, 4)] <| .ok (.kEmap (fin w 16 4) (fin w 11 4))
  | _ => .error 3

/-- Major 0x3D: k.lda, k.mtr. -/
def dec3D (w : Nat) : Except Nat Instr :=
  match bitsAt w 0 1 with
  | 0 => zeros w [(1, 10)] <| .ok (.kLda (fin w 21 4) (fin w 16 4) (fin w 11 4))
  | 1 => zeros w [(1, 14), (16, 4)] <| .ok (.kMtr (fin w 21 4))
  | _ => .error 3

/-- Major 0x3E: k.tend, k.tfail. -/
def dec3E (w : Nat) : Except Nat Instr :=
  match bitsAt w 0 1 with
  | 0 => zeros w [(1, 14), (16, 4), (21, 4)] <| .ok .kTend
  | 1 => zeros w [(1, 14), (21, 4)] <| .ok (.kTfail (fin w 16 4))
  | _ => .error 3

/-- The top bits of the register fields of a root major (R85), R86 step 4. -/
def rootRegTops : Nat → List (Nat × Nat)
  | 48 => [(25, 1), (20, 1), (15, 1)]
  | 49 => [(25, 1), (20, 1)]
  | 50 => [(25, 1)]
  | 51 => [(25, 1), (20, 1)]
  | 52 => [(25, 1), (20, 1)]
  | 53 => [(25, 1), (20, 1)]
  | 54 => [(25, 1), (20, 1)]
  | 55 => [(25, 1), (20, 1)]
  | 56 => [(25, 1), (20, 1)]
  | 59 => [(25, 1), (20, 1), (15, 1)]
  | 60 => [(25, 1), (20, 1), (15, 1)]
  | 61 => [(25, 1), (20, 1), (15, 1)]
  | 62 => [(25, 1), (20, 1), (15, 1)]
  | _ => []

/-- The word of an assigned major, steps 5 to 7 of R86. -/
def decodeMajor (maj w : Nat) : Except Nat Instr :=
  match maj with
  | 1 => dec01 w
  | 2 => dec02 w
  | 3 => dec03 w
  | 4 => dec04 w
  | 5 => dec05 w
  | 6 => dec06 w
  | 7 => dec07 w
  | 8 => dec08 w
  | 10 => dec0A w
  | 11 => dec0B w
  | 12 => dec0C w
  | 13 => dec0D w
  | 14 => dec0E w
  | 15 => dec0F w
  | 16 => dec10 w
  | 17 => dec11 w
  | 18 => dec12 w
  | 19 => dec13 w
  | 20 => dec14 w
  | 21 => dec15 w
  | 22 => dec16 w
  | 23 => dec17 w
  | 24 => dec18 w
  | 25 => dec19 w
  | 26 => dec1A w
  | 27 => dec1B w
  | 28 => dec1C w
  | 29 => dec1D w
  | 30 => dec1E w
  | 31 => dec1F w
  | 32 => dec20 w
  | 33 => dec21 w
  | 34 => dec22 w
  | 35 => dec23 w
  | 36 => dec24 w
  | 37 => dec25 w
  | 38 => dec26 w
  | 39 => dec27 w
  | 40 => dec28 w
  | 41 => dec29 w
  | 42 => dec2A w
  | 43 => dec2B w
  | 48 => dec30 w
  | 49 => dec31 w
  | 50 => dec32 w
  | 51 => dec33 w
  | 52 => dec34 w
  | 53 => dec35 w
  | 54 => dec36 w
  | 55 => dec37 w
  | 56 => dec38 w
  | 57 => dec39 w
  | 58 => dec3A w
  | 59 => dec3B w
  | 60 => dec3C w
  | 61 => dec3D w
  | 62 => dec3E w
  | _ => .error 2

/-- Decoding of a word (R86 steps 1 to 7): the instruction, or the reason code of the first failing step. `root` says
whether the context is in root mode (step 2). Log 32 (DEDUCED). -/
def decodeWord (w : Nat) (root : Bool) : Except Nat Instr :=
  let maj := bitsAt w 26 6
  if maj == 0 || maj == 63 then .error 1
  else if root && (maj < 48 || maj == 63) then .error 8
  else if maj == 9 || (44 ≤ maj && maj ≤ 47) then .error 2
  else if !((rootRegTops maj).all (fun p => bitsAt w p.1 p.2 == 0)) then .error 6
  else decodeMajor maj w

/-- The little-endian number of a list of bytes (R11). -/
def leNat : List Byte → Nat
  | [] => 0
  | b :: t => b.toNat + 256 * leNat t

/-- The first `n` little-endian bytes of a number (R11). -/
def leBytes : Nat → Nat → List Byte
  | 0, _ => []
  | n + 1, x => BitVec.ofNat 8 (x % 256) :: leBytes n (x / 256)

/-- Decoding of the 4 bytes of an instruction in the order they stand in memory (R67). -/
def decodeBytes (bs : List Byte) (root : Bool) : Except Nat Instr := decodeWord (leNat bs) root

/-- The instruction the decoder reads from a word whose bits are `w`; every instruction is one word of 32 bits. Log 108 (DESIGN CHOICE). -/
def decodeTableWord (nbits w : Nat) : Option Instr :=
  if nbits ≤ 32 then
    match decodeBytes (leBytes 4 (w % 2 ^ nbits)) false with
    | .ok i => some i
    | .error _ => none
  else none

/-- The word of an encoded instruction (R67 to R85); none for an event. -/
def encodeNat : Instr → Option Nat
  | .add d a b s wd => some (67108864 + d.val * 2097152 + a.val * 65536 + b.val * 2048 + s.code * 512 + wd.code * 128)
  | .sub d a b s wd => some (67108865 + d.val * 2097152 + a.val * 65536 + b.val * 2048 + s.code * 512 + wd.code * 128)
  | .mul d a b s wd => some (67108866 + d.val * 2097152 + a.val * 65536 + b.val * 2048 + s.code * 512 + wd.code * 128)
  | .mulh d a b wd => some (67108867 + d.val * 2097152 + a.val * 65536 + b.val * 2048 + wd.code * 128)
  | .mulhu d a b wd => some (67108868 + d.val * 2097152 + a.val * 65536 + b.val * 2048 + wd.code * 128)
  | .div d a b wd => some (67108869 + d.val * 2097152 + a.val * 65536 + b.val * 2048 + wd.code * 128)
  | .divu d a b wd => some (67108870 + d.val * 2097152 + a.val * 65536 + b.val * 2048 + wd.code * 128)
  | .rem d a b wd => some (67108871 + d.val * 2097152 + a.val * 65536 + b.val * 2048 + wd.code * 128)
  | .remu d a b wd => some (67108872 + d.val * 2097152 + a.val * 65536 + b.val * 2048 + wd.code * 128)
  | .and d a b wd => some (67108873 + d.val * 2097152 + a.val * 65536 + b.val * 2048 + wd.code * 128)
  | .or d a b wd => some (67108874 + d.val * 2097152 + a.val * 65536 + b.val * 2048 + wd.code * 128)
  | .xor d a b wd => some (67108875 + d.val * 2097152 + a.val * 65536 + b.val * 2048 + wd.code * 128)
  | .andn d a b wd => some (67108876 + d.val * 2097152 + a.val * 65536 + b.val * 2048 + wd.code * 128)
  | .shl d a b wd => some (67108877 + d.val * 2097152 + a.val * 65536 + b.val * 2048 + wd.code * 128)
  | .shr d a b wd => some (67108878 + d.val * 2097152 + a.val * 65536 + b.val * 2048 + wd.code * 128)
  | .sar d a b wd => some (67108879 + d.val * 2097152 + a.val * 65536 + b.val * 2048 + wd.code * 128)
  | .rot d a b wd => some (67108880 + d.val * 2097152 + a.val * 65536 + b.val * 2048 + wd.code * 128)
  | .min d a b wd => some (67108881 + d.val * 2097152 + a.val * 65536 + b.val * 2048 + wd.code * 128)
  | .max d a b wd => some (67108882 + d.val * 2097152 + a.val * 65536 + b.val * 2048 + wd.code * 128)
  | .minu d a b wd => some (67108883 + d.val * 2097152 + a.val * 65536 + b.val * 2048 + wd.code * 128)
  | .maxu d a b wd => some (67108884 + d.val * 2097152 + a.val * 65536 + b.val * 2048 + wd.code * 128)
  | .seq d a b wd => some (67108885 + d.val * 2097152 + a.val * 65536 + b.val * 2048 + wd.code * 128)
  | .sne d a b wd => some (67108886 + d.val * 2097152 + a.val * 65536 + b.val * 2048 + wd.code * 128)
  | .slt d a b wd => some (67108887 + d.val * 2097152 + a.val * 65536 + b.val * 2048 + wd.code * 128)
  | .sltu d a b wd => some (67108888 + d.val * 2097152 + a.val * 65536 + b.val * 2048 + wd.code * 128)
  | .sel d a b c => some (67108889 + d.val * 2097152 + a.val * 65536 + b.val * 2048 + c.val * 64)
  | .addi d a i => some (134217728 + d.val * 2097152 + a.val * 65536 + i.val)
  | .andi d a i => some (201326592 + d.val * 2097152 + a.val * 65536 + i.val)
  | .ori d a i => some (268435456 + d.val * 2097152 + a.val * 65536 + i.val)
  | .xori d a i => some (335544320 + d.val * 2097152 + a.val * 65536 + i.val)
  | .shli d a n => some (402653184 + d.val * 2097152 + a.val * 65536 + n.val)
  | .shri d a n => some (402653248 + d.val * 2097152 + a.val * 65536 + n.val)
  | .sari d a n => some (402653312 + d.val * 2097152 + a.val * 65536 + n.val)
  | .roti d a n => some (402653376 + d.val * 2097152 + a.val * 65536 + n.val)
  | .ldk d k c => some (469762048 + d.val * 2097152 + k.val * 65536 + c.val)
  | .mov d a => some (536870912 + d.val * 2097152 + a.val * 65536)
  | .clz d a => some (536870913 + d.val * 2097152 + a.val * 65536)
  | .ctz d a => some (536870914 + d.val * 2097152 + a.val * 65536)
  | .popc d a => some (536870915 + d.val * 2097152 + a.val * 65536)
  | .ext d a z wd => some (536870916 + d.val * 2097152 + a.val * 65536 + (bit z) * 32 + wd.code * 8)
  | .bfx d a l s p => some (536870917 + d.val * 2097152 + a.val * 65536 + (l.val % 32) * 2048 + (l.val / 32) * 512 + (bit s) * 1024 + p.val * 8)
  | .bfi d a l p => some (536870918 + d.val * 2097152 + a.val * 65536 + (l.val % 32) * 2048 + (l.val / 32) * 512 + p.val * 8)
  | .beq a b i => some (671088640 + a.val * 2097152 + b.val * 65536 + i.val)
  | .bne a b i => some (738197504 + a.val * 2097152 + b.val * 65536 + i.val)
  | .blt a b i => some (805306368 + a.val * 2097152 + b.val * 65536 + i.val)
  | .bge a b i => some (872415232 + a.val * 2097152 + b.val * 65536 + i.val)
  | .bltu a b i => some (939524096 + a.val * 2097152 + b.val * 65536 + i.val)
  | .bgeu a b i => some (1006632960 + a.val * 2097152 + b.val * 65536 + i.val)
  | .jmp i => some (1073741824 + i.val)
  | .call i => some (1140850688 + i.val)
  | .jr a => some (1207959552 + a.val * 65536)
  | .callr d a => some (1207959553 + d.val * 2097152 + a.val * 65536)
  | .ret => some (1207959554)
  | .loopx0 => some 1207959555
  | .loopx1 => some 1207959559
  | .loopx2 => some 1207959563
  | .loopx3 => some 1207959567
  | .loop l c n => some (1275068416 + l.val * 16777216 + c.val * 524288 + n.val * 128)
  | .ld d b z o => some (1342177280 + d.val * 2097152 + b.val * 65536 + z.code * 8192 + o.val)
  | .st d b z o => some (1409286144 + d.val * 2097152 + b.val * 65536 + z.code * 8192 + o.val)
  | .ldV v b o => some (1476395008 + v.val * 2097152 + b.val * 65536 + o.val)
  | .stV v b o => some (1476403200 + v.val * 2097152 + b.val * 65536 + o.val)
  | .storePerform => none
  | .amoAdd d a b w sc o => some (1543503872 + d.val * 2097152 + a.val * 65536 + b.val * 2048 + (bit w) * 128 + sc.code * 16 + o.code * 4)
  | .amoMin d a b w sc o => some (1543504128 + d.val * 2097152 + a.val * 65536 + b.val * 2048 + (bit w) * 128 + sc.code * 16 + o.code * 4)
  | .amoMax d a b w sc o => some (1543504384 + d.val * 2097152 + a.val * 65536 + b.val * 2048 + (bit w) * 128 + sc.code * 16 + o.code * 4)
  | .amoAnd d a b w sc o => some (1543504640 + d.val * 2097152 + a.val * 65536 + b.val * 2048 + (bit w) * 128 + sc.code * 16 + o.code * 4)
  | .amoOr d a b w sc o => some (1543504896 + d.val * 2097152 + a.val * 65536 + b.val * 2048 + (bit w) * 128 + sc.code * 16 + o.code * 4)
  | .amoXor d a b w sc o => some (1543505152 + d.val * 2097152 + a.val * 65536 + b.val * 2048 + (bit w) * 128 + sc.code * 16 + o.code * 4)
  | .amoSwp d a b w sc o => some (1543505408 + d.val * 2097152 + a.val * 65536 + b.val * 2048 + (bit w) * 128 + sc.code * 16 + o.code * 4)
  | .amoCas d a b w sc o => some (1543505664 + d.val * 2097152 + a.val * 65536 + b.val * 2048 + (bit w) * 128 + sc.code * 16 + o.code * 4)
  | .ldScoped d a b z sc o => some (1610612736 + d.val * 2097152 + a.val * 65536 + b.val * 2048 + z.code * 256 + sc.code * 32 + o.code * 8)
  | .stScoped d a b z sc o => some (1610612737 + d.val * 2097152 + a.val * 65536 + b.val * 2048 + z.code * 256 + sc.code * 32 + o.code * 8)
  | .fence sc o => some (1610612738 + sc.code * 32 + o.code * 8)
  | .barInit a b => some (1677721600 + a.val * 65536 + b.val * 2048)
  | .barArr d a => some (1677721601 + d.val * 2097152 + a.val * 65536)
  | .barDrop d a => some (1677721602 + d.val * 2097152 + a.val * 65536)
  | .barWait d a b => some (1677721603 + d.val * 2097152 + a.val * 65536 + b.val * 2048)
  | .barQ d a => some (1677721604 + d.val * 2097152 + a.val * 65536)
  | .rngInit a b => some (1677721605 + a.val * 65536 + b.val * 2048)
  | .rngRsv d a b => some (1677721606 + d.val * 2097152 + a.val * 65536 + b.val * 2048)
  | .rngPub a b => some (1677721607 + a.val * 65536 + b.val * 2048)
  | .rngTake d a b => some (1677721608 + d.val * 2097152 + a.val * 65536 + b.val * 2048)
  | .rngQ d a => some (1677721609 + d.val * 2097152 + a.val * 65536)
  | .ppoll d k => some (1744830464 + d.val * 2097152 + k.val * 2)
  | .pdrain d k => some (1744830465 + d.val * 2097152 + k.val * 2)
  | .portWordArrival | .deadlockProbe | .deadlockProbeArrival | .deadlockNoticeArrival => none
  | .fld d b z o => some (1811939328 + d.val * 2097152 + b.val * 65536 + z.code * 8192 + o.val)
  | .fst d b z o => some (1811943424 + d.val * 2097152 + b.val * 65536 + z.code * 8192 + o.val)
  | .push n a b => some (1879048192 + n.val * 2097152 + a.val * 65536 + b.val * 2048)
  | .pull n a b => some (1879048193 + n.val * 2097152 + a.val * 65536 + b.val * 2048)
  | .pushDelivery => none
  | .vadd d a b t s => some (1946157056 + d.val * 4194304 + a.val * 262144 + b.val * 16384 + t.code * 1024 + s.code * 4)
  | .vsub d a b t s => some (1946157072 + d.val * 4194304 + a.val * 262144 + b.val * 16384 + t.code * 1024 + s.code * 4)
  | .vmul d a b t s => some (1946157088 + d.val * 4194304 + a.val * 262144 + b.val * 16384 + t.code * 1024 + s.code * 4)
  | .vmla d a b t s => some (1946157104 + d.val * 4194304 + a.val * 262144 + b.val * 16384 + t.code * 1024 + s.code * 4)
  | .vmin d a b t => some (1946157120 + d.val * 4194304 + a.val * 262144 + b.val * 16384 + t.code * 1024)
  | .vmax d a b t => some (1946157136 + d.val * 4194304 + a.val * 262144 + b.val * 16384 + t.code * 1024)
  | .vabs d a t s => some (1946157152 + d.val * 4194304 + a.val * 262144 + t.code * 1024 + s.code * 4)
  | .vneg d a t s => some (1946157168 + d.val * 4194304 + a.val * 262144 + t.code * 1024 + s.code * 4)
  | .vand d a b t => some (1946157184 + d.val * 4194304 + a.val * 262144 + b.val * 16384 + t.code * 1024)
  | .vor d a b t => some (1946157200 + d.val * 4194304 + a.val * 262144 + b.val * 16384 + t.code * 1024)
  | .vxor d a b t => some (1946157216 + d.val * 4194304 + a.val * 262144 + b.val * 16384 + t.code * 1024)
  | .vandn d a b t => some (1946157232 + d.val * 4194304 + a.val * 262144 + b.val * 16384 + t.code * 1024)
  | .vshl d a b t s => some (1946157248 + d.val * 4194304 + a.val * 262144 + b.val * 16384 + t.code * 1024 + s.code * 4)
  | .vshr d a b t => some (1946157264 + d.val * 4194304 + a.val * 262144 + b.val * 16384 + t.code * 1024)
  | .vceq d a b t => some (1946157280 + d.val * 4194304 + a.val * 262144 + b.val * 16384 + t.code * 1024)
  | .vclt d a b t => some (1946157296 + d.val * 4194304 + a.val * 262144 + b.val * 16384 + t.code * 1024)
  | .vcle d a b t => some (1946157312 + d.val * 4194304 + a.val * 262144 + b.val * 16384 + t.code * 1024)
  | .vsel d a b c => some (1946157328 + d.val * 4194304 + a.val * 262144 + b.val * 16384 + c.val * 1024)
  | .vfadd d a b t r => some (2013265920 + d.val * 4194304 + a.val * 262144 + b.val * 16384 + t.code * 1024 + r.code * 2)
  | .vfsub d a b t r => some (2013265936 + d.val * 4194304 + a.val * 262144 + b.val * 16384 + t.code * 1024 + r.code * 2)
  | .vfmul d a b t r => some (2013265952 + d.val * 4194304 + a.val * 262144 + b.val * 16384 + t.code * 1024 + r.code * 2)
  | .vfma d a b t r => some (2013265968 + d.val * 4194304 + a.val * 262144 + b.val * 16384 + t.code * 1024 + r.code * 2)
  | .vfmin d a b t => some (2013265984 + d.val * 4194304 + a.val * 262144 + b.val * 16384 + t.code * 1024)
  | .vfmax d a b t => some (2013266000 + d.val * 4194304 + a.val * 262144 + b.val * 16384 + t.code * 1024)
  | .vfabs d a t => some (2013266016 + d.val * 4194304 + a.val * 262144 + t.code * 1024)
  | .vfneg d a t => some (2013266032 + d.val * 4194304 + a.val * 262144 + t.code * 1024)
  | .vfceq d a b t => some (2013266048 + d.val * 4194304 + a.val * 262144 + b.val * 16384 + t.code * 1024)
  | .vfclt d a b t => some (2013266064 + d.val * 4194304 + a.val * 262144 + b.val * 16384 + t.code * 1024)
  | .vfcle d a b t => some (2013266080 + d.val * 4194304 + a.val * 262144 + b.val * 16384 + t.code * 1024)
  | .vperm d a b t => some (2080374784 + d.val * 4194304 + a.val * 262144 + b.val * 16384 + t.code * 1024)
  | .vdot4 d a b t s => some (2080374816 + d.val * 4194304 + a.val * 262144 + b.val * 16384 + t.code * 1024 + s.code)
  | .vredAdd d a t => some (2080374848 + d.val * 4194304 + a.val * 262144 + t.code * 1024)
  | .vredMin d a t => some (2080374880 + d.val * 4194304 + a.val * 262144 + t.code * 1024)
  | .vredMax d a t => some (2080374912 + d.val * 4194304 + a.val * 262144 + t.code * 1024)
  | .vsplat d r t => some (2080374944 + d.val * 4194304 + (r.val % 16) * 16384 + (r.val / 16) * 16 + t.code * 1024)
  | .vins d r t i => some (2080374976 + d.val * 4194304 + (r.val % 16) * 16384 + (r.val / 16) * 16 + t.code * 1024 + i.val)
  | .vext a r t i => some (2080375008 + a.val * 262144 + (r.val % 16) * 16384 + (r.val / 16) * 16 + t.code * 1024 + i.val)
  | .tidx d a s => some (2147483648 + d.val * 2097152 + a.val * 65536 + s.val * 2048)
  | .tset e a n => some (2147483649 + e.val * 2097152 + a.val * 65536 + n.val * 2)
  | .fadd d a b r w => some (2214592512 + d.val * 2097152 + a.val * 65536 + b.val * 2048 + r.code * 256 + (bit w) * 64)
  | .fsub d a b r w => some (2214592513 + d.val * 2097152 + a.val * 65536 + b.val * 2048 + r.code * 256 + (bit w) * 64)
  | .fmul d a b r w => some (2214592514 + d.val * 2097152 + a.val * 65536 + b.val * 2048 + r.code * 256 + (bit w) * 64)
  | .fma d a b r w => some (2214592515 + d.val * 2097152 + a.val * 65536 + b.val * 2048 + r.code * 256 + (bit w) * 64)
  | .fdiv d a b r w => some (2214592516 + d.val * 2097152 + a.val * 65536 + b.val * 2048 + r.code * 256 + (bit w) * 64)
  | .fsqrt d a r w => some (2214592517 + d.val * 2097152 + a.val * 65536 + r.code * 256 + (bit w) * 64)
  | .fmin d a b w => some (2214592518 + d.val * 2097152 + a.val * 65536 + b.val * 2048 + (bit w) * 64)
  | .fmax d a b w => some (2214592519 + d.val * 2097152 + a.val * 65536 + b.val * 2048 + (bit w) * 64)
  | .fcmp d a b w => some (2214592520 + d.val * 2097152 + a.val * 65536 + b.val * 2048 + (bit w) * 64)
  | .cvt d a f r t c => some (2281701376 + d.val * 2097152 + a.val * 65536 + f.val * 2048 + r.code * 256 + t.code * 16 + c.code)
  | .fmtw a n => some (2281701616 + a.val * 65536 + n.val * 2048)
  | .fmtr d n => some (2281701617 + d.val * 2097152 + n.val * 2048)
  | .qnt d a b f r m => some (2348810240 + d.val * 4194304 + a.val * 262144 + b.val * 16384 + f.val * 1024 + r.code * 8 + (amxG m) * 4 + (amxM m))
  | .dqt d a b f r m => some (2348810304 + d.val * 4194304 + a.val * 262144 + b.val * 16384 + f.val * 1024 + r.code * 8 + (amxG m) * 4 + (amxM m))
  | .amxRd d m => some (2348810368 + (d.val % 16) * 4194304 + (d.val / 16) * 4 + m.val)
  | .amxClr0 => some 2348810432
  | .amxClr1 => some 2348810433
  | .amxClr2 => some 2348810434
  | .amxClr3 => some 2348810435
  | .fsin d a r => some (2415919104 + d.val * 2097152 + a.val * 65536 + r.code * 256)
  | .fcos d a r => some (2415919105 + d.val * 2097152 + a.val * 65536 + r.code * 256)
  | .fexp2 d a r => some (2415919106 + d.val * 2097152 + a.val * 65536 + r.code * 256)
  | .flog2 d a r => some (2415919107 + d.val * 2097152 + a.val * 65536 + r.code * 256)
  | .frcp d a r => some (2415919108 + d.val * 2097152 + a.val * 65536 + r.code * 256)
  | .frsq d a r => some (2415919109 + d.val * 2097152 + a.val * 65536 + r.code * 256)
  | .ftanh d a r => some (2415919110 + d.val * 2097152 + a.val * 65536 + r.code * 256)
  | .fmtp a b o r => some (2483027968 + a.val * 8388608 + b.val * 1048576 + o.val * 131072 + r.code * 16384)
  | .mma a b t k => some (2550136832 + a.val * 16384 + b.val * 512 + t.val * 64 + k.val)
  | .mmaL a b t k => some (2550661120 + a.val * 16384 + b.val * 512 + t.val * 64 + k.val)
  | .mmaZ a b t k => some (2551185408 + a.val * 16384 + b.val * 512 + t.val * 64 + k.val)
  | .mmaZL a b t k => some (2551709696 + a.val * 16384 + b.val * 512 + t.val * 64 + k.val)
  | .accz t k => some (2552233984 + t.val * 64 + k.val)
  | .accld a b t k => some (2552758272 + a.val * 16384 + b.val * 512 + t.val * 64 + k.val)
  | .drn a b t m e k => some (2553282560 + a.val * 16384 + b.val * 512 + t.val * 64 + (amxG m) * 8 + (amxM m) * 16 + (bit e) * 4 + k.val)
  | .drnT a b t m e k => some (2553806848 + a.val * 16384 + b.val * 512 + t.val * 64 + (amxG m) * 8 + (amxM m) * 16 + (bit e) * 4 + k.val)
  | .psumAdd a b t k => some (2554331136 + a.val * 16384 + b.val * 512 + t.val * 64 + k.val)
  | .mqStat d => some (2554855424 + d.val * 16384)
  | .mqNan d k => some (2555379712 + d.val * 16384 + k.val)
  | .mqCap d => some (2555904000 + d.val * 16384)
  | .matrixCommandStart | .matrixCommandComplete => none
  | .vxEw a b t m y => some (2566914048 + a.val * 16384 + b.val * 512 + t.val * 64 + (amxG m) * 8 + (amxM m) * 16 + (bit y))
  | .vxRed a b t m => some (2567438336 + a.val * 16384 + b.val * 512 + t.val * 64 + (amxG m) * 8 + (amxM m) * 16)
  | .vxCvt a b t m => some (2567962624 + a.val * 16384 + b.val * 512 + t.val * 64 + (amxG m) * 8 + (amxM m) * 16)
  | .vxSfn a b t m => some (2568486912 + a.val * 16384 + b.val * 512 + t.val * 64 + (amxG m) * 8 + (amxM m) * 16)
  | .vxGth a b t => some (2569011200 + a.val * 16384 + b.val * 512 + t.val * 64)
  | .vxSct a b t => some (2569535488 + a.val * 16384 + b.val * 512 + t.val * 64)
  | .vectorCommandStart | .vectorCommandComplete => none
  | .cpyGo a t c => some (2583691264 + a.val * 16384 + t.val * 64 + c.val)
  | .copyChainStart | .recordFinishedReading | .writePointerAdvance | .transferRecordComplete | .recordFault | .lineForward
  | .translationWalk | .orderAtHead | .lineCommit | .farLineArrival => none
  | .taskSpawn a b t => some (2600468480 + a.val * 16384 + b.val * 512 + t.val * 64)
  | .taskCard a b t => some (2600992768 + a.val * 16384 + b.val * 512 + t.val * 64)
  | .tokExp a t => some (2617245696 + a.val * 65536 + t.val * 8)
  | .tokWaitSrc t => some (2617245697 + t.val * 8)
  | .tokWaitVis t => some (2617245698 + t.val * 8)
  | .tokBind a t => some (2617245699 + a.val * 65536 + t.val * 8)
  | .tokRd d t => some (2617245700 + d.val * 2097152 + t.val * 8)
  | .efence e => some (2617245701 + e.val * 64)
  | .ebusy d => some (2617245702 + d.val * 2097152)
  | .taskJoin d a => some (2684354560 + d.val * 2097152 + a.val * 65536)
  | .halt a => some (2684354561 + a.val * 65536)
  | .flockId d => some (2684354562 + d.val * 2097152)
  | .taskCompletion => none
  | .mfc d c => some (2751463424 + d.val * 2097152 + (c.val % 32) * 65536 + (c.val / 32) * 256)
  | .mtc a c => some (2751467520 + a.val * 2097152 + (c.val % 32) * 65536 + (c.val / 32) * 256)
  | .mtcSeed a => some (2752385024 + a.val * 2097152)
  | .mtcPbind a k => some (2752516096 + a.val * 2097152 + k.val * 65536)
  | .mtcChhead a k => some (2752778240 + a.val * 2097152 + k.val * 65536)
  | .mtcSvec a => some (2751467776 + a.val * 2097152)
  | .mtcDbgctl a => some (2751795456 + a.val * 2097152)
  | .trap a k => some (2751471616 + a.val * 2097152 + k.val)
  | .tret => some (2751475712)
  | .sys a k => some (2751479808 + a.val * 2097152 + k.val)
  | .ebrk a k => some (2751488000 + a.val * 2097152 + k.val)
  | .budx a d => some (2751492096 + a.val * 2097152 + d.val * 65536)
  | .seal a => some (2751496192 + a.val * 2097152)
  | .unseal a => some (2751500288 + a.val * 2097152)
  | .scanGo a => some (2751504384 + a.val * 2097152)
  | .scanQ d b => some (2751508480 + d.val * 2097152 + b.val * 65536)
  | .scanPatternsEnd => none
  | .hcallTranslatorRun a b => some (2751483920 + a.val * 2097152 + b.val * 65536)
  | .hcallInvalidate a b => some (2751483921 + a.val * 2097152 + b.val * 65536)
  | .hcallLoaderWrite a b => some (2751483922 + a.val * 2097152 + b.val * 65536)
  | .hcallPartitionQuery a b => some (2751483923 + a.val * 2097152 + b.val * 65536)
  | .hcallWhistleStop a b => some (2751483924 + a.val * 2097152 + b.val * 65536)
  | .hcallWhistleRelease a b => some (2751483925 + a.val * 2097152 + b.val * 65536)
  | .hcallTransitSettings a b => some (2751483926 + a.val * 2097152 + b.val * 65536)
  | .hcallTransitCounts a b => some (2751483927 + a.val * 2097152 + b.val * 65536)
  | .hcallArmFault a b => some (2751483928 + a.val * 2097152 + b.val * 65536)
  | .hcallTaintQuery a b => some (2751483929 + a.val * 2097152 + b.val * 65536)
  | .hcallDirectoryEvict a b => some (2751483930 + a.val * 2097152 + b.val * 65536)
  | .hcallFaultQueueTake a b => some (2751483931 + a.val * 2097152 + b.val * 65536)
  | .hcallPageOut a b => some (2751483932 + a.val * 2097152 + b.val * 65536)
  | .hcallPageIn a b => some (2751483933 + a.val * 2097152 + b.val * 65536)
  | .hcallIdentity a b => some (2751483934 + a.val * 2097152 + b.val * 65536)
  | .hcallContributionPost a b => some (2751483935 + a.val * 2097152 + b.val * 65536)
  | .hcallContributionWait a b => some (2751483936 + a.val * 2097152 + b.val * 65536)
  | .hcallReply => none
  | .phint a b => some (2818572288 + a.val * 2097152 + b.val * 65536)
  | .apxBeg v a b => some (2885681152 + v.val * 2097152 + a.val * 65536 + b.val * 2048)
  | .apxEnd => some (2885681153)
  | .apxInv a => some (2885681154 + a.val * 65536)
  | .apxQ d a => some (2885681155 + d.val * 2097152 + a.val * 65536)
  | .rplQ d => some (2885681156 + d.val * 2097152)
  | .kAdd d a b => some (3221225472 + d.val * 2097152 + a.val * 65536 + b.val * 2048)
  | .kSub d a b => some (3221225473 + d.val * 2097152 + a.val * 65536 + b.val * 2048)
  | .kAnd d a b => some (3221225474 + d.val * 2097152 + a.val * 65536 + b.val * 2048)
  | .kOr d a b => some (3221225475 + d.val * 2097152 + a.val * 65536 + b.val * 2048)
  | .kXor d a b => some (3221225476 + d.val * 2097152 + a.val * 65536 + b.val * 2048)
  | .kShl d a b => some (3221225477 + d.val * 2097152 + a.val * 65536 + b.val * 2048)
  | .kShr d a b => some (3221225478 + d.val * 2097152 + a.val * 65536 + b.val * 2048)
  | .kSar d a b => some (3221225479 + d.val * 2097152 + a.val * 65536 + b.val * 2048)
  | .kMul d a b => some (3221225480 + d.val * 2097152 + a.val * 65536 + b.val * 2048)
  | .kSlt d a b => some (3221225481 + d.val * 2097152 + a.val * 65536 + b.val * 2048)
  | .kSltu d a b => some (3221225482 + d.val * 2097152 + a.val * 65536 + b.val * 2048)
  | .kSeq d a b => some (3221225483 + d.val * 2097152 + a.val * 65536 + b.val * 2048)
  | .kAddi d a i => some (3288334336 + d.val * 2097152 + a.val * 65536 + i.val)
  | .kLdk d k c => some (3355443200 + d.val * 2097152 + k.val * 65536 + c.val)
  | .kLdD d b o => some (3422552064 + d.val * 2097152 + b.val * 65536 + o.val)
  | .kLdW d b o => some (3422593024 + d.val * 2097152 + b.val * 65536 + o.val)
  | .kStD s b o => some (3489660928 + s.val * 2097152 + b.val * 65536 + o.val)
  | .kStW s b o => some (3489669120 + s.val * 2097152 + b.val * 65536 + o.val)
  | .kBeq a b i => some (3556769792 + a.val * 2097152 + b.val * 65536 + i.val)
  | .kBne a b i => some (3623878656 + a.val * 2097152 + b.val * 65536 + i.val)
  | .kBlt a b i => some (3690987520 + a.val * 2097152 + b.val * 65536 + i.val)
  | .kBltu a b i => some (3758096384 + a.val * 2097152 + b.val * 65536 + i.val)
  | .kJmp i => some (3825205248 + i.val)
  | .kCall i => some (3892314112 + i.val)
  | .kJr a => some (3959422976 + a.val * 65536)
  | .kEmit d a => some (4026531840 + d.val * 2097152 + a.val * 65536)
  | .kEmap a b => some (4026531841 + a.val * 65536 + b.val * 2048)
  | .kLda d a b => some (4093640704 + d.val * 2097152 + a.val * 65536 + b.val * 2048)
  | .kMtr d => some (4093640705 + d.val * 2097152)
  | .kTend => some (4160749568)
  | .kTfail a => some (4160749569 + a.val * 65536)
  | .imagePrepare | .translatorRunStart | .meter | .spawnDecision | .cardDecision | .budgetExtensionDecision | .counterSignal
  | .taskPlacement | .chunkDeal | .argumentPushComplete | .deadlinePass | .dieCounterTick | .revocationTest
  | .preemptionRequestArrival | .hintWindowExpiry | .drainComplete | .saveComplete | .restoreComplete | .whistleSettled
  | .programOrderStart | .programInstructionLimit | .retentionLockAge | .replayPlacement | .foldScanStart | .observationTake
  | .closedFormFit | .sgdStep | .weightsArrival | .regionReset | .cacheRemoval | .rotationClusterStart | .uncorrectable
  | .parityResend | .laneTest | .flitReceive | .contributionLand | .collectiveExpiry | .doorbellSubmit | .commandTake
  | .launchDecision | .doorbellRelease | .resetDoorbell | .completionWrite | .ecntStaticShare | .islandWake | .islandGate
  | .pageIn | .migrationPrecopyRound | .migrationRelease | .supervisorStart | .partitionCreate | .powerOn | .illegalWord
  | .fetchFault | .hcall | .observationArrival | .hostWrite | .freeCountReport | .partitionRelease | .launchQueueCreate
  | .recoveryBootImage => none

/-- The word of a well-formed encoded instruction. Log 108 (DESIGN CHOICE). -/
def encode (i : Instr) : Option (BitVec 32) :=
  match encodeNat i with
  | some n => some (BitVec.ofNat 32 n)
  | none => none

end Sys2Proof
end

