-- ==== Sys2Proof/Machine/State.lean ====
section
/-! DEFINITION. The state of the part as plain data, the reasons a step can stop, and the state after reset. Every
field's comment names the rule of spec/ that gives it and its value at reset. -/

namespace Sys2Proof.Machine

/-- Memory: a list of address and byte pairs, addresses strictly rising and no byte zero (an unlisted byte is zero). -/
abbrev Memory := List Host.Cell

/-- A view (R324): for each byte of near memory the position of its coherence list, as a store number; unlisted bytes
stand at the first position. -/
abbrev View := Tab Nat

/-- A fault record (R361), field by field. -/
structure FaultRec where
  cause : Nat
  flags : Nat
  thread : Nat
  tag : Nat
  poff : Nat
  pc : Nat
  addr : Nat
  sst : Nat
  spec0 : Nat
  spec1 : Nat
  spfx : Nat
  deriving DecidableEq, Repr

/-- The record with every field zero. Log 1 (DESIGN CHOICE). -/
def FaultRec.zero : FaultRec := ⟨0, 0, 0, 0, 0, 0, 0, 0, 0, 0, 0⟩

/-- A held far or record fault (R224, R231): the cause, OPC, the faulting address and whether it is far, the near
address of the faulting record, its channel, the subcode and the lines completed. -/
structure HeldFault where
  cause : Nat
  opc : Nat
  addr : Nat
  far : Bool
  recAddr : Nat
  chan : Nat
  sub : Nat
  lines : Nat
  deriving DecidableEq, Repr

/-- A token (R20): the source-free and visible counts, the bound counter (0 for none), and the attributed-fault slot. -/
structure Token where
  sfree : Nat
  vis : Nat
  bind : Nat
  fault : Option HeldFault
  deriving DecidableEq, Repr

/-- A token at task start: counts zero, unbound, no fault (R13). Log 1 (DESIGN CHOICE). -/
def Token.free : Token := ⟨0, 0, 0, none⟩

/-- A shape entry (R25): NDIM, the sizes, and the multipliers and shifts paired with them. -/
structure Shape where
  ndim : Nat
  dims : List Nat
  muls : List Nat
  shfs : List Nat
  deriving DecidableEq, Repr

/-- A carried view (R331): the view of a releasing store, the code of the narrowest scope it names, and the core that
released it; of a store that has not performed, and of a fence, the scope and the core only. -/
structure Carried where
  scope : Nat
  core : Nat
  view : View
  deriving DecidableEq, Repr

/-- A retired store that has not performed (R329): its address in the device's memory, its bytes and the scopes it releases at;
with no bytes, a fence and what it lays down for the stores behind it. -/
structure StoreEnt where
  addr : Nat
  bytes : List Byte
  carry : List Carried
  deriving DecidableEq, Repr

/-- An open approximable region (R249): its key, the output register, the threshold and inputs as f32 patterns, whether
the run is sampled and the surrogate's outputs it holds. -/
structure ApxOpen where
  addr : Nat
  nin : Nat
  nout : Nat
  freg : Nat
  fval : Nat
  vo : Nat
  thr : Nat
  skip : Nat
  xs : List Nat
  sampled : Bool
  held : List Nat
  deriving DecidableEq, Repr

/-- What a context in root mode holds besides its registers (R258 to R264): the request it serves, the meter limit and
count, the windows, the areas, and the output words and provenance pairs so far, newest first. -/
structure RootRun where
  req : Nat
  limit : Nat
  count : Nat
  tbase : Nat
  tlen : Nat
  inBase : Nat
  plen : Nat
  scrLen : Nat
  outArea : Nat
  outLim : Nat
  provArea : Nat
  out : List Nat
  prov : List (Nat × Nat)
  deriving DecidableEq, Repr

/-- What a memory-core context that serves an order holds (R306 to R309): the core and channel of the record, its PID and
partition, whether it stores, the far address, the near address and length, the instructions retired, the pushes not yet
delivered, the line an fld waits for with its bytes once they are there, whether halt has retired, and the fault that ended it. -/
structure Serving where
  core : Nat
  k : Nat
  part : Nat
  pid : Nat
  tag : Nat
  store : Bool
  far : Nat
  near : Nat
  len : Nat
  retired : Nat
  pushed : List (Nat × List Byte)
  pending : List (Nat × List Byte)
  halted : Bool
  fault : Option HeldFault
  deriving DecidableEq, Repr

/-- The stores of a completed engine thread that its context has not joined (R333): engine, token and view. -/
structure ThreadView where
  eng : Nat
  tok : Nat
  view : View
  deriving DecidableEq, Repr

/-- Whether a context runs (R236, R293, R367, R369, R380): free; kept for a task whose arguments are being pushed or whose
save is being read back; running; asked to stop with a hint window open; stopped, its
state being drained or saved; halted with engine work left; removed with engine work left; stopped by the Whistle. -/
inductive RunMode where
  | free | loading | running | stopping | saving | halted | removed | whistled
  deriving DecidableEq, Repr

/-- The registers and other state one context holds (R13, R28, R239, R372). Memory-core contexts use the same record,
without SIMD, accumulator, format or shape state (R303). -/
structure Ctx where
  /-- R15. General registers g0 to g27; g0 reads as zero. Reset: zero. -/
  g : Vector Word 28
  /-- R18. SIMD registers. Reset: zero. -/
  v : Vector (BitVec 128) 16
  /-- R19. Accumulators: f32 patterns by element number; elements past the list's end are +0. Reset: all +0. -/
  acc : Vector (List (BitVec 32)) 4
  /-- R187. The k-step counter of each accumulator. Reset: zero. -/
  ks : Vector (BitVec 8) 4
  /-- R20. Tokens t0 to t7. Reset: counts zero, unbound, no fault. -/
  tok : Vector Token 8
  /-- R21. Format registers. Reset: R23. -/
  fmt : Vector (BitVec 32) 8
  /-- R24. Running maxima. Reset: zero. -/
  amx : Vector Word 4
  /-- R25. Shape entries. Reset: NDIM 0. -/
  shp : Vector Shape 16
  /-- R26. Loop starts. Reset: zero. -/
  ls : Vector Word 4
  /-- R26. Loop ends. Reset: zero. -/
  le : Vector Word 4
  /-- R26. Loop counts. Reset: zero. -/
  lc : Vector Word 4
  /-- R27. Program counter. Reset: zero. -/
  pc : BitVec 48
  /-- R30, CR 0. Status. Reset: zero. -/
  st : Word
  /-- R28, CR 1. Trap vector. Reset: zero. -/
  tvec : BitVec 48
  /-- R28, CR 2. Trap frame. Reset: zero. -/
  tframe : BitVec 32
  /-- R28, CR 3. Task tag. Reset: zero. -/
  tag : BitVec 32
  /-- R28, CR 4. Process id. Reset: zero. -/
  pid : BitVec 16
  /-- R28, CR 5. Budget. Reset: zero. -/
  budget : Word
  /-- R28, CR 6. Charge. Reset: zero. -/
  charge : Word
  /-- R28, CR 7. Deadline. Reset: zero. -/
  deadline : Word
  /-- R28, CR 9. Local window. Reset: zero. -/
  lwin : Word
  /-- R28, CR 10. Flock member index and width. Reset: zero. -/
  flock : Word
  /-- R28, CR 11. Hint interval. Reset: 16,384. -/
  hintgap : BitVec 16
  /-- R28, CR 12. Energy. Reset: zero. -/
  ecnt : BitVec 48
  /-- R253, CR 13. Approximation control. Reset: zero. -/
  apxctl : Word
  /-- R28, CR 14. Seed. Reset: zero. -/
  seed : BitVec 32
  /-- R28, CR 15. Pending prefix. Reset: zero. -/
  pfx : BitVec 32
  /-- R125, CR 16 to 19. Port bindings. Reset: unbound, zero. -/
  pbind : Vector Word 4
  /-- R216, CR 20 to 23. Chain heads. Reset: zero. -/
  chhead : Vector (BitVec 32) 4
  /-- R220, CR 24 to 27. Write pointers. Reset: zero. -/
  wp : Vector Word 4
  /-- R222, CR 28 to 31. The cause of each channel's last record fault. Reset: zero. -/
  chcause : Vector Nat 4
  /-- R222. The near address of the record each channel last took. Reset: zero. -/
  chrec : Vector Nat 4
  /-- R224. The record fault each channel holds for want of a token. Reset: none. -/
  chfault : Vector (Option HeldFault) 4
  /-- R239, CR 33. Return pc of sys. Reset: zero. -/
  sepc : BitVec 48
  /-- R239, CR 34. Status at sys. Reset: zero. -/
  sest : Word
  /-- R239, CR 35. Code of sys. Reset: zero. -/
  scode : BitVec 16
  /-- R239, CR 36. Argument of sys. Reset: zero. -/
  sarg : Word
  /-- R239, CR 48. Hypervisor return pc. Reset: zero. -/
  hepc : BitVec 48
  /-- R239, CR 49. Hypervisor status. Reset: zero. -/
  hest : Word
  /-- R31. LFSR of stochastic rounding. Reset: 1. -/
  lfsr : BitVec 32
  /-- R112, R364. Loop shadow: ls, le, lc at trap entry. Reset: zero. -/
  shadow : List Word
  /-- R364. Latch: the last fault record written. Reset: zero. -/
  latch : FaultRec
  /-- R249. Open approximable region. Reset: none. -/
  apx : Option ApxOpen
  /-- R132. Barrier slot index of the context the task began on. Reset: zero. -/
  barIdx : Nat
  /-- R381. Words sent through each port. Reset: zero. -/
  sent : Vector (BitVec 32) 4
  /-- R381. Words taken from each port. Reset: zero. -/
  recv : Vector (BitVec 32) 4
  /-- R243. An hcall of the task is outstanding. Reset: no. -/
  hcallOut : Bool
  /-- R258. The translator run the context executes. Reset: none. -/
  root : Option RootRun
  /-- R308. The order a memory-core context serves. Reset: none. -/
  serving : Option Serving
  /-- R324. Store queue, oldest first. Reset: empty. -/
  stq : List StoreEnt
  /-- R329. The scopes at which stores after fences with order rel or sc carry the context's view, one for each fence that no later fence
  of a scope as wide has replaced. Reset: none. -/
  fence : List Carried
  /-- R331. Views carried by releases that plain loads have read, merged by a later fence. Reset: none. -/
  acqPend : List Carried
  /-- R324. The party's view. Reset: first positions. -/
  view : View
  /-- R333. Completed engine threads not yet joined. Reset: none. -/
  threads : List ThreadView
  /-- R326. Number of the current synchronisation-free region. Reset: zero. -/
  region : Nat
  /-- R236, R369, R380. What the context is doing. Reset: free. -/
  mode : RunMode
  /-- R88. The oldest instruction waits. The model's own; reset: no. -/
  waiting : Bool
  /-- R88. Die counter when the present wait began. Reset: zero. -/
  waitSince : Nat
  /-- R128. The port a stalled write names. Reset: none. -/
  stall : Option Nat
  /-- R128. Die counter at which the stalled write's next probe is due. Reset: zero. -/
  probeAt : Nat
  /-- R128. A notice that this context is to raise PORT_DEADLOCK: the origin's thread and the ring's size. Reset: none. -/
  notice : Option (Nat × Nat)
  /-- R369. End of the open hint window, a die-counter value. Reset: none. -/
  window : Option Nat
  /-- R246. The live bitmap and local-range mask of an honoured phint. Reset: none. -/
  hint : Option (Nat × Nat)
  /-- R244. A budx being decided: amount, and the code once decided. Reset: none. -/
  budx : Option (Nat × Option Nat)
  /-- R350. The handler of a BUDGET trap has had a budx refused. Reset: no. -/
  refused : Bool
  /-- R236. The successor named by the halt that retired, 0 for none. Reset: zero. -/
  successor : Nat
  /-- R236. The task's halt has retired. Reset: no. -/
  halted : Bool
  /-- R298. A flock follower, or held while its leader's handler runs. Reset: no. -/
  follower : Bool
  /-- R394. Which run of a selected task this is: 0 original, 1 replay, 2 third. Reset: zero. -/
  run : Nat
  /-- R376. The task has written PBINDk with V = 1. Reset: no. -/
  bound : Bool
  /-- R381. Die counter when a stop by the Whistle settled here. Reset: zero. -/
  settledAt : Nat
  deriving DecidableEq, Repr

/-- The format registers at task start (R23). -/
def fmtReset : Vector (BitVec 32) 8 :=
  #v[0x03000000, 0x02000000, 0x01000000, 0x00507480, 0x0040F580, 0x00601240, 0x00603360, 0x00601260]

/-- A context that holds no task, with the values of task start where the spec gives them (R13, R23, R28, R30, R31) and
zero where it gives none. Log 1 (DESIGN CHOICE). -/
def Ctx.reset : Ctx where
  g := Vector.replicate 28 0
  v := Vector.replicate 16 0
  acc := Vector.replicate 4 []
  ks := Vector.replicate 4 0
  tok := Vector.replicate 8 Token.free
  fmt := fmtReset
  amx := Vector.replicate 4 0
  shp := Vector.replicate 16 ⟨0, [], [], []⟩
  ls := Vector.replicate 4 0
  le := Vector.replicate 4 0
  lc := Vector.replicate 4 0
  pc := 0
  st := 0
  tvec := 0
  tframe := 0
  tag := 0
  pid := 0
  budget := 0
  charge := 0
  deadline := 0
  lwin := 0
  flock := 0
  hintgap := 16384
  ecnt := 0
  apxctl := 0
  seed := 0
  pfx := 0
  pbind := Vector.replicate 4 0
  chhead := Vector.replicate 4 0
  wp := Vector.replicate 4 0
  chcause := Vector.replicate 4 0
  chrec := Vector.replicate 4 0
  chfault := Vector.replicate 4 none
  sepc := 0
  sest := 0
  scode := 0
  sarg := 0
  hepc := 0
  hest := 0
  lfsr := 1
  shadow := []
  latch := FaultRec.zero
  apx := none
  barIdx := 0
  sent := Vector.replicate 4 0
  recv := Vector.replicate 4 0
  hcallOut := false
  root := none
  serving := none
  stq := []
  fence := []
  acqPend := []
  view := []
  threads := []
  region := 0
  mode := .free
  waiting := false
  waitSince := 0
  stall := none
  probeAt := 0
  notice := none
  window := none
  hint := none
  budx := none
  refused := false
  successor := 0
  halted := false
  follower := false
  run := 0
  bound := false
  settledAt := 0

/-- A word in a receive queue or on its way to one (R126): the value, the sending context and the view it carries. -/
structure PortWord where
  val : Word
  src : Nat
  view : View
  deriving DecidableEq, Repr

/-- A matrix or vector command queued or running (R177, R207): its operation and operands as resolved at issue, and whether some range
it reads lies in its core's slice (R304). -/
structure EngCmd where
  id : Nat
  op : Nat
  ctx : Nat
  tok : Nat
  k : Nat
  cmd : Nat
  fa : Nat
  fb : Nat
  fo : Nat
  ft : Nat
  rnd : Nat
  ks : Nat
  keep : Bool
  amx : Option Nat
  yb : Bool
  lfsr : BitVec 32
  view : View
  running : Bool
  slice : Bool
  deriving DecidableEq, Repr

/-- A copy chain (R216): the context and pc that started it, its chain token, head, the region it was started in, the
mode and its thread's view (R333). -/
structure Chain where
  ctx : Nat
  opc : Nat
  tok : Option Nat
  head : Nat
  region : Nat
  priv : Nat
  view : View
  deriving DecidableEq, Repr

/-- One piece of a running record. With a far side (R311): the line's virtual address, the first byte within it, the bytes
it moves and their near address. Between near ranges: the source address and the bytes within one line at the destination. -/
structure FarLine where
  va : Nat
  off : Nat
  len : Nat
  near : Nat
  deriving DecidableEq, Repr

/-- A record its channel is running (R219): its words, its pieces, how many were forwarded, which have committed or
arrived, the arrived bytes that the write pointer has not passed, the pieces it has passed, the ranges that a program's pushes
have delivered, a fault that ends it, whether it has stopped at a poisoned word (R426), the bytes that wait for the rest of their
16-byte unit of a slice by the address each run of them is to have (R305), and the lines of host memory that become visible when it completes (R335). -/
structure RunRec where
  id : Nat
  addr : Nat
  words : List Nat
  lines : List FarLine
  fwd : Nat
  done : List Nat
  data : List (Nat × List Byte)
  moved : Nat
  readDone : Bool
  suspended : Bool
  restart : Bool
  pushes : List (Nat × Nat)
  fault : Option HeldFault
  poisoned : Bool
  tail : List (Nat × List Byte)
  hostOut : List (Nat × List Byte)
  deriving DecidableEq, Repr

/-- A channel's running chain (R216): the chain, the near address of the record to take next, and the record it runs. -/
structure ChainRun where
  chain : Chain
  next : Nat
  running : Option RunRec
  deriving DecidableEq, Repr

/-- An entry of a core's surrogate cache (R414): the region's key and partition, its network and the count c. -/
structure SurrEnt where
  part : Nat
  addr : Nat
  nin : Nat
  nout : Nat
  fval : Nat
  wid : Nat
  params : List Nat
  c : Nat
  deriving DecidableEq, Repr

/-- The stage of a core in the Fold (R398). -/
inductive Fold where
  | service | drain | scan | retired
  deriving DecidableEq, Repr

/-- What a compute core holds besides its contexts. -/
structure CoreSt where
  /-- R126. Receive queues, up to 8 words each. Reset: empty. -/
  rq : Vector (List PortWord) 4
  /-- R127. Free counts last reported by a destination (core × 4 + queue). Reset: none reported, read as 8. -/
  freeRep : Tab Nat
  /-- R177. Matrix-engine queue, the running command first. Reset: empty. -/
  mat : List EngCmd
  /-- R207. Vector-engine queue. Reset: empty. -/
  vec : List EngCmd
  /-- R216. Copy-engine queue of waiting chains with their channels. Reset: empty. -/
  copyQ : List (Nat × Chain)
  /-- R216. The chain each channel runs. Reset: none. -/
  chans : Vector (Option ChainRun) 4
  /-- R375. Chains and records held beside the queue after a restore: channel and run. Reset: none. -/
  held : List (Nat × ChainRun)
  /-- R414. Surrogate cache, most recently used first. Reset: empty. -/
  surr : List SurrEnt
  /-- R316. Instruction cache: partition, PID and line address with the line's bytes. Reset: empty. -/
  icache : List (Nat × Nat × Nat × List Byte)
  /-- R254. Sealed by a supervisor's seal. Reset: no. -/
  sealed : Bool
  /-- R398. Stage of the Fold. Reset: SERVICE. -/
  fold : Fold
  /-- R254. Result of the last scan: 0 never, 1 running, 2 passed, 3 failed. Reset: 0. -/
  scan : Nat
  /-- R397. Suspicion score. Reset: zero. -/
  score : Nat
  /-- R397. Confirmations. Reset: zero. -/
  confirms : Nat
  /-- R429. Taint list. Reset: empty. -/
  taint : List Nat
  /-- R429. Taint overflow flag. Reset: clear. -/
  taintOvf : Bool
  /-- R431. Die counter of the last pass. Reset: zero. -/
  lastPass : Nat
  /-- R406. Armed one-shot fault: the result bit to invert. Reset: none. -/
  armed : Option Nat
  /-- R433. Scan after a level-1 error. Reset: no. -/
  errScan : Bool
  deriving DecidableEq, Repr

/-- A core at reset. Log 1 (DESIGN CHOICE). -/
def CoreSt.reset : CoreSt where
  rq := Vector.replicate 4 []
  freeRep := []
  mat := []
  vec := []
  copyQ := []
  chans := Vector.replicate 4 none
  held := []
  surr := []
  icache := []
  sealed := false
  fold := .service
  scan := 0
  score := 0
  confirms := 0
  taint := []
  taintOvf := false
  lastPass := 0
  armed := none
  errScan := false

/-- A slot of the objects page (R131, R134): its eight words, the accumulated view (R331) and the waiting contexts in
the order their waits began. -/
structure Obj where
  words : List Nat
  view : View
  waiters : List Nat
  deriving DecidableEq, Repr

/-- One saved member of a task (R372): its context record, the saved window bytes and the queue words it took, with the
chains and suspended records it had and the core it was saved on. Log 64 (DESIGN CHOICE). -/
structure SavedCtx where
  ctx : Ctx
  bytes : Memory
  words : List (Nat × List PortWord)
  chains : List (Nat × ChainRun)
  core : Nat
  deriving DecidableEq, Repr

/-- What a cluster holds besides its cores and memory. -/
structure ClusterSt where
  /-- R441. The partition the cluster belongs to. Reset: none. -/
  part : Option Nat
  /-- R129. Object slots in use. Reset: KIND 0. -/
  objs : Tab Obj
  /-- R442. Permission table: die, first and last cluster of each valid entry. Reset: none valid. -/
  perm : List (Nat × Nat × Nat)
  /-- R316. Cluster instruction cache. Reset: empty. -/
  icache : List (Nat × Nat × Nat × List Byte)
  /-- R427. Taken by the scan rotation. Reset: no. -/
  rotating : Bool
  /-- R459. The cluster's island is gated. Reset: yes. -/
  gated : Bool
  /-- R372. Context whose save or restore the save engine works on. Reset: none. -/
  saver : Option Nat
  /-- R427. Supervisors' home contexts saved while the rotation scans the cluster. Reset: none. -/
  homes : List (Nat × SavedCtx)
  deriving DecidableEq, Repr

/-- A cluster at reset. Log 1 (DESIGN CHOICE). -/
def ClusterSt.reset : ClusterSt := ⟨none, [], [], [], false, true, none, []⟩

/-- State of a ready-table entry (R356, R395): WAITING holds a selected task between its runs. -/
inductive EntSt where
  | ready | parked | placed | asked | saving | saved | restoring | waiting | pushing
  deriving DecidableEq, Repr

/-- A range of a Transit declaration (R389). -/
structure DeclRange where
  base : Nat
  out : Bool
  len : Nat
  deriving DecidableEq, Repr

/-- A shadow line of a run (R394): the output line's far address, its own address in the partition's Transit region, the bytes
written as a mask, and its 64 bytes. -/
structure ShadowLine where
  va : Nat
  addr : Nat
  mask : Nat
  data : List Byte
  deriving DecidableEq, Repr

/-- The Transit record of a selected task (R388 to R396): SHADOW the lines of the run that goes on, KEPT those of the replay, SEQ
its place in the order of reaching WAITING or THIRD (R403), FULL that a line of a run has met a full Transit region (R395). -/
structure Transit where
  /-- 0 not selected, 1 ORIGINAL, 2 WAITING, 3 REPLAY, 4 THIRD, 5 released, 6 the third run is to be placed. -/
  phase : Nat
  conf : Bool
  frac : Nat
  admitted : Nat
  locks : List Nat
  d : List Nat
  failed : List Bool
  shadow : List ShadowLine
  kept : List ShadowLine
  cores : List Nat
  thread : Nat
  finalCharge : Nat
  runCtx : Option Nat
  seq : Nat
  full : Bool
  deriving DecidableEq, Repr

/-- No Transit record. -/
def Transit.none : Transit := ⟨0, false, 0, 0, [], [0, 0, 0], [false, false, false], [], [], [], 0, 0, Option.none, 0, false⟩

/-- A launch command's identity, for its completion (R454): partition, queue, SEQ and UTAG. -/
structure LaunchId where
  part : Nat
  q : Nat
  seq : Nat
  utag : Nat
  deriving DecidableEq, Repr

/-- A job card's dealing state (R291 to R293), and the views its chunks have ended with (R331). -/
structure CardSt where
  args : Nat
  rsize : Nat
  minChunk : Nat
  budRec : Nat
  first : Nat
  remaining : Nat
  live : Nat
  id : Nat
  endView : View
  deriving DecidableEq, Repr

/-- A ready-table entry (R284, R294, R345, R356): what its record gives (RUNV the UNV flag as the record has it, UNV whether
the task is marked unverifiable), where its arguments are pushed from (R293), and what the Drover keeps: whether a paged task is to be paged in (R447), the deadline it was last counted as
having missed (R347), the entry a pre-emption was asked for, and the contexts held for the task (R358). -/
structure Entry where
  tag : Nat
  part : Nat
  pid : Nat
  graph : Nat
  state : EntSt
  order : Nat
  counter : Nat
  wait : Nat
  code : Nat
  frame : Nat
  wbase : Nat
  wlen : Nat
  budget : Nat
  slack : Nat
  deadline : Nat
  flw : Nat
  runv : Bool
  unv : Bool
  telig : Bool
  pin : Bool
  retain : Bool
  pcl0 : Nat
  pcln : Nat
  pcore : Nat
  cluster : Option Nat
  members : List Nat
  g2 : Nat
  g4 : Nat
  g5 : Nat
  card : Option CardSt
  parent : Option Nat
  argSrc : Nat
  argLen : Nat
  launch : Option LaunchId
  decl : List DeclRange
  transit : Transit
  saved : List SavedCtx
  paged : Bool
  pageAsked : Bool
  missed : Option Nat
  restarted : Bool
  rootReq : Option Nat
  victimFor : Option Nat
  heldFor : List Nat
  ecnt : Nat
  startView : View
  deriving DecidableEq, Repr

/-- An entry that has been removed while contexts of its task, or of its card's chunks, still have stores or engine work to end (R289,
R454): the entry, with the energy counted so far, the contexts not freed yet, what its counter's signal is to say, and the views that
the freed ones ended with. -/
structure Ending where
  ent : Entry
  ctxs : List Nat
  abt : Bool
  rev : Bool
  view : View
  deriving DecidableEq, Repr

/-- A dependence counter (R287). -/
structure Counter where
  value : Int
  parked : List Nat
  rev : Bool
  abt : Bool
  lost : Bool
  view : View
  deriving DecidableEq, Repr

/-- A dependence counter at reset. Log 1 (DESIGN CHOICE). -/
def Counter.reset : Counter := ⟨0, [], false, false, false, []⟩

/-- A request to a Drover (R343): 0 spawn, 1 card, 2 budx, 3 launch, 4 translator run (R258); WIN and PLACE are what a card's zero words
stand for (R291), FAR the card's address, N the amount of a budx, the type of a launch or the hypervisor request of a run. -/
structure DReq where
  kind : Nat
  ctx : Nat
  part : Nat
  pid : Nat
  words : List Nat
  decl : List DeclRange
  declOk : Bool
  res : Nat
  tok : Nat
  far : Nat
  opc : Nat
  win : Nat
  place : Nat
  n : Nat
  graph : Nat
  launch : Option LaunchId
  view : View
  deriving DecidableEq, Repr

/-- A signal on its way to a dependence counter (R288, R290). -/
structure Signal where
  ctr : Nat
  abt : Bool
  rev : Bool
  view : View
  deriving DecidableEq, Repr

/-- A window kept powered for a successor (R297). -/
structure Retained where
  core : Nat
  base : Nat
  len : Nat
  succ : Nat
  deriving DecidableEq, Repr

/-- A translation-cache entry (R314). -/
structure TlbEnt where
  part : Nat
  pid : Nat
  va : Nat
  size : Nat
  pa : Nat
  host : Bool
  r : Bool
  x : Bool
  w : Bool
  dirty : Bool
  deriving DecidableEq, Repr

/-- An observation (R409): partition, key, opening fields, inputs, outputs and whether the run was sampled, by a number of its own. -/
structure Obs where
  id : Nat
  part : Nat
  addr : Nat
  nin : Nat
  nout : Nat
  freg : Nat
  fval : Nat
  wid : Nat
  lr : Nat
  thr : Nat
  xs : List Nat
  ys : List Nat
  sampled : Bool
  deriving DecidableEq, Repr

/-- A region-table entry of the Orrery (R408), by a number of its own, with the pairs of its present batch or fit, whether a fit (1) or
a step (2) is under way, whether its closed-form fit is done, the number of its last observation, and the observations that wait for
the fit or step under way (R422). -/
structure Region where
  id : Nat
  addr : Nat
  nin : Nat
  nout : Nat
  freg : Nat
  fval : Nat
  part : Nat
  state : Nat
  wid : Nat
  lr : Nat
  thr : Nat
  obs : Nat
  samp : Nat
  good : Nat
  masters : List Nat
  pairs : List (List Nat × List Nat)
  fitting : Nat
  fitted : Bool
  last : Nat
  late : List Obs
  deriving DecidableEq, Repr

/-- What a compute die holds. -/
structure DieSt where
  /-- R341. Die counter. Reset: zero. -/
  counter : Nat
  /-- R286. Next tag of the per-die sequence. Reset: 1. -/
  tagSeq : Nat
  /-- R430. The partition of each tag the die has assigned. Reset: none assigned. -/
  tagParts : Tab Nat
  /-- R430. The tags placed or restored on the die. Reset: none. -/
  placed : List Nat
  /-- R431. Die counter at which each partition's last context on the die was freed. Reset: none has run. -/
  ran : Tab Nat
  /-- R425. Single-bit errors corrected in the storage of the die. Reset: zero. -/
  corrected : Nat
  /-- R294. Ready table. Reset: empty. -/
  entries : List Entry
  /-- R289, R454. Removed entries whose contexts are still to be freed. Reset: none. -/
  ending : List Ending
  /-- R287. Dependence counters not at reset. Reset: VALUE 0, no flags. -/
  ctrs : Tab Counter
  /-- R343. Requests in order of arrival. Reset: empty. -/
  reqs : List DReq
  /-- R288. Signals under way, in order of arrival. Reset: none. -/
  signals : List Signal
  /-- R297. Retained windows. Reset: none. -/
  retained : List Retained
  /-- R347. Missed deadlines by partition. Reset: zero. -/
  misses : Tab Nat
  /-- R295. Order of admission of the next entry. Reset: zero. -/
  nextOrder : Nat
  /-- R314. Translation cache. Reset: empty. -/
  tlb : List TlbEnt
  /-- R408. Region table. Reset: empty. -/
  regions : List Region
  /-- R409. Observations under way to the buffer. Reset: none. -/
  obsWire : List Obs
  /-- R409. Observation buffer. Reset: empty. -/
  obsBuf : List Obs
  /-- R420. Resets under way: the observation of the failing run. Reset: none. -/
  resets : List Obs
  /-- R414. Weights under way: core and network. Reset: none. -/
  weights : List (Nat × SurrEnt)
  /-- R416. Removals under way: core and key. Reset: none. -/
  removals : List (Nat × SurrEnt)
  /-- R427. Next cluster of the scan rotation. Reset: zero. -/
  rotNext : Nat
  /-- R427. Clusters of the die that the rotation pass is scanning: the cores left. Reset: none. -/
  rotCores : List Nat
  deriving DecidableEq, Repr

/-- A die at reset. Log 1 (DESIGN CHOICE). -/
def DieSt.reset : DieSt where
  counter := 0
  tagSeq := 1
  tagParts := []
  placed := []
  ran := []
  corrected := 0
  entries := []
  ending := []
  ctrs := []
  reqs := []
  signals := []
  retained := []
  misses := []
  nextOrder := 0
  tlb := []
  regions := []
  obsWire := []
  obsBuf := []
  resets := []
  weights := []
  removals := []
  rotNext := 0
  rotCores := []

/-- The party of a far order (R318). -/
inductive Party where
  /-- Copy channel `k` of a core. -/
  | copy (core k : Nat)
  /-- A memory-core context, by its key. -/
  | mem (ctx : Nat)
  /-- A launch queue of a partition. -/
  | host (part q : Nat)
  deriving DecidableEq, Repr

/-- What a far order does (R310, R311, R306): a line of a copy record or an fst, a PROGRAM record or the reading of a card
that needs a memory-core context, or an fld. -/
inductive OrderKind where
  | read | write | atomic | program | card | load
  deriving DecidableEq, Repr

/-- A line order at a channel (R318): its party, the record it belongs to and its line there, where it goes, what it
writes, whether it is queued (0), admitted (1), or committed or read (2), and WIN, the number of the order it is a line of (R319): its
record's, or its own for an fld or fst of a program. -/
structure FarOrder where
  id : Nat
  party : Party
  kind : OrderKind
  part : Nat
  pid : Nat
  rid : Nat
  core : Nat
  k : Nat
  line : Nat
  va : Nat
  pa : Nat
  host : Bool
  off : Nat
  len : Nat
  near : Nat
  data : List Byte
  tag : Nat
  run : Nat
  shadow : Bool
  stage : Nat
  win : Nat
  deriving DecidableEq, Repr

/-- An entry of the far conflict window (R319): the party, the order and the lines it covers. A read order under way keeps a place here,
RD, that covers nothing and is none of the 64: what entered before it is what it is checked against. -/
structure WinEnt where
  party : Party
  win : Nat
  rd : Bool
  lines : List Nat
  deriving DecidableEq, Repr

/-- What a memory channel and its memory core hold. -/
structure ChanSt where
  /-- R318. Order queue. Reset: empty. -/
  orders : List FarOrder
  /-- R319. Far conflict window. Reset: empty. -/
  win : List WinEnt
  /-- R448. Dirty units: partition and page number. Reset: none. -/
  dirty : List (Nat × Nat)
  /-- R439. Array log, newest first, as two words. Reset: empty. -/
  arrayLog : List (Nat × Nat)
  /-- R439. Bus log, newest first. Reset: empty. -/
  busLog : List (Nat × Nat)
  /-- R438. Lanes that spares have replaced. Reset: none. -/
  spares : List Nat
  /-- R438. A transfer being resent: line, group and attempts made. Reset: none. -/
  resend : Option (Nat × Nat × Nat)
  /-- R438. The channel is retired. Reset: no. -/
  retired : Bool
  /-- R429. The memory core's taint list. Reset: empty. -/
  taint : List Nat
  /-- R429. Its overflow flag. Reset: clear. -/
  taintOvf : Bool
  /-- R431. Die counter of the memory core's last pass. Reset: zero. -/
  lastPass : Nat
  /-- R428. The memory core is being scanned. Reset: no. -/
  scanning : Bool
  /-- R433. The memory core is sealed and scanned after a level-1 error. Reset: no. -/
  errScan : Bool
  deriving DecidableEq, Repr

/-- A channel at reset. Log 1 (DESIGN CHOICE). -/
def ChanSt.reset : ChanSt := ⟨[], [], [], [], [], [], none, false, [], false, 0, false, false⟩

/-- A translation-directory entry (R271). -/
structure DirEnt where
  key : List Byte
  outBase : Nat
  outLen : Nat
  provBase : Nat
  provN : Nat
  prov : List (Nat × Nat)
  entries : List (Nat × Nat)
  deriving DecidableEq, Repr

/-- A landed or expected contribution (R457, R458). -/
structure Contribution where
  cid : Nat
  epoch : Nat
  member : Nat
  len : Nat
  addr : Nat
  data : List Byte
  at' : Nat
  deriving DecidableEq, Repr

/-- The save slot of one member of a paged task in a partition's namespace (R446): the task's tag and die, the block number of the
slot's first 4 KiB unit, the number of the key it is encrypted with, the units of its window as they are encrypted, and what the other
units hold. Log 65 (DESIGN CHOICE). -/
structure PagedSlot where
  die : Nat
  tag : Nat
  block : Nat
  key : Nat
  slot : SavedCtx
  units : List (List Byte)
  deriving DecidableEq, Repr

/-- A launch queue (R451): its counters, whether it has stopped taking (R453) or is torn down (R435), and with a completion ring
that has failed, the graphs it has started (R447), the completions that wait as SEQ, UTAG, TAG, STATUS and ECNT, and the doorbell writes
that arrived during a migration's stop, oldest first: SUBMIT (0), RELEASE (1) or reset (2) with its value (R450). -/
structure LaunchQ where
  cfg : QueueCfg
  submit : Nat
  accepted : Nat
  completed : Nat
  release : Nat
  stopped : Bool
  torn : Bool
  badRing : Bool
  graphs : List Nat
  pending : List (Nat × Nat × Nat × Nat × Nat)
  bells : List (Nat × Nat)
  deriving DecidableEq, Repr

/-- The hypervisor's record of a partition and what it keeps for it (R441). -/
structure PartSt where
  /-- R441. What the partition was created with. Reset: no partition. -/
  cfg : PartCfg
  /-- R352. The guaranteed minima that retirements have lowered, by die; G on every other. Reset: none. -/
  minG : Tab Nat
  /-- R307. Loader table, entries that are not clear. Reset: clear. -/
  loaders : Tab Nat
  /-- R239. SVEC. Reset: zero at creation. -/
  svec : BitVec 48
  /-- R239. DBGCTL. Reset: zero at creation. -/
  dbgctl : Word
  /-- R368. Fault queues by die, oldest first, each entry its 128 bytes. Reset: empty. -/
  faultQ : Tab (List (List Byte))
  /-- R368. Lost counts by die. Reset: zero. -/
  lost : Tab Nat
  /-- R271. Translation directory, most recently hit first. Reset: empty. -/
  dir : List DirEnt
  /-- R399. Transit settings: threshold field, confirm mode, fraction. Reset: zero. -/
  thresh : Nat
  conf : Bool
  frac : Nat
  /-- R399. Transit counts: unverified, mismatch, confirmed. Reset: zero. -/
  unverified : Nat
  mismatch : Nat
  confirmed : Nat
  /-- R379. Stopped by the Whistle, and the context it spares. Reset: no. -/
  whistled : Bool
  spared : Option Nat
  /-- R380. The Whistle stop has settled. Reset: no. -/
  settled : Bool
  /-- R457. Landing area. Reset: empty. -/
  landed : List Contribution
  /-- R458. Expired epochs. Reset: none. -/
  expired : List (Nat × Nat)
  /-- R443. The supervisor image's hash input: its bytes. Reset: empty. -/
  supImage : List Byte
  /-- R443. The supervisor's PID. Reset: zero. -/
  supPid : Nat
  /-- R449. Migration round and the units its last read found set. Reset: no migration. -/
  migRound : Nat
  migDirty : List Nat
  /-- R449. The die counters when the Whistle stopped it. Reset: none. -/
  stopClk : Tab Nat
  /-- R449. The far pages that migration has copied, as the bytes its destination has. Reset: none. -/
  migImage : Memory
  /-- R446. Key of the namespace, made at creation and destroyed with the partition. Reset: a free value at creation. -/
  xtsKey : Nat
  /-- R446. The slots of paged tasks in the namespace. Reset: none. -/
  pages : List PagedSlot
  /-- R457. Contributions posted: peer, CID, EPOCH and MEMBER. Reset: none. -/
  posted : List (Nat × Nat × Nat × Nat)
  deriving DecidableEq, Repr

/-- A hypervisor request (R243): code, argument, reply slot and what it needs until it is answered. Status 0 while it is
undecided. -/
structure HReq where
  id : Nat
  code : Nat
  arg : Nat
  slot : Nat
  slotLocal : Bool
  ctx : Nat
  tag : Nat
  part : Nat
  pid : Nat
  stage : Nat
  status : Nat
  result : Nat
  image : Nat
  outArea : Nat
  provArea : Nat
  meterCap : Nat
  rslack : Nat
  key : List Byte
  hdr : List Byte
  deadline : Nat
  res : List Nat
  entries : List Nat
  view : View
  deriving DecidableEq, Repr

/-- A deadlock probe or notice (R128): the core it is at or the context it names, the contexts of the path so far, its
origin. -/
structure Probe where
  id : Nat
  notice : Bool
  at' : Nat
  path : List Nat
  origin : Nat
  deriving DecidableEq, Repr

/-- A contribution being sent (R457), with the flits of it that its peer has not acknowledged. -/
structure SpanSend where
  id : Nat
  req : Nat
  part : Nat
  peer : Nat
  cid : Nat
  epoch : Nat
  member : Nat
  data : List Byte
  unacked : Nat
  deriving DecidableEq, Repr

/-- A flit in a replay buffer (R456): the send it is part of, its 256 bytes, and how often it has failed at the other end. -/
structure Flit where
  send : Nat
  bytes : List Byte
  fails : Nat
  deriving DecidableEq, Repr

/-- A Span link (R456): flits delivered, the failures of each flit to arrive by its number, whether it is retired, and the replay buffer,
oldest flit first. -/
structure LinkSt where
  delivered : List (List Byte)
  fails : Tab Nat
  retired : Bool
  replay : List Flit
  deriving DecidableEq, Repr

/-- What the hypervisor is told (R432 level 4, R443): state of a partition has failed, or its supervisor's image. -/
inductive Report where
  | stateFailed (part : Nat)
  | imageFailed (part : Nat)
  deriving DecidableEq, Repr

/-- A line bit (R324, R327): the line by its address in the device's memory, the party index (R325), whether it is the
write bit, and for an engine's mark the operation, context and token it belongs to. -/
structure Mark where
  line : Nat
  party : Nat
  write : Bool
  op : Nat
  ctx : Nat
  tok : Nat
  deriving DecidableEq, Repr

/-- A superseded store of a coherence list (R324): the byte's address, the value it had before, and the number of the
store that replaced it. -/
structure Past where
  addr : Nat
  old : Byte
  stamp : Nat
  deriving DecidableEq, Repr

/-- A releasing store that has performed (R331): its bytes, what it carries, its number, and the number of the store, other than
one of a chain of atomics, that has written over it. -/
structure Released where
  addr : Nat
  len : Nat
  carry : Carried
  stamp : Nat
  overAt : Option Nat
  deriving DecidableEq, Repr

/-- What a partition keeps on one die as it leaves it (R449 step 4): the die, its counter at the stop, and of the die's state what is
the partition's. -/
structure DieMove where
  die : Nat
  clk : Nat
  st : DieSt
  deriving DecidableEq, Repr

/-- A range of near storage on its way (R449): its first address at the source and what it holds, by offset, with its poisoned words. -/
structure RangeMove where
  base : Nat
  len : Nat
  bytes : Memory
  poison : List Nat
  deriving DecidableEq, Repr

/-- A stopped partition on its way to other clusters (R449 steps 4 and 5): its id and record, its clusters in order with their objects, its
saved contexts with the mode of each, what its dies keep for it, its storage, its launch queues with the doorbells that arrive during
the stop (R450), its requests and contributions, its port words and free counts, and a number above every number it uses. -/
structure Leaving where
  part : Nat
  st : PartSt
  clusters : List (Nat × Tab Obj)
  ctxs : List (Nat × RunMode × SavedCtx)
  dies : List DieMove
  ranges : List RangeMove
  queues : Tab LaunchQ
  hreqs : List HReq
  wires : List (Nat × Nat × Nat × PortWord)
  freeWires : List (Nat × Nat × Nat)
  free : List (Nat × Tab Nat)
  sends : List SpanSend
  next : Nat
  deriving DecidableEq, Repr

/-- What an event happens to: numbers in the order the event's meaning names them, bytes, the parameters of a
creation, and a partition that arrives. The model's own. Log 90 (DESIGN CHOICE). -/
structure EvArg where
  ns : List Nat
  bytes : List Byte
  part : Option PartCfg
  queue : Option QueueCfg
  leaving : Option Leaving
  deriving DecidableEq, Repr

/-- An event argument that names nothing. -/
def EvArg.none : EvArg := ⟨[], [], Option.none, Option.none, Option.none⟩

/-- An event argument of numbers only. -/
def EvArg.of (ns : List Nat) : EvArg := ⟨ns, [], Option.none, Option.none, Option.none⟩

/-- Who moves next (R336): a core issues, a named context issues, or an event happens. The model's own. -/
inductive Turn where
  | core (c : Nat)
  | ctx (c : Nat)
  | event (i : Instr) (a : EvArg)
  deriving DecidableEq, Repr

/-- State of the package's bring-up (R460): off, running, or in recovery with the step that failed. -/
inductive Power where
  | off | running
  | recovery (step : Nat)
  deriving DecidableEq, Repr

/-- The state of the part. -/
structure State where
  /-- R13, R303. Contexts by key: thread id for a compute context, 65,536 + memory core × 16 + context for a memory core's. Unlisted: Ctx.reset. -/
  ctxs : Tab Ctx
  /-- R10. Compute cores by core id. Unlisted: CoreSt.reset. -/
  cores : Tab CoreSt
  /-- R10. Clusters by die × 256 + number. Unlisted: ClusterSt.reset. -/
  clusters : Tab ClusterSt
  /-- R341. Dies by number. Unlisted: DieSt.reset. -/
  dies : Tab DieSt
  /-- R310. Memory channels by die × 32 + number. Unlisted: ChanSt.reset. -/
  chans : Tab ChanSt
  /-- R441. Partitions by id. Reset: none. -/
  parts : Tab PartSt
  /-- R451. Launch queues by partition × 64 + number. Reset: none. -/
  queues : Tab LaunchQ
  /-- R33, R302, R310. Every storage byte of the package and of host memory. Reset: zero (R460). -/
  mem : Memory
  /-- R426. Poisoned words by their address ÷ 8. Reset: none. -/
  poison : List Nat
  /-- R324. Superseded stores of near memory, newest first. Reset: none. -/
  past : List Past
  /-- R324. Number of the last store performed. Reset: zero. -/
  stamp : Nat
  /-- R331. Releasing stores. Reset: none. -/
  released : List Released
  /-- R324. Line bits. Reset: none. -/
  marks : List Mark
  /-- R126. Port words under way: sending core, destination core, queue, word; oldest first. Reset: none. -/
  wires : List (Nat × Nat × Nat × PortWord)
  /-- R127. Free counts under way: destination core, sending core, queue. Reset: none. -/
  freeWires : List (Nat × Nat × Nat)
  /-- R128. Probes and notices. Reset: none. -/
  probes : List Probe
  /-- R243. Hypervisor requests not yet answered. Reset: none. -/
  hreqs : List HReq
  /-- R457. Contributions being sent. Reset: none. -/
  sends : List SpanSend
  /-- R456. Span links by number. Reset: none used. -/
  links : Tab LinkSt
  /-- R432, R443. What the hypervisor and the management complex have been told, oldest first. Reset: nothing. -/
  reports : List Report
  /-- R448, R449. Partitions that have left for another package. Reset: none. -/
  departed : List Leaving
  /-- R460. Power state. Reset: off. -/
  power : Power
  /-- R460. The hypervisor image. Reset: empty. -/
  hvImage : List Byte
  /-- R206, R311. Next number of an engine operation, record, order or request. The model's own; reset: 1. -/
  nextId : Nat
  /-- The context that issues. The model's own; reset: 0. -/
  cur : Nat
  /-- What the event that happens names. The model's own; reset: nothing. -/
  arg : EvArg
  /-- R336. Turns chosen from outside, taken first. The model's own; reset: none. -/
  sched : List Turn
  /-- Events that earlier steps have made due, oldest first. The model's own; reset: none. -/
  agenda : List (Instr × EvArg)
  /-- Whose turn is next without a choice from outside: 0 a core's, 1 the agenda's, 2 the die counter's. The model's own; reset: 0. -/
  phase : Nat
  /-- R330. How far behind the newest store the next plain loads read, one number for each. The model's own; reset: none. -/
  choices : List Nat
  /-- Free values taken so far. The model's own; reset: zero. -/
  freeCtr : Nat
  deriving DecidableEq, Repr

/-- The reasons a step stops with a fault. -/
inductive Fault where
  /-- No meaning raises it: the part takes a trap or records a fault instead of stopping. Safe. -/
  | none
  deriving DecidableEq, Repr

/-- The reasons an instruction is refused. -/
inductive Refusal where
  /-- Raised by the dispatch for an instruction without a meaning. Safe: nothing is proved about it. -/
  | notModelled (mnemonic : String)
  deriving DecidableEq, Repr

/-- The part right after reset (R460): every storage word zero, no partition, no task, no request, every counter zero;
registers as Ctx.reset says. Log 1 (DESIGN CHOICE), 2 (DEDUCED). -/
def State.reset : State where
  ctxs := []
  cores := []
  clusters := []
  dies := []
  chans := []
  parts := []
  queues := []
  mem := []
  poison := []
  past := []
  stamp := 0
  released := []
  marks := []
  wires := []
  freeWires := []
  probes := []
  hreqs := []
  sends := []
  links := []
  reports := []
  departed := []
  power := .off
  hvImage := []
  nextId := 1
  cur := 0
  arg := EvArg.none
  sched := []
  agenda := []
  phase := 0
  choices := []
  freeCtr := 0

end Sys2Proof.Machine
end

