-- ==== Sys2Proof/Machine/Base.lean ====
section
/-! DEFINITION. Access to the parts of the state: contexts, cores, clusters, dies, channels, partitions, memory bytes,
and the numbering of R10, R33, R302 and R310. -/

namespace Sys2Proof.Machine

/-- The context of a key. -/
def getCtx (s : State) (c : Nat) : Ctx := (s.ctxs.get? c).getD Ctx.reset

/-- The state with one context replaced. -/
def putCtx (s : State) (c : Nat) (x : Ctx) : State := { s with ctxs := s.ctxs.put c x }

/-- The state with one context changed. -/
def modCtx (s : State) (c : Nat) (f : Ctx → Ctx) : State := putCtx s c (f (getCtx s c))

/-- The core of an id. -/
def getCore (s : State) (c : Nat) : CoreSt := (s.cores.get? c).getD CoreSt.reset

/-- The state with one core replaced. -/
def putCore (s : State) (c : Nat) (x : CoreSt) : State := { s with cores := s.cores.put c x }

/-- The state with one core changed. -/
def modCore (s : State) (c : Nat) (f : CoreSt → CoreSt) : State := putCore s c (f (getCore s c))

/-- The cluster of a number. -/
def getCluster (s : State) (c : Nat) : ClusterSt := (s.clusters.get? c).getD ClusterSt.reset

/-- The state with one cluster replaced. -/
def putCluster (s : State) (c : Nat) (x : ClusterSt) : State := { s with clusters := s.clusters.put c x }

/-- The state with one cluster changed. -/
def modCluster (s : State) (c : Nat) (f : ClusterSt → ClusterSt) : State := putCluster s c (f (getCluster s c))

/-- The die of a number. -/
def getDie (s : State) (d : Nat) : DieSt := (s.dies.get? d).getD DieSt.reset

/-- The state with one die replaced. -/
def putDie (s : State) (d : Nat) (x : DieSt) : State := { s with dies := s.dies.put d x }

/-- The state with one die changed. -/
def modDie (s : State) (d : Nat) (f : DieSt → DieSt) : State := putDie s d (f (getDie s d))

/-- The memory channel of a number. -/
def getChan (s : State) (n : Nat) : ChanSt := (s.chans.get? n).getD ChanSt.reset

/-- The state with one channel replaced. -/
def putChan (s : State) (n : Nat) (x : ChanSt) : State := { s with chans := s.chans.put n x }

/-- The state with one channel changed. -/
def modChan (s : State) (n : Nat) (f : ChanSt → ChanSt) : State := putChan s n (f (getChan s n))

/-- The partition of an id, if it exists. -/
def getPart? (s : State) (p : Nat) : Option PartSt := s.parts.get? p

/-- The state with one partition replaced. -/
def putPart (s : State) (p : Nat) (x : PartSt) : State := { s with parts := s.parts.put p x }

/-- The state with one partition changed, if it exists. -/
def modPart (s : State) (p : Nat) (f : PartSt → PartSt) : State :=
  match getPart? s p with
  | some x => putPart s p (f x)
  | none => s

/-- The state with an event made due (an event never happens before it is taken as a turn). -/
def post (s : State) (i : Instr) (ns : List Nat) : State :=
  { s with agenda := s.agenda ++ [(i, EvArg.of ns)] }

/-- The next number for an operation, record, order or request, and the state after it is taken. -/
def fresh (s : State) : Nat × State := (s.nextId, { s with nextId := s.nextId + 1 })

/-- The key of the first memory-core context. Log 81 (DEDUCED). -/
def memBase : Nat := 65536

/-- Whether a context key names a memory-core context. -/
def isMem (c : Nat) : Bool := memBase ≤ c

/-- The core id of a compute context (R10). -/
def coreOf (c : Nat) : Nat := c / 4

/-- The memory channel, die × 32 + N, of a memory-core context (R303). -/
def mcoreOf (c : Nat) : Nat := (c - memBase) / 16

/-- The die of a context. -/
def dieOf (c : Nat) : Nat := if isMem c then mcoreOf c / 32 else c / 8192

/-- The die of a core. -/
def dieOfCore (core : Nat) : Nat := core / 2048

/-- The cluster, die × 256 + number, of a core. -/
def clusterOfCore (core : Nat) : Nat := core / 8

/-- The cluster of a compute context. -/
def clusterOf (c : Nat) : Nat := clusterOfCore (coreOf c)

/-- The contexts of a core. -/
def ctxsOf (core : Nat) : List Nat := [core * 4, core * 4 + 1, core * 4 + 2, core * 4 + 3]

/-- The cores of a cluster. -/
def coresOf (cl : Nat) : List Nat := (List.range 8).map (cl * 8 + ·)

/-- The party index of a context in its cluster (R325). -/
def partyOf (c : Nat) : Nat := coreOf c % 8 * 7 + c % 4

/-- The party index of an engine: 0 matrix, 1 vector, 2 copy (R325). -/
def engParty (core eng : Nat) : Nat := core % 8 * 7 + 4 + eng

/-- The partition of a context: that of its cluster, or of the order a memory-core context serves. -/
def partOf (s : State) (c : Nat) : Option Nat :=
  if isMem c then ((getCtx s c).serving.map Serving.part)
  else (getCluster s (clusterOf c)).part

/-- First address of a core's local memory in the one memory of the model. Log 104 (DESIGN CHOICE). -/
def localBase (core : Nat) : Nat := 2 ^ 40 + core * 2 ^ 18

/-- First address of a cluster's memory. Log 104 (DESIGN CHOICE). -/
def clusterBase (cl : Nat) : Nat := 2 ^ 41 + cl * 2 ^ 20

/-- First address of a core's weight-stack slice. Log 104 (DESIGN CHOICE). -/
def wstackBase (core : Nat) : Nat := 2 ^ 42 + core * 2 ^ 18

/-- First address of a memory-core context's staging window. Log 104 (DESIGN CHOICE). -/
def stagingBase (c : Nat) : Nat := 2 ^ 43 + (c - memBase) * 2 ^ 14

/-- First address of a memory-core context's record copy (R303). Log 104 (DESIGN CHOICE). -/
def recCopyBase (c : Nat) : Nat := 2 ^ 44 + (c - memBase) * 64

/-- Host address 0. Log 104 (DESIGN CHOICE). -/
def hostBase : Nat := 2 ^ 52

/-- What an unlisted byte of memory reads as: every storage byte is zeroed at power-on (R460). Log 2 (DEDUCED). -/
def memDefault : Byte := 0

/-- The byte at an address. -/
def memGet : Memory → Nat → Byte
  | [], _ => memDefault
  | (a, b) :: t, n => if a = n then b else memGet t n

/-- The memory with one byte listed, in its place. -/
def memPut : Memory → Nat → Byte → Memory
  | [], n, x => [(n, x)]
  | (a, b) :: t, n, x =>
    if a = n then (n, x) :: t
    else if n < a then (n, x) :: (a, b) :: t
    else (a, b) :: memPut t n x

/-- The memory with one byte written, in canonical form. Log 104 (DESIGN CHOICE). -/
def memSet (m : Memory) (n : Nat) (x : Byte) : Memory := if x = memDefault then m.filter (fun p => p.1 != n) else memPut m n x

/-- The canonical form after an address: addresses strictly rising above `lo`, no entry equal to the default. -/
def memWfFrom : Nat → Memory → Bool
  | _, [] => true
  | lo, (a, b) :: t => decide (lo ≤ a) && (b != memDefault) && memWfFrom (a + 1) t

/-- The canonical form of memory. Log 104 (DESIGN CHOICE). -/
def Memory.wf (m : Memory) : Bool := memWfFrom 0 m

/-- The bytes at `a` and above. -/
def memRead (m : Memory) (a : Nat) : Nat → List Byte
  | 0 => []
  | n + 1 => memGet m a :: memRead m (a + 1) n

/-- The memory with bytes written from `a` upward. -/
def memWrite (m : Memory) (a : Nat) : List Byte → Memory
  | [] => m
  | b :: t => memWrite (memSet m a b) (a + 1) t

/-- The memory with `n` bytes from `a` zeroed. -/
def memZero (m : Memory) (a n : Nat) : Memory := m.filter (fun p => p.1 < a || a + n ≤ p.1)

/-- A little-endian number of `n` bytes at an address. -/
def memNat (m : Memory) (a n : Nat) : Nat := leNat (memRead m a n)

/-- The state with bytes written to memory, seen by no coherence list (far memory, staging, host). -/
def rawWrite (s : State) (a : Nat) (bs : List Byte) : State := { s with mem := memWrite s.mem a bs }

/-- The state with the words that lie whole in `n` bytes from `a` no longer poisoned: they have been written (R426). -/
def clearWords (s : State) (a n : Nat) : State :=
  { s with poison := s.poison.filter (fun w => !(a ≤ w * 8 && w * 8 + 8 ≤ a + n)) }

/-- A number as a register value. -/
def w64 (n : Nat) : Word := BitVec.ofNat 64 n

/-- The unsigned reading of a number of `n` bits. -/
def lowBits (x n : Nat) : Nat := x % 2 ^ n

/-- The signed reading of the low `n` bits of a number. -/
def signedBits (x n : Nat) : Int :=
  let u := x % 2 ^ n
  if u < 2 ^ (n - 1) then u else (u : Int) - 2 ^ n

/-- An integer as the low `n` bits of two's complement. -/
def wrapInt (x : Int) (n : Nat) : Nat := (x % (2 ^ n : Nat)).toNat

/-- An integer as a 64-bit register value. -/
def wInt (x : Int) : Word := BitVec.ofNat 64 (wrapInt x 64)

/-- Bits `lo` to `lo + len - 1` of a register value as a number. -/
def wBits (x : Word) (lo len : Nat) : Nat := bitsAt x.toNat lo len

/-- A number with bits `lo` to `lo + len - 1` replaced. -/
def putBits (x lo len v : Nat) : Nat :=
  x % 2 ^ lo + v % 2 ^ len * 2 ^ lo + x / 2 ^ (lo + len) * 2 ^ (lo + len)

/-- The number of ones of a number's low `n` bits. -/
def popCount : Nat → Nat → Nat
  | 0, _ => 0
  | n + 1, x => x % 2 + popCount n (x / 2)

/-- A far virtual address of 48 bits. -/
def pc48 (n : Nat) : BitVec 48 := BitVec.ofNat 48 n

end Sys2Proof.Machine
end

