-- ==== Sys2Proof/Machine/Near.lean ====
section
/-! DEFINITION. Near memory: the near address spaces (R33, R303), the checks of R34, line bits (R327), store queues,
coherence lists, views and their transfers (R324 to R333). -/

namespace Sys2Proof.Machine

/-- The causes of R362. -/
def cILLEGAL : Nat := 0x01
def cPRIVILEGE : Nat := 0x02
def cADDRESS : Nat := 0x03
def cALIGN : Nat := 0x04
def cREADONLY : Nat := 0x05
def cFAR_TRANSLATE : Nat := 0x06
def cFAR_PERMISSION : Nat := 0x07
def cCONFLICT : Nat := 0x08
def cPORT_DEADLOCK : Nat := 0x09
def cPEER_LOST : Nat := 0x0A
def cBAR_OVER : Nat := 0x0B
def cTOK_OVERFLOW : Nat := 0x0C
def cBUDGET : Nat := 0x0D
def cFP : Nat := 0x0E
def cTIDX_RANGE : Nat := 0x0F
def cFLOCK : Nat := 0x10
def cUNCORRECTABLE : Nat := 0x11
def cSOFTWARE : Nat := 0x12
def cBREAK : Nat := 0x13
def cRING : Nat := 0x14
def cENGINE : Nat := 0x15
def cCONFINE : Nat := 0x16
def cMETER : Nat := 0x17
def cTRANSL_OUTPUT : Nat := 0x18
def cDOUBLE : Nat := 0x20
def cREPLAY_MISMATCH : Nat := 0x21
def cTAINT : Nat := 0x22

/-- A cause found at an instruction: the code, the record's address field and whether it is far, its two cause-specific
words, and OPC for an attributed fault (R361, R363). Log 16 (DEDUCED). -/
structure Trap where
  cause : Nat
  addr : Nat
  far : Bool
  spec0 : Nat
  spec1 : Nat
  opc : Option Nat
  deriving DecidableEq, Repr

/-- A trap that names a near address and nothing else. -/
def Trap.at (cause addr : Nat) : Trap := ⟨cause, addr, false, 0, 0, none⟩

/-- How an instruction's check or effect ends: done, trapped, or waiting (R88) with the
state in which the wait goes on (a place in a list of waiters, a request under way). -/
inductive Res (α : Type) where
  | ok (x : α)
  | trap (t : Trap)
  | wait (s : State)

/-- Continue with the value of a result. -/
def Res.bind {α β : Type} (r : Res α) (f : α → Res β) : Res β :=
  match r with
  | .ok x => f x
  | .trap t => .trap t
  | .wait s => .wait s

/-- A result whose wait goes on in a changed state. -/
def Res.onWait {α : Type} (r : Res α) (f : State → State) : Res α :=
  match r with
  | .wait s => .wait (f s)
  | r => r

/-- ILLEGAL with reason 11, an operand check; the word at SPEC0 is filled in at the instruction (R86). -/
def illegal11 : Trap := ⟨cILLEGAL, 0, false, 0, 11, none⟩

/-- Continue when a check holds, else trap. -/
def ensure {α : Type} (b : Bool) (t : Trap) (k : Res α) : Res α := if b then k else .trap t

/-- The part of a near address space a byte lies in (R33, R303). -/
inductive Area where
  | own (off : Nat)
  | cluster (off : Nat)
  | wstack (off : Nat)
  | sibling (k off : Nat)
  | objects (off : Nat)
  | staging (off : Nat)
  | record (off : Nat)
  | unmapped
  deriving DecidableEq, Repr

/-- The area of a near address of a compute core (R33); the window of the core's own index is its own local memory. -/
def areaOf (core a : Nat) : Area :=
  if a < 0x30000 then .own a
  else if 0x100000 ≤ a && a < 0x200000 then .cluster (a - 0x100000)
  else if 0x200000 ≤ a && a < 0x230000 then .wstack (a - 0x200000)
  else if 0x1000000 ≤ a && a < 0x1200000 then
    let k := (a - 0x1000000) / 0x40000
    let o := (a - 0x1000000) % 0x40000
    if 0x30000 ≤ o then .unmapped else if k = core % 8 then .own o else .sibling k o
  else if 0xF000000 ≤ a && a < 0xF001000 then .objects (a - 0xF000000)
  else .unmapped

/-- The area of a near address of a memory-core context (R303). -/
def memAreaOf (a : Nat) : Area :=
  if a < 0x4000 then .staging a
  else if 0x10000 ≤ a && a < 0x10040 then .record (a - 0x10000)
  else .unmapped

/-- The area of a near address of a context. -/
def areaFor (c a : Nat) : Area := if isMem c then memAreaOf a else areaOf (coreOf c) a

/-- Base of the window in LWIN (R28). -/
def winBase (x : Ctx) : Nat := wBits x.lwin 0 18

/-- Length of the window in LWIN (R28). -/
def winLen (x : Ctx) : Nat := wBits x.lwin 32 18

/-- Whether an offset of own local memory lies inside the window. -/
def inWindow (x : Ctx) (off : Nat) : Bool := winBase x ≤ off && off < winBase x + winLen x

/-- The address in the one memory of a mapped near byte; none in the objects page and where nothing is mapped. -/
def physOf (c a : Nat) : Option Nat :=
  match areaFor c a with
  | .own o => some (localBase (coreOf c) + o)
  | .cluster o => some (clusterBase (clusterOf c) + o)
  | .wstack o => some (wstackBase (coreOf c) + o)
  | .sibling k o => some (localBase (clusterOf c * 8 + k) + o)
  | .staging o => some (stagingBase c + o)
  | .record o => some (recCopyBase c + o)
  | .objects _ => none
  | .unmapped => none

/-- The address of a near byte where one is mapped, else 0 (used after the checks of R34 have passed). -/
def phys (c a : Nat) : Nat := (physOf c a).getD 0

/-- The privilege field of a status (R30). -/
def privOf (x : Ctx) : Nat := wBits x.st 0 2

/-- Whether a core is sealed or retired for its peers (R254, R398, R434). -/
def coreSealed (s : State) (core : Nat) : Bool :=
  let k := getCore s core
  k.sealed || k.fold != .service || k.errScan

/-- What a near access does, for the checks: a load, a store, an atomic. -/
inductive Acc where
  | load | store | atomic
  deriving DecidableEq, Repr

/-- Whether an access writes, for the conflict check: an atomic counts as a store (R327). -/
def Acc.writes : Acc → Bool
  | .load => false | .store => true | .atomic => true

/-- Whether a byte of an access is mapped for a context, R34 step 1 with the objects page's rule (R118) and the record
copy's (R303): ld.w and ld.d only. -/
def byteOk (x : Ctx) (c a size : Nat) (k : Acc) : Bool :=
  match areaFor c a with
  | .own o => inWindow x o
  | .cluster _ => true
  | .wstack _ => true
  | .sibling _ _ => true
  | .staging _ => true
  | .record _ => k == .load && (size == 4 || size == 8)
  | .objects _ => k == .load && (size == 4 || size == 8)
  | .unmapped => false

/-- R34 step 1 over every byte of an access. -/
def mappedOk (x : Ctx) (c ea size : Nat) (k : Acc) : Bool :=
  decide (ea < 2 ^ 32) && (List.range size).all (fun i => byteOk x c (ea + i) size k)

/-- Whether an engine command reads the weight-stack slice of its core (R304): a block load or a matrix product that streams from it, or
a command some range of which lies there. -/
def cmdReadsSlice (e : EngCmd) : Bool :=
  e.op == 0 || e.op == 2 || e.slice

/-- The fields of a record's words. -/
def rLen (w : List Nat) : Nat := bitsAt (w.getD 3 0) 0 32
def rN1 (w : List Nat) : Nat := bitsAt (w.getD 3 0) 32 16
def rN2 (w : List Nat) : Nat := bitsAt (w.getD 3 0) 48 16
def rTv (w : List Nat) : Bool := bitAt (w.getD 0 0) 56
def rEnd (w : List Nat) : Bool := bitAt (w.getD 0 0) 52

/-- The runs of a record (R218): source, destination and bytes of each, in order. -/
def runsOf (w : List Nat) : List (Nat × Nat × Nat) :=
  let a := w.getD 1 0
  let b := w.getD 2 0
  match bitsAt (w.getD 0 0) 60 3 with
  | 1 => (List.range (rN2 w)).flatMap (fun i2 => (List.range (rN1 w)).map (fun i1 =>
      (a + i1 * bitsAt (w.getD 4 0) 0 32 + i2 * bitsAt (w.getD 4 0) 32 32,
       b + i1 * bitsAt (w.getD 5 0) 0 32 + i2 * bitsAt (w.getD 5 0) 32 32, rLen w)))
  | 3 => [(a, b, 8)]
  | _ => [(a, b, rLen w)]

/-- Whether a running record reads the slice: some run of its near source lies there (R304). -/
def recReadsSlice (r : RunRec) : Bool :=
  !(bitAt (r.words.getD 0 0) 51) && (runsOf r.words).any (fun x => x.1 < 0x230000 && 0x200000 < x.1 + x.2.2)

/-- Whether the record a chain runs, or had begun when it was saved (R375), reads the slice. -/
def chainReadsSlice (r : ChainRun) : Bool := match r.running with | some q => recReadsSlice q | none => false

/-- Whether a core's slice is open (R304). -/
def sliceOpen (s : State) (core : Nat) : Bool :=
  (ctxsOf core).all (fun c =>
    let x := getCtx s c
    x.mode == .free || 1 ≤ privOf x) &&
  (let k := getCore s core
   !((k.mat ++ k.vec).any cmdReadsSlice) &&
   !(k.chans.toList.any (fun o => match o with
      | some r => chainReadsSlice r
      | none => false)) &&
   !(k.held.any (fun q => chainReadsSlice q.2)))

/-- Whether an access touches the weight-stack slice. -/
def inSlice (c ea : Nat) : Bool :=
  match areaFor c ea with
  | .wstack _ => true
  | _ => false

/-- The line of an address of the one memory (R324); only local and cluster memory have lines with bits (R325). -/
def lineOf (p : Nat) : Option Nat := if 2 ^ 40 ≤ p && p < 2 ^ 42 then some (p / 128) else none

/-- The marks of other parties on a line that conflict with an access (R327), `self` the accessing party's index. -/
def conflicting (marks : List Mark) (line self : Nat) (writes : Bool) : List Mark :=
  marks.filter (fun m => m.line == line && m.party != self && (writes || m.write))

/-- The conflict of an access with a line, as a trap that names the lowest party (R328). -/
def conflictTrap (ms : List Mark) (ea : Nat) (writes : Bool) : Option Trap :=
  match (ms.map Mark.party).min? with
  | none => none
  | some p =>
    let w := ms.any (fun m => m.party == p && m.write)
    some ⟨cCONFLICT, ea, false, p + 64 * bit w + 128 * bit writes, ea / 128 * 128, none⟩

/-- R34 step 4 for an access of a context within one line. -/
def conflictAt (s : State) (c ea : Nat) (writes : Bool) : Option Trap :=
  match physOf c ea with
  | none => none
  | some p =>
    match lineOf p with
    | none => none
    | some l => conflictTrap (conflicting s.marks l (partyOf c) writes) ea writes

/-- Whether a sibling window of a sealed core is touched (R434): the core's id. Log 31 (DEDUCED). -/
def lostPeer (s : State) (c ea : Nat) : Option Nat :=
  match areaFor c ea with
  | .sibling k _ => let core := clusterOf c * 8 + k; if coreSealed s core then some core else none
  | _ => none

/-- R34 steps 1 to 3 for a near access, with PEER_LOST of R434 after them. Log 31 (DEDUCED). -/
def check123 (s : State) (c ea size : Nat) (k : Acc) : Option Trap :=
  let x := getCtx s c
  if !mappedOk x c ea size k then some (Trap.at cADDRESS ea)
  else if ea % size ≠ 0 then some (Trap.at cALIGN ea)
  else if k.writes && inSlice c ea && (privOf x == 0 || !sliceOpen s (coreOf c)) then some (Trap.at cREADONLY ea)
  else
    match lostPeer s c ea with
    | some core => some ⟨cPEER_LOST, ea, false, core, 0, none⟩
    | none => none

/-- R34 in its order for a near access that lies within one line. Log 31 (DEDUCED). -/
def checkNear (s : State) (c ea size : Nat) (k : Acc) : Option Trap :=
  match check123 s c ea size k with
  | some t => some t
  | none => if isMem c then none else conflictAt s c ea k.writes

/-- The state with a line bit set for a context, unless it is already set (R327). -/
def setBit (s : State) (c ea : Nat) (write : Bool) : State :=
  match physOf c ea with
  | none => s
  | some p =>
    match lineOf p with
    | none => s
    | some l =>
      let m : Mark := ⟨l, partyOf c, write, 0, c, 0⟩
      if s.marks.contains m then s else { s with marks := m :: s.marks }

/-- The later of two views, byte by byte (R331). -/
def mergeView (v w : View) : View :=
  w.foldl (fun acc p => if (acc.get? p.1).getD 0 < p.2 then acc.put p.1 p.2 else acc) v

/-- A view with bytes moved to a store number. -/
def moveView (v : View) (a n stamp : Nat) : View :=
  (List.range n).foldl (fun acc i => acc.put (a + i) stamp) v

/-- Whether a scope of one core includes another core (R120): core scope the core itself, any wider scope its cluster.
Port words use the wider scopes (R126). -/
def scopeHas (scope core other : Nat) : Bool :=
  if scope = 0 then core == other
  else if scope = 1 then clusterOfCore core == clusterOfCore other
  else if scope = 2 then dieOfCore core == dieOfCore other
  else true

/-- The past bytes a store leaves. -/
def pastOf (m : Memory) (a stamp : Nat) (bs : List Byte) : List Past :=
  (List.range bs.length).map (fun i => ⟨a + i, memGet m (a + i), stamp⟩)

/-- Bytes join the coherence lists (R329); words written whole are no longer poisoned (R426). -/
def listBytes (s : State) (a : Nat) (bs : List Byte) : State :=
  let st := s.stamp + 1
  { s with
    past := pastOf s.mem a st bs ++ s.past
    mem := memWrite s.mem a bs
    stamp := st
    poison := s.poison.filter (fun w => !(a ≤ w * 8 && w * 8 + 8 ≤ a + bs.length)) }

/-- The parts of a releasing store that a store number `st` to `n` bytes at `a` leaves standing, and the part it writes over. -/
def overOne (st a n : Nat) (r : Released) : List Released :=
  let lo := max r.addr a
  let hi := min (r.addr + r.len) (a + n)
  if r.overAt.isSome || hi ≤ lo then [r]
  else [{ r with len := lo - r.addr }, { r with addr := lo, len := hi - lo, overAt := some st },
    { r with addr := hi, len := r.addr + r.len - hi }].filter (fun q => q.len != 0)

/-- The releasing stores after a store that is no part of a chain of atomics (R331). -/
def overReleased (rs : List Released) (st a n : Nat) : List Released := rs.flatMap (overOne st a n)

/-- A store into near memory performs (R329): its bytes join the coherence lists and no release stands at them any more.
Log 46 (DEDUCED). -/
def performBytes (s : State) (a : Nat) (bs : List Byte) : State :=
  let s1 := listBytes s a bs
  { s1 with released := overReleased s.released s1.stamp a bs.length }

/-- What a performing store of a context carries (R331): the context's view, its own earlier stores and itself among it, at each scope
that it names itself or that a fence before it named. Log 121 (DEDUCED). -/
def carriesOf (scopes fence : List Carried) (v : View) : List Carried := (scopes ++ fence).map (fun k => { k with view := v })

/-- The releasing stores that a performed store adds. -/
def releasesOf (a n st : Nat) (ks : List Carried) : List Released := ks.map (fun k => ⟨a, n, k, st, none⟩)

/-- The fences that later stores carry once another has been laid down (R329): it takes the place of those of scopes no wider. -/
def addFence (ks : List Carried) (k : Carried) : List Carried := k :: ks.filter (fun f => k.scope < f.scope)

/-- The oldest store of a context's queue performs (R329). An entry with no bytes is a fence with order rel, which from
then on is what later stores carry. Log 117 (DEDUCED). -/
def performHead (s : State) (c : Nat) : State :=
  let x := getCtx s c
  match x.stq with
  | [] => s
  | e :: rest =>
    if e.bytes.isEmpty then putCtx s c { x with stq := rest, fence := e.carry.foldl addFence x.fence }
    else
      let n := e.bytes.length
      let s1 := performBytes s e.addr e.bytes
      let v := moveView x.view e.addr n s1.stamp
      let ks := carriesOf e.carry x.fence v
      putCtx { s1 with released := s1.released ++ releasesOf e.addr n s1.stamp ks } c { x with stq := rest, view := v }

/-- Every store of a context's queue performs, in order; `n` bounds the queue's length. -/
def drainN : Nat → State → Nat → State
  | 0, s, _ => s
  | n + 1, s, c => if (getCtx s c).stq.isEmpty then s else drainN n (performHead s c) c

/-- Every earlier store of a context performs (R329). Log 117 (DEDUCED). -/
def drain (s : State) (c : Nat) : State := drainN (getCtx s c).stq.length s c

/-- How many entries of a queue stand up to and including the last with a property. -/
def depthTo (p : StoreEnt → Bool) (q : List StoreEnt) : Nat := q.length - (q.reverse.takeWhile (fun e => !p e)).length

/-- The stores of a context perform up to and including the last with a property. -/
def drainTo (p : StoreEnt → Bool) (s : State) (c : Nat) : State := drainN (depthTo p (getCtx s c).stq) s c

/-- Whether an address of the one memory lies in cluster memory. -/
def inClusterMem (a : Nat) : Bool := 2 ^ 41 ≤ a && a < 2 ^ 42

/-- Every earlier store of a context to cluster memory performs, with those before it (R117, R329). -/
def drainCluster (s : State) (c : Nat) : State := drainTo (fun e => inClusterMem e.addr) s c

/-- The byte at an address as it stood at a position of the coherence lists (R330). Log 45 (DESIGN CHOICE). -/
def byteAtCut (s : State) (a cut : Nat) : Byte :=
  match (s.past.filter (fun p => p.addr == a && cut < p.stamp)).getLast? with
  | some p => p.old
  | none => memGet s.mem a

/-- The newest bytes a context's own queue holds for an address (R116). -/
def ownByte (q : List StoreEnt) (a : Nat) : Option Byte :=
  match (q.filter (fun e => e.addr ≤ a && a < e.addr + e.bytes.length)).getLast? with
  | some e => e.bytes[a - e.addr]?
  | none => none

/-- The position a plain load of a context reads at (R330): the newest store less what the next choice says, and never
before the context's view of any of the bytes. Log 45 (DESIGN CHOICE). -/
def loadCut (s : State) (c a n : Nat) : Nat :=
  let back := s.choices.headD 0
  let low := (List.range n).foldl (fun m i => max m (((getCtx s c).view.get? (a + i)).getD 0)) 0
  max (s.stamp - back) low

/-- The bytes a plain load of near memory returns (R330): own stores first, else the chosen position. -/
def plainBytes (s : State) (c a n : Nat) : List Byte :=
  let cut := loadCut s c a n
  (List.range n).map (fun i => (ownByte (getCtx s c).stq (a + i)).getD (byteAtCut s (a + i) cut))

/-- The state after a plain load has used its choice. Log 45 (DESIGN CHOICE). -/
def useChoice (s : State) : State := { s with choices := s.choices.tail }

/-- Whether a load of a context that reads the coherence lists at a position reads a releasing store, or what a chain of atomics wrote
over it: it stands there, at a byte that the context's own queue does not supply (R330, R331). -/
def readsRelease (q : List StoreEnt) (a n cut : Nat) (r : Released) : Bool :=
  r.stamp ≤ cut && (match r.overAt with | some o => decide (cut < o) | none => true) &&
    (List.range n).any (fun i => r.addr ≤ a + i && a + i < r.addr + r.len && (ownByte q (a + i)).isNone)

/-- What releases a plain load reads at its position, kept for a later fence (R331). Log 45 (DESIGN CHOICE). -/
def notePlainAcq (s : State) (c a n : Nat) : State :=
  let rs := s.released.filter (readsRelease (getCtx s c).stq a n (loadCut s c a n))
  if rs.isEmpty then s else modCtx s c (fun x => { x with acqPend := rs.map Released.carry ++ x.acqPend })

/-- The views of the releases standing at an address, merged into a context by an acquire of a scope (R121, R331). -/
def acquireAt (s : State) (c a n scope : Nat) : State :=
  let me := coreOf c
  let rs := s.released.filter (fun r => readsRelease (getCtx s c).stq a n s.stamp r &&
    scopeHas r.carry.scope r.carry.core me && scopeHas scope me r.carry.core)
  modCtx s c (fun x => { x with view := rs.foldl (fun v r => mergeView v r.carry.view) x.view })

/-- The word of the objects page at an offset: object words read as a snapshot (R118). -/
def objByte (s : State) (cl off : Nat) : Byte :=
  match (getCluster s cl).objs.get? (off / 64) with
  | none => 0
  | some o => BitVec.ofNat 8 (o.words.getD (off % 64 / 8) 0 / 2 ^ (8 * (off % 8)) % 256)

/-- A context's region ends (R326, R327): its own line bits clear and a new region begins. -/
def endRegion (s : State) (c : Nat) : State :=
  modCtx { s with marks := s.marks.filter (fun m => !(m.op == 0 && m.ctx == c)) } c
    (fun x => { x with region := x.region + 1 })

/-- The bytes of a plain near load after its checks, and the state after it: the line bit is set, a choice is used. Log 46 (DEDUCED). -/
def nearLoad (s : State) (c ea n : Nat) : List Byte × State :=
  match areaFor c ea with
  | .objects o => ((List.range n).map (fun i => objByte s (clusterOf c) (o + i)), s)
  | .staging _ => (memRead s.mem (phys c ea) n, s)
  | .record _ => (memRead s.mem (phys c ea) n, s)
  | .cluster _ =>
    let s1 := drainCluster s c
    let a := phys c ea
    (plainBytes s1 c a n, setBit (useChoice (notePlainAcq s1 c a n)) c ea false)
  | _ =>
    let a := phys c ea
    (plainBytes s c a n, setBit (useChoice (notePlainAcq s c a n)) c ea false)

/-- A plain near store after its checks: it enters the store queue and its line bit is set (R329). Staging has no other party and is
written at once. A store to the slice performs at once, with those before it, while the slice is open (R304). Log 46 (DEDUCED). -/
def nearStore (s : State) (c ea : Nat) (bs : List Byte) : State :=
  let queued (s : State) := modCtx s c (fun x => { x with stq := x.stq ++ [⟨phys c ea, bs, []⟩] })
  match areaFor c ea with
  | .staging _ => clearWords (rawWrite s (phys c ea) bs) (phys c ea) bs.length
  | .record _ => s
  | .objects _ => s
  | .unmapped => s
  | .wstack _ => drain (queued s) c
  | _ => post (setBit (queued s) c ea true) .storePerform [c]

/-- The newest bytes of near memory (a marked load, or the read step of an atomic): the context's queue has performed
for these bytes. -/
def newestBytes (s : State) (a n : Nat) : List Byte := memRead s.mem a n

/-- The address a plain near store of a context writes to: that of the near byte. -/
def storeAddr (c ea : Nat) : Nat := phys c ea

/-- The byte a context reads at an address of the one memory: its own queued store, else the newest. -/
def seenByte (s : State) (c a : Nat) : Byte := (ownByte (getCtx s c).stq a).getD (memGet s.mem a)

/-- Whether a word read is poisoned (R426): some 8-byte word of the range. -/
def poisonedIn (s : State) (a n : Nat) : Option Nat :=
  s.poison.find? (fun w => w * 8 < a + n && a < w * 8 + 8)

end Sys2Proof.Machine
end

