-- ==== Sys2Proof/Machine/Far.lean ====
section
/-! DEFINITION. Far addresses: the walk of R313, the translation caches of R314, channels of R310, and instruction
fetch through its caches (R316, R317). -/

namespace Sys2Proof.Machine

/-- The kinds of a far access (R313): read, write, fetch, and an atomic, which is both a read and a write. -/
inductive Kind where
  | read | write | fetch | atomic
  deriving DecidableEq, Repr

/-- The fields of a page-table entry (R312). -/
def pteV (e : Nat) : Bool := bitAt e 0
def pteLeaf (e : Nat) : Bool := bitAt e 1
def pteW (e : Nat) : Bool := bitAt e 2
def pteX (e : Nat) : Bool := bitAt e 3
def pteR (e : Nat) : Bool := bitAt e 4
def pteHost (e : Nat) : Bool := bitAt e 5
def pteC64 (e : Nat) : Bool := bitAt e 6
def pteAddr (e : Nat) : Nat := bitsAt e 12 39 * 4096

/-- Whether an entry may stand at a level (R312, R313): valid, its zero fields zero, LEAF as the level allows, HOST only
on a leaf without X, C64 only at level 0, and a device address within 39 bits. Log 33 (DEDUCED). -/
def pteOk (e lvl : Nat) : Bool :=
  pteV e && bitsAt e 51 13 == 0 && bitsAt e 9 3 == 0 &&
  !(lvl == 3 && pteLeaf e) && !(lvl == 0 && !pteLeaf e) &&
  !(pteHost e && (!pteLeaf e || pteX e)) && !(lvl != 0 && pteC64 e) &&
  (pteHost e || bitsAt e 39 12 == 0)

/-- The walk below a table at a level (R313): the level, the address and the value of the leaf entry. Log 33 (DEDUCED). -/
def walkFrom (m : Memory) (va : Nat) : Nat → Nat → Option (Nat × Nat × Nat)
  | 0, t =>
    let a := t + 8 * bitsAt va 12 9
    let e := memNat m a 8
    if pteOk e 0 then some (0, a, e) else none
  | l + 1, t =>
    let a := t + 8 * bitsAt va (12 + 9 * (l + 1)) 9
    let e := memNat m a 8
    if !pteOk e (l + 1) then none
    else if pteLeaf e then some (l + 1, a, e)
    else walkFrom m va l (pteAddr e)

/-- The addresses of the entries that a walk below a table reads (R313). -/
def walkReads (m : Memory) (va : Nat) : Nat → Nat → List Nat
  | 0, t => [t + 8 * bitsAt va 12 9]
  | l + 1, t =>
    let a := t + 8 * bitsAt va (12 + 9 * (l + 1)) 9
    let e := memNat m a 8
    a :: (if !pteOk e (l + 1) || pteLeaf e then [] else walkReads m va l (pteAddr e))

/-- The first poisoned entry that a walk from a root table reads (R426). Log 52 (DEDUCED). -/
def walkPoison (s : State) (va root : Nat) : Option Nat :=
  (walkReads s.mem va 3 root).find? (fun a => (poisonedIn s a 8).isSome)

/-- The size of the page a leaf maps (R313). -/
def pageSize (lvl e : Nat) : Nat :=
  if lvl = 2 then 2 ^ 30 else if lvl = 1 then 2 ^ 21 else if pteC64 e then 2 ^ 16 else 2 ^ 12

/-- Whether the permissions allow a kind of access (R313). Log 34 (DEDUCED). -/
def kindOk (r w x : Bool) : Kind → Bool
  | .read => r | .write => w | .fetch => x | .atomic => r && w

/-- Whether a kind of access writes. -/
def kindWrites : Kind → Bool
  | .write => true | .atomic => true | _ => false

/-- The root table of a PID of a partition (R312). -/
def rootTable (s : State) (part pid : Nat) : Option Nat :=
  match getPart? s part with
  | none => none
  | some p => (p.cfg.pids.find? (fun q => q.1 == pid)).map Prod.snd

/-- A translation: device or host address, and the entry to cache. -/
structure Xlat where
  pa : Nat
  host : Bool
  ent : TlbEnt
  pte : Nat
  deriving DecidableEq, Repr

/-- The translation that a walk of the tables gives, before permissions (R313); the cause of a failure otherwise, that of a poisoned
entry before any other (R426). Log 52 (DEDUCED). -/
def walkVa (s : State) (part pid va : Nat) : Except Nat Xlat :=
  match rootTable s part pid with
  | none => .error cFAR_TRANSLATE
  | some root =>
    match walkPoison s va root, walkFrom s.mem va 3 root with
    | some _, _ => .error cUNCORRECTABLE
    | none, none => .error cFAR_TRANSLATE
    | none, some (lvl, a, e) =>
      let size := pageSize lvl e
      if pteAddr e % size ≠ 0 && size ≠ 4096 then .error cFAR_TRANSLATE
      else
        let base := pteAddr e / size * size
        .ok ⟨base + va % size, pteHost e,
          ⟨part, pid, va / size * size, size, base, pteHost e, pteR e, pteX e, pteW e, bitAt e 7⟩, a⟩

/-- The translation-cache entry of a die that covers an address (R314). Log 35 (DESIGN CHOICE). -/
def tlbHit (s : State) (die part pid va : Nat) : Option TlbEnt :=
  (getDie s die).tlb.find? (fun e => e.part == part && e.pid == pid && e.va == va / e.size * e.size)

/-- An entry with A set, and D if the access writes (R313). -/
def markPte (s : State) (a : Nat) (write : Bool) : State :=
  let e := memNat s.mem a 8
  let e1 := if bitAt e 8 then e else e + 256
  let e2 := if write && !bitAt e1 7 then e1 + 128 else e1
  rawWrite s a (leBytes 8 e2)

/-- The state with an entry added to a die's translation cache, the oldest leaving it when it is full. Log 35 (DESIGN CHOICE). -/
def tlbAdd (s : State) (die : Nat) (e : TlbEnt) : State :=
  modDie s die (fun d => { d with tlb := (e :: d.tlb.filter (fun f => f != e)).take 16384 })

/-- Translation of a far address at a die's translation stations (R313, R314): the device or host address, and the state
after the caches and the entry's A and D bits have been updated; or the cause. Log 34 (DEDUCED). -/
def translate (s : State) (die part pid va : Nat) (k : Kind) : Except Nat (State × Nat × Bool) :=
  if 2 ^ 48 ≤ va then .error cADDRESS
  else
    match tlbHit s die part pid va with
    | some e =>
      if !kindOk e.r e.w e.x k then .error cFAR_PERMISSION
      else if kindWrites k && !e.dirty then
        match walkVa s part pid va with
        | .error c => if c = cUNCORRECTABLE then .error c else .ok (s, e.pa + va % e.size, e.host)
        | .ok x => .ok (tlbAdd (markPte s x.pte true) die { x.ent with dirty := true }, e.pa + va % e.size, e.host)
      else .ok (s, e.pa + va % e.size, e.host)
    | none =>
      match walkVa s part pid va with
      | .error c => .error c
      | .ok x =>
        if !kindOk x.ent.r x.ent.w x.ent.x k then .error cFAR_PERMISSION
        else
          .ok (tlbAdd (markPte s x.pte (kindWrites k)) die { x.ent with dirty := x.ent.dirty || kindWrites k },
            x.pa, x.host)

/-- The address in the one memory of a device physical or host address. Log 104 (DESIGN CHOICE). -/
def farAddr (pa : Nat) (host : Bool) : Nat := if host then hostBase + pa else pa

/-- The memory channel, die × 32 + number, that holds a device physical address (R310). Log 82 (DEDUCED). -/
def chanOf (pa : Nat) : Nat := bitsAt pa 36 3 * 32 + bitsAt pa 12 5

/-- The channel a far line's order goes to: its channel, or for a host page the memory core that R308 names on the die
of the party. -/
def lineChan (die pa : Nat) (host : Bool) : Nat := if host then die * 32 + bitsAt pa 12 5 else chanOf pa

/-- The virtual address, or for an entry of the tables the address itself, of the poisoned word that an access to `n` bytes of one
page meets (R426). Log 52 (DEDUCED). -/
def poisonedFar (s : State) (die part pid va n : Nat) (k : Kind) : Option Nat :=
  match translate s die part pid va k with
  | .ok (_, pa, host) => (poisonedIn s (farAddr pa host) n).map (fun w => va + w * 8 - farAddr pa host)
  | .error _ => match rootTable s part pid with
    | some root => walkPoison s va root
    | none => none

/-- Bytes of one aligned piece that lies within one page; a poisoned word among them is an uncorrectable error (R426). -/
def farPiece (s : State) (die part pid va n : Nat) (k : Kind) : Except Nat (State × List Byte) :=
  match translate s die part pid va k with
  | .error c => .error c
  | .ok (s1, pa, host) =>
    if (poisonedIn s1 (farAddr pa host) n).isSome then .error cUNCORRECTABLE
    else .ok (s1, memRead s1.mem (farAddr pa host) n)

/-- The die of the context, its partition and PID, for its translations. -/
def pidOf (s : State) (c : Nat) : Nat := (getCtx s c).pid.toNat

/-- The cached line of an instruction cache. Log 35 (DESIGN CHOICE). -/
def icGet (ic : List (Nat × Nat × Nat × List Byte)) (part pid line : Nat) : Option (List Byte) :=
  (ic.find? (fun e => e.1 == part && e.2.1 == pid && e.2.2.1 == line)).map (fun e => e.2.2.2)

/-- The 64-byte line of code at a line address (R316): from the core's cache, the cluster's, or far memory, and the
state after the caches have been filled; or the cause of a failed fetch. Log 35 (DESIGN CHOICE). -/
def fetchLine (s : State) (c line : Nat) : Except Nat (State × List Byte) :=
  let part := (partOf s c).getD 0
  let pid := pidOf s c
  if isMem c then farPiece s (dieOf c) part pid line 64 .fetch
  else
    match icGet (getCore s (coreOf c)).icache part pid line with
    | some bs => .ok (s, bs)
    | none =>
      match icGet (getCluster s (clusterOf c)).icache part pid line with
      | some bs =>
        .ok (modCore s (coreOf c) (fun k => { k with icache := ((part, pid, line, bs) :: k.icache).take 512 }), bs)
      | none =>
        match farPiece s (dieOf c) part pid line 64 .fetch with
        | .error e => .error e
        | .ok (s1, bs) =>
          let s2 := modCluster s1 (clusterOf c) (fun k => { k with icache := ((part, pid, line, bs) :: k.icache).take 4096 })
          .ok (modCore s2 (coreOf c) (fun k => { k with icache := ((part, pid, line, bs) :: k.icache).take 512 }), bs)

/-- Whether a pc lies in the translator section of a root-mode context (R260). -/
def inSection (r : RootRun) (pc : Nat) : Bool := r.tbase ≤ pc && pc < r.tbase + r.tlen

/-- The instruction word at a pc (R67, R316): 4 bytes of the line that holds it; in root mode a pc outside the translator
section is CONFINE (R260). Log 34 (DEDUCED). -/
def fetchWord (s : State) (c pc : Nat) : Except Nat (State × Nat) :=
  let outside := match (getCtx s c).root with
    | some r => !inSection r pc
    | none => false
  if outside then .error cCONFINE
  else
    match fetchLine s c (pc / 64 * 64) with
    | .error e => .error e
    | .ok (s1, bs) => .ok (s1, leNat ((bs.drop (pc % 64)).take 4))

/-- A failed fetch as the trap it raises (R86, R260, R426): the pc as a far address, for an uncorrectable error the failing word. -/
def fetchTrap (s : State) (c pc e : Nat) : Trap :=
  if e = cUNCORRECTABLE then
    ⟨e, (poisonedFar s (dieOf c) ((partOf s c).getD 0) (pidOf s c) (pc / 64 * 64) 64 .fetch).getD pc, true, 5, 0, none⟩
  else ⟨e, pc, true, 0, 0, none⟩

/-- Whether a context is in root mode (R30, R85). -/
def isRoot (x : Ctx) : Bool := wBits x.st 2 1 == 1

end Sys2Proof.Machine
end

