-- ==== Sys2Proof/Machine/Drv.lean ====
section
/-! DEFINITION. What the Drover keeps for a task apart from its decisions: its entry (R294, R356), signals to counters
(R288), fault-queue entries (R368), stopping and freeing a context (R236, R367), removing a task (R290, R354), completing
one (R236, R395, R454), and the fields of a fault record (R361, R273). -/

namespace Sys2Proof.Machine

/-- The entry of a die with a tag; a job card has no tag. -/
def entByTag (s : State) (die tag : Nat) : Option Entry :=
  (getDie s die).entries.find? (fun e => e.tag == tag && e.card.isNone)

/-- The die whose Drover holds the task a compute context runs: its own die, for a replay or third run that of the task. -/
def homeDie (s : State) (c : Nat) : Nat :=
  if (getCtx s c).run = 0 then dieOf c
  else
    match s.dies.find? (fun d => d.2.entries.any (fun e => e.transit.runCtx == some c)) with
    | some d => d.1
    | none => dieOf c

/-- The entry of the task a compute context runs, or replays. -/
def entOfCtx (s : State) (c : Nat) : Option Entry :=
  (getDie s (homeDie s c)).entries.find? (fun e => e.members.contains c || e.transit.runCtx == some c)

/-- The state with one entry changed; an entry's place in the order of admission names it. -/
def modEnt (s : State) (die order : Nat) (f : Entry → Entry) : State :=
  modDie s die (fun d => { d with entries := d.entries.map (fun e => if e.order = order then f e else e) })

/-- The counter of a die. -/
def getCtr (s : State) (die n : Nat) : Counter := ((getDie s die).ctrs.get? n).getD Counter.reset

/-- The state with a counter replaced. -/
def putCtr (s : State) (die n : Nat) (k : Counter) : State :=
  modDie s die (fun d => { d with ctrs := d.ctrs.put n k })

/-- An event made due, unless it already is. Log 56 (DEDUCED). -/
def postOnce (s : State) (i : Instr) (ns : List Nat) : State :=
  if s.agenda.contains (i, EvArg.of ns) then s else post s i ns

/-- A signal on its way to a counter (R288); counter 0 is none. Log 44 (DEDUCED). -/
def signalCounter (s : State) (die n : Nat) (abt rev : Bool) (view : View) : State :=
  if n = 0 then s
  else post (modDie s die (fun d => { d with signals := d.signals ++ [⟨n, abt, rev, view⟩] })) .counterSignal [die, n]

/-- A 128-byte entry placed in a partition's fault queue of a die, or dropped and counted when 256 stand there (R368);
either way NOTIFY is signalled (R445). -/
def enqueueFault (s : State) (part die : Nat) (e : List Byte) : State :=
  match getPart? s part with
  | none => s
  | some p =>
    let q := (p.faultQ.get? die).getD []
    let s1 := if q.length < 256 then putPart s part { p with faultQ := p.faultQ.put die (q ++ [e]) }
      else putPart s part { p with lost := p.lost.put die (min (2 ^ 32 - 1) ((p.lost.get? die).getD 0 + 1)) }
    signalCounter s1 die (p.cfg.onDie die).notify false false []

/-- The lines of a running record that are forwarded and have neither committed nor arrived (R311). -/
def outstanding (r : RunRec) : Nat := r.fwd - r.done.length

/-- KIND of a record (R217). -/
def recKind (q : RunRec) : Nat := bitsAt (q.words.getD 0 0) 60 3

/-- Whether a record's source, or its destination, is far. -/
def recSfar (q : RunRec) : Bool := bitAt (q.words.getD 0 0) 51
def recDfar (q : RunRec) : Bool := bitAt (q.words.getD 0 0) 50

/-- Whether a record only writes far lines. -/
def recStores (q : RunRec) : Bool := recDfar q && recKind q != 3

/-- Whether every piece of a record that is no PROGRAM has been moved (R219). -/
def allDone (q : RunRec) : Bool :=
  recKind q != 2 && !q.lines.isEmpty &&
    (if recStores q then q.done.length == q.lines.length else q.moved == q.lines.length)

/-- Whether a suspended record has nothing more to do before a save (R371). -/
def recSettled (q : RunRec) : Bool :=
  q.suspended && outstanding q == 0 && q.data.isEmpty && q.fault.isNone && !allDone q

/-- What a channel of a core runs: the chain's run and its record. -/
def runOf (s : State) (core : Nat) (k : Fin 4) : Option (ChainRun × RunRec) :=
  match (getCore s core).chans[k] with
  | none => none
  | some r => r.running.map (fun q => (r, q))

/-- The running record of a channel changed. -/
def modRec (s : State) (core : Nat) (k : Fin 4) (f : RunRec → RunRec) : State :=
  modCore s core (fun x => { x with chans := x.chans.set k (x.chans[k].map (fun r => { r with running := r.running.map f })) })

/-- The kind of access of a running record's far lines. -/
def lineKind (q : RunRec) : Kind := if recKind q = 3 then .atomic else if recDfar q then .write else .read

/-- Whether a declared range touches the 64-byte line at `va`. -/
def rangeTouches (r : DeclRange) (va : Nat) : Bool := r.len != 0 && r.base < va + 64 && va < r.base + r.len

/-- Whether the line lies in an output range of the declaration. -/
def outLine (e : Entry) (va : Nat) : Bool := e.decl.any (fun r => r.out && rangeTouches r va)

/-- Whether a context's far line goes to its run's shadow area (R394): an output line of a replay or third run. -/
def shadowLine (s : State) (c va : Nat) : Bool :=
  (getCtx s c).run != 0 && (match entOfCtx s c with | some e => outLine e va | none => false)

/-- The lines of device memory, as line numbers, that a running record has still to forward to a channel: none once it is suspended or
has failed. Log 25 (DEDUCED). -/
def recLeft (s : State) (ch core : Nat) (k : Fin 4) (rid : Nat) : List Nat :=
  match runOf s core k with
  | none => []
  | some (r, q) =>
    if q.id ≠ rid || q.suspended || q.fault.isSome || recKind q == 2 then []
    else (q.lines.drop q.fwd).filterMap (fun l =>
      if shadowLine s r.chain.ctx l.va then none
      else
        match translate s (dieOfCore core) ((partOf s r.chain.ctx).getD 0) (pidOf s r.chain.ctx) l.va (lineKind q) with
        | .ok (_, pa, host) => if !host && chanOf pa == ch then some (pa / 64) else none
        | .error _ => none)

/-- Whether a window entry's order has a line left in its channel (R319): one queued there, or one of a copy record that has still to be
forwarded. Log 25 (DEDUCED). -/
def winLive (s : State) (ch : Nat) (e : WinEnt) : Bool :=
  (getChan s ch).orders.any (fun o => o.win == e.win && o.party == e.party && o.stage < 2) ||
    (match e.party with
     | .copy core k => !(recLeft s ch core ⟨k % 4, by omega⟩ e.win).isEmpty
     | _ => false)

/-- Window entries of an order with no line left in their channel leave (R319). Log 25 (DEDUCED). -/
def sweepWin (s : State) (n : Nat) : State :=
  { s with chans := s.chans.map (fun p => (p.1, { p.2 with win := p.2.win.filter (fun e => e.win != n || winLive s p.1 e) })) }

/-- Every window entry whose order has no line left in its channel leaves (R319). Log 25 (DEDUCED). -/
def sweepAll (s : State) : State :=
  { s with chans := s.chans.map (fun p => (p.1, { p.2 with win := p.2.win.filter (winLive s p.1) })) }

/-- Whether a mode is that of a context whose issue has stopped and whose chains wait (R371, R380). -/
def stopped (m : RunMode) : Bool := m == .saving || m == .whistled || m == .removed

/-- Whether a channel of a core is busy for a context, `st` when the context's chains take no further record. -/
def chanBusy (c : Nat) (st : Bool) (o : Option ChainRun) : Bool :=
  match o with
  | none => false
  | some r => r.chain.ctx == c &&
    (match r.running with
     | some q => !recSettled q
     | none => !st)

/-- The view a task hands on at its end (R331): its context's view with those of all its engine threads. -/
def finalView (x : Ctx) : View := x.threads.foldl (fun v t => mergeView v t.view) x.view

/-- Whether a context has matrix operations not complete (R30, BMAT). -/
def busyMat (s : State) (c : Nat) : Bool := (getCore s (coreOf c)).mat.any (fun e => e.ctx == c)

/-- Whether a context has vector operations not complete (BVEC). -/
def busyVec (s : State) (c : Nat) : Bool := (getCore s (coreOf c)).vec.any (fun e => e.ctx == c)

/-- Whether a context has copy chains running, queued or held (BCOPY). -/
def busyCopy (s : State) (c : Nat) : Bool :=
  let k := getCore s (coreOf c)
  k.copyQ.any (fun q => q.2.ctx == c) || k.held.any (fun q => q.2.chain.ctx == c) ||
    k.chans.toList.any (fun o => match o with | some r => r.chain.ctx == c | none => false)

/-- Whether a context has a request at its Drover undecided. -/
def busyDrover (s : State) (c : Nat) : Bool :=
  (getDie s (dieOf c)).reqs.any (fun r => r.ctx == c && r.kind ≤ 2)

/-- Whether engine work of a context is still to end: commands, undecided requests, and chains, `st` when its chains take no further
record and the suspended ones wait; those held after a restore are among the others (R375). -/
def workLeft (s : State) (c : Nat) (st : Bool) : Bool :=
  let k := getCore s (coreOf c)
  busyMat s c || busyVec s c || busyDrover s c ||
    (!st && (k.copyQ.any (fun q => q.2.ctx == c) || k.held.any (fun q => q.2.chain.ctx == c))) || k.chans.toList.any (chanBusy c st)

/-- Whether engine work of a context whose issue has ended is still to end (R203, R236, R371). -/
def engineWork (s : State) (c : Nat) : Bool := workLeft s c (stopped (getCtx s c).mode)

/-- What waits for a context's engine work to end is tried again: its end, its save or the Whistle's stop (R236, R371,
R380). -/
def settle (s : State) (c : Nat) : State :=
  match (getCtx s c).mode with
  | .halted => postOnce s .taskCompletion [c]
  | .removed => postOnce s .taskCompletion [c]
  | .saving => postOnce s .drainComplete [c]
  | .whistled => match partOf s c with
    | some p => postOnce s .whistleSettled [p]
    | none => s
  | _ => s

/-- The status register as it reads now, with the busy bits (R30). Log 13 (DEDUCED). -/
def stNow (s : State) (c : Nat) : Nat :=
  let st := (getCtx s c).st.toNat
  if isMem c then st
  else putBits (putBits (putBits st 20 1 (if busyMat s c then 1 else 0)) 21 1 (if busyVec s c then 1 else 0))
    22 1 (if busyCopy s c then 1 else 0)

/-- A memory-core context given back: everything as before it served. -/
def freeMem (s : State) (m : Nat) : State := putCtx s m Ctx.reset

/-- The memory-core contexts that serve an order of a core's channel. -/
def servingOf (s : State) (core k : Nat) : List Nat :=
  (s.ctxs.filter (fun p => isMem p.1 && (match p.2.serving with
    | some v => v.core == core && v.k == k
    | none => false))).map Prod.fst

/-- The program orders of a core's channel removed from every order queue. -/
def dropProgramOrders (s : State) (core k : Nat) : State :=
  let keep := fun (o : FarOrder) => !((o.kind == .program || o.kind == .load) && o.core == core && o.k == k)
  { s with chans := s.chans.map (fun p => (p.1, { p.2 with orders := p.2.orders.filter keep })) }

/-- The record a channel runs is suspended (R371): it forwards no new line; a program stops at once and restarts. -/
def suspendChan (s : State) (core : Nat) (k : Fin 4) : State :=
  match (getCore s core).chans[k] with
  | none => s
  | some r =>
    match r.running with
    | none => s
    | some q =>
      let prog := recKind q == 2
      let q1 : RunRec := { q with suspended := true, restart := q.restart || prog }
      let s1 := sweepWin (modCore s core (fun x => { x with chans := x.chans.set k (some { r with running := some q1 }) })) q.id
      if prog then sweepAll (dropProgramOrders ((servingOf s1 core k).foldl freeMem s1) core k) else s1

/-- Every record of a context's chains is suspended (R371). -/
def suspendChains (s : State) (c : Nat) : State :=
  let core := coreOf c
  (List.finRange 4).foldl (fun s k => match (getCore s core).chans[k] with
    | some r => if r.chain.ctx == c then suspendChan s core k else s
    | none => s) s

/-- A context taken off the lists of waiters of its cluster's objects. -/
def leaveObjects (s : State) (c : Nat) : State :=
  modCluster s (clusterOf c) (fun k => { k with objs := k.objs.map (fun p => (p.1, { p.2 with waiters := p.2.waiters.filter (· != c) })) })

/-- Requests of a context that a stop withdraws: a budx still deciding (R244). -/
def withdrawBudx (s : State) (c : Nat) : State :=
  modCtx (modDie s (dieOf c) (fun d => { d with reqs := d.reqs.filter (fun r => !(r.kind == 2 && r.ctx == c)) })) c
    (fun x => { x with budx := none })

/-- A translator run that the Drover has admitted ends with no output (R270), unless it has ended already (R385): its result words wait
for the hypervisor, STATUS UNCORRECTABLE whatever stopped it. Log 123 (DESIGN CHOICE). -/
def endRunReq (s : State) (id count pc : Nat) : State :=
  postOnce { s with hreqs := s.hreqs.map (fun q => if q.id = id && q.stage == 6 then
    { q with res := [cUNCORRECTABLE, count % 2 ^ 32, 0, pc, 0, 0, q.outArea, q.provArea], stage := 5 } else q) } .hcallReply [id]

/-- The translator run of a context that is stopped from outside ends. Log 52 (DEDUCED), 123 (DESIGN CHOICE). -/
def stopRun (s : State) (c : Nat) : State :=
  match (getCtx s c).root with
  | none => s
  | some r => endRunReq s r.req r.count (getCtx s c).pc.toNat

/-- Whether the Whistle has stopped a context's partition and does not spare its task (R379, R380). -/
def whistleHolds (s : State) (c : Nat) : Bool :=
  match (partOf s c).bind (getPart? s) with
  | none => false
  | some p => p.whistled && (match p.spared with
    | some d => d != c && (match entOfCtx s c with | some e => !e.members.contains d | none => true)
    | none => true)

/-- Issue of a context stops in a mode (R370, R371): a waiting instruction is abandoned, a budx still deciding is withdrawn, its records
are suspended. -/
def haltIssue (s : State) (c : Nat) (m : RunMode) : State :=
  suspendChains (modCtx (withdrawBudx (leaveObjects s c) c) c (fun x => { x with mode := m, stall := none, notice := none })) c

/-- A context stopped for good (R290, R367): retired stores perform, queued chains are dropped, records are suspended,
commands complete; it is freed by TASK_COMPLETION. Log 77 (DEDUCED). -/
def stopCtx (s0 : State) (c : Nat) : State :=
  let s := stopRun s0 c
  let s1 := withdrawBudx (leaveObjects (drain (endRegion s c) c) c) c
  let s2 := modCore s1 (coreOf c) (fun k => { k with
    copyQ := k.copyQ.filter (fun q => q.2.ctx != c), held := k.held.filter (fun q => q.2.chain.ctx != c) })
  let s3 := modCtx (suspendChains s2 c) c (fun x => { x with mode := .removed, waiting := false, apx := none, stall := none, notice := none, window := none })
  postOnce s3 .taskCompletion [c]

/-- The window of local memory from `base` for `len` bytes zeroed, with the coherence lists of its bytes. -/
def zeroWindow (s : State) (core base len : Nat) : State :=
  let a := localBase core + base
  { s with
    mem := memZero s.mem a len
    poison := s.poison.filter (fun w => !(a ≤ w * 8 && w * 8 < a + len))
    past := s.past.filter (fun p => !(a ≤ p.addr && p.addr < a + len))
    released := overReleased s.released s.stamp a len }

/-- The marks of a context's own accesses and of its engine operations cleared. -/
def dropMarks (s : State) (c : Nat) : State := { s with marks := s.marks.filter (fun m => m.ctx != c) }

/-- The channels of a core whose chains a context started. -/
def chansOf (s : State) (c : Nat) : List Nat :=
  (List.range 4).filter (fun k => match (getCore s (coreOf c)).chans.toList[k]? with
    | some (some r) => r.chain.ctx == c
    | _ => false)

/-- The chains of a context taken out of its copy engine; its channels go on to the next chain. -/
def dropChains (s : State) (c : Nat) : State :=
  let core := coreOf c
  let ks := chansOf s c
  let s1 := modCore s core (fun k => { k with
    copyQ := k.copyQ.filter (fun q => q.2.ctx != c), held := k.held.filter (fun q => q.2.chain.ctx != c)
    chans := k.chans.map (fun o => match o with
      | some r => if r.chain.ctx == c then none else some r
      | none => none) })
  (if (getCore s1 core).held.isEmpty then ks else List.range 4).foldl (fun s k => postOnce s .copyChainStart [core, k]) s1

/-- A context given back to the Drover: registers as at reset, chains gone; its window is zeroed unless it is kept; its partition has
run on the die until now (R431). -/
def freeCtx (s : State) (c : Nat) (keep : Bool) : State :=
  let x := getCtx s c
  let s0 := match (getCluster s (clusterOf c)).part with
    | some p => modDie s (dieOf c) (fun d => { d with ran := d.ran.put p d.counter })
    | none => s
  let s1 := if keep then s0 else zeroWindow s0 (coreOf c) (winBase x) (winLen x)
  putCtx (dropChains (dropMarks s1 c) c) c { Ctx.reset with view := x.view, region := x.region + 1 }

/-- A paged task is to be paged in: one of the events of R447 has happened. Log 96 (DEDUCED). -/
def askPageIn (s : State) (die : Nat) (e : Entry) : State :=
  postOnce (modEnt s die e.order (fun f => { f with pageAsked := f.paged })) .pageIn [die, e.tag, 1]

/-- Placement is tried again for every ready or saved entry of a die and for its cards (R295), and for the replays of every die
(R394). -/
def wakeReady (s : State) (die : Nat) : State :=
  let s1 := (getDie s die).entries.foldl (fun s e =>
    match e.card with
    | some k => if k.remaining = 0 then s else postOnce s .chunkDeal [die, k.id]
    | none => if e.state == .ready || e.state == .saved then postOnce s .taskPlacement [die, e.tag] else s) s
  s.dies.foldl (fun s d => (d.2.entries.filter (fun e => e.state == .waiting)).foldl
    (fun s e => postOnce s .replayPlacement [d.1, e.tag]) s) s1

/-- The windows kept for a successor are given up and zeroed (R297). -/
def dropRetained (s : State) (die tag : Nat) : State :=
  let rs := (getDie s die).retained.filter (fun r => r.succ == tag)
  let s1 := rs.foldl (fun s r => zeroWindow s r.core r.base r.len) s
  if rs.isEmpty then s1
  else modDie s1 die (fun d => { d with retained := d.retained.filter (fun r => r.succ != tag) })

/-- A completion waits for its place in a queue's ring (R454); a queue torn down with a bad ring says 0x8011 (R435). -/
def completeLaunch (s : State) (l : Option LaunchId) (tag status ecnt : Nat) : State :=
  match l with
  | none => s
  | some l =>
    match s.queues.get? (l.part * 64 + l.q) with
    | none => s
    | some q =>
      let q1 : LaunchQ := { q with pending := q.pending ++ [(l.seq, l.utag, tag, status, ecnt)] }
      post { s with queues := s.queues.put (l.part * 64 + l.q) q1 } .completionWrite [l.part, l.q]

/-- An entry's end made known: its COUNTER is signalled and its launch command completes. -/
def announceOne (s : State) (die : Nat) (e : Entry) (abt rev : Bool) (view : View) : State :=
  completeLaunch (signalCounter s die e.counter abt rev view) e.launch
    (if e.card.isSome then 0 else e.tag) (if abt then 0xFF else if rev then 6 else 0) e.ecnt

/-- The entry of an order deleted. -/
def delEnt (s : State) (die order : Nat) : State :=
  modDie s die (fun d => { d with entries := d.entries.filter (fun e => e.order != order) })

/-- A chunk task's end counted by its card, which ends when every chunk has been dealt and has ended (R293), and hands on the views that
they ended with (R331). Log 53 (DEDUCED). -/
def chunkEnd (s : State) (die : Nat) (e : Entry) (view : View) : State :=
  match e.parent with
  | none => s
  | some o =>
    match (getDie s die).entries.find? (fun f => f.order == o) with
    | none => s
    | some f =>
      match f.card with
      | none => s
      | some k =>
        let k1 := { k with live := k.live - 1, endView := mergeView k.endView view }
        let f1 := { f with card := some k1, ecnt := min (2 ^ 48 - 1) (f.ecnt + e.ecnt) }
        if k1.remaining = 0 && k1.live = 0 then announceOne (delEnt s die o) die f1 false false k1.endView
        else modEnt s die o (fun _ => f1)

/-- A task's end made known: its counter, its launch command and its card. -/
def announce (s : State) (die : Nat) (e : Entry) (abt rev : Bool) (view : View) : State :=
  chunkEnd (announceOne s die e abt rev view) die e view

/-- A task taken out of every list it parks in. -/
def unpark (s : State) (die tag : Nat) : State :=
  modDie s die (fun d => { d with ctrs := d.ctrs.map (fun p => (p.1, { p.2 with parked := p.2.parked.filter (· != tag) })) })

/-- Whether every task is to leave a core (R254, R398, R427, R433): it is sealed, in the Fold or taken by the rotation. -/
def giving (s : State) (core : Nat) : Bool := coreSealed s core || (getCluster s (clusterOfCore core)).rotating

/-- A pre-emption request withdrawn (R358): the task goes on as if it had never been asked, unless it is to leave its core all the
same. -/
def withdraw (s : State) (die : Nat) (e : Entry) : State :=
  if e.state != .asked then s
  else if e.members.any (fun c => giving s (coreOf c)) then modEnt s die e.order (fun f => { f with victimFor := none })
  else
    e.members.foldl (fun s c => modCtx s c (fun x =>
        { x with mode := if x.mode == .stopping then .running else x.mode, window := none }))
      (modEnt s die e.order (fun f => { f with state := .placed, victimFor := none }))

/-- The requests made for an entry withdrawn (R358). -/
def withdrawFor (s : State) (die order : Nat) : State :=
  ((getDie s die).entries.filter (fun e => e.victimFor == some order)).foldl (fun s e => withdraw s die e) s

/-- Whether a selected task has completed in audit mode: what is left of it is its comparison (R396). -/
def compared (e : Entry) : Bool := !e.transit.conf && 2 ≤ e.transit.phase && e.transit.phase != 5

/-- Energies summed, saturating (R454). -/
def sumEnergy (ns : List Nat) : Nat := ns.foldl (fun n m => min (2 ^ 48 - 1) (n + m)) 0

/-- What an entry's task has used (R454): counted before, in the contexts it runs on and in its saves. -/
def entEnergy (s : State) (e : Entry) : Nat :=
  sumEnergy (e.ecnt :: (e.members.map (fun m => (getCtx s m).ecnt.toNat) ++ e.saved.map (fun v => v.ctx.ecnt.toNat)))

/-- The entries whose work counts for an entry that is removed (R454): its own, and for a card those of the chunks that have not ended. -/
def shareOf (s : State) (die : Nat) (e : Entry) : List Entry :=
  if e.card.isSome then e :: (getDie s die).entries.filter (fun f => f.parent == some e.order && !compared f) else [e]

/-- What an entry that is to be removed leaves to end (R289, R454): its contexts, for a card those of its chunks, with the energy counted
apart from what they hold. -/
def endingOf (s : State) (die : Nat) (abt rev : Bool) (e : Entry) : Ending :=
  let fs := shareOf s die e
  ⟨{ e with ecnt := sumEnergy (fs.flatMap (fun f => f.ecnt :: f.saved.map (fun v => v.ctx.ecnt.toNat))) },
    fs.flatMap Entry.members, abt, rev, match e.card with | some k => k.endView | none => []⟩

/-- The end of a removed entry made known once the last of its contexts has been freed (R289). -/
def announceEnding (s : State) (die : Nat) (g : Ending) : State := announceOne s die g.ent g.abt g.rev g.view

/-- A removed entry's context is freed, with its stores and engine work performed: its view and its energy are those of the removed
entries it worked for, and an entry that has no other is at its end (R289, R454). -/
def endStep (s : State) (c : Nat) : State :=
  let x := getCtx s c
  let die := dieOf c
  let step (g : Ending) : Ending := if !g.ctxs.contains c then g else
    { g with ent := { g.ent with ecnt := sumEnergy [g.ent.ecnt, x.ecnt.toNat] }, ctxs := g.ctxs.filter (· != c)
             view := mergeView g.view (finalView x) }
  let gs := (getDie s die).ending.map step
  (gs.filter (fun g => g.ctxs.isEmpty)).foldl (fun s g => announceEnding s die g)
    (modDie s die (fun d => { d with ending := gs.filter (fun g => !g.ctxs.isEmpty) }))

/-- One entry removed by an abort or a revocation (R290, R354): its contexts stop, its retained windows go, and its
counter is signalled when what it leaves to end has ended (R289). Log 53 (DEDUCED), 77 (DEDUCED). -/
def removeEnt (s : State) (die : Nat) (g : Ending) : State :=
  let e := g.ent
  let s0 := match e.rootReq with
    | some id => if e.members.isEmpty then endRunReq s id 0 0 else s
    | none => s
  let s1 := e.members.foldl stopCtx s0
  let s2 := match e.transit.runCtx with
    | some r => stopCtx s1 r
    | none => s1
  let s3 := dropRetained (delEnt (withdrawFor (if e.card.isNone then unpark s2 die e.tag else s2) die e.order) die e.order) die e.tag
  if compared e then s3
  else if g.ctxs.isEmpty then announceEnding s3 die g
  else modDie s3 die (fun d => { d with ending := d.ending ++ [g] })

/-- The request a Drover decides next gets its event (R343). -/
def postDecision (s : State) (die : Nat) : State :=
  match (getDie s die).reqs with
  | [] => s
  | r :: _ =>
    match r.kind with
    | 0 => postOnce s .spawnDecision [die]
    | 1 => postOnce s .cardDecision [die]
    | 2 => postOnce s .budgetExtensionDecision [die]
    | 3 => postOnce s .launchDecision [die]
    | _ => postOnce s .translatorRunStart [r.n]

/-- Every live task, parked task and card of a graph removed with ABT, and the tasks and cards it asks for that are still to be decided
(R290). Log 77 (DEDUCED). -/
def abortGraph (s : State) (die graph : Nat) : State :=
  let es := (getDie s die).entries.filter (fun e => e.graph == graph && !compared e)
  let s1 := modDie s die (fun d => { d with reqs := d.reqs.filter (fun r => !(r.kind ≤ 1 && r.graph == graph)) })
  wakeReady ((es.map (endingOf s die true false)).foldl (fun s g => removeEnt s die g) (postDecision s1 die)) die

/-- A task or a card with its chunks revoked (R354). Log 53 (DEDUCED), 77 (DEDUCED). -/
def revokeEnt (s : State) (die : Nat) (e : Entry) : State :=
  let top := match e.parent with | some o => o | none => e.order
  let es := (getDie s die).entries.filter (fun f => f.order == top || f.parent == some top)
  wakeReady ((es.map (endingOf s die false true)).foldl (fun s g => removeEnt s die g) s) die

/-- A partition's count of abandoned comparisons rises (R395, R399). -/
def countUnverified (s : State) (part : Nat) : State :=
  modPart s part (fun p => { p with unverified := p.unverified + 1 })

/-- A selected original is no longer compared (R395, ORIGINAL to released): counted, its locks released; it runs on and
ends as an unselected task. -/
def abandonOriginal (s : State) (die : Nat) (e : Entry) : State :=
  countUnverified (modEnt s die e.order (fun f => { f with transit := { f.transit with phase := 5, locks := [] } })) e.part

/-- A replay or third run fails (R394): it is stopped, and its end decides the comparison. Log 51 (DEDUCED). -/
def failRun (s : State) (c : Nat) : State :=
  match entOfCtx s c with
  | none => s
  | some e =>
    let r := (getCtx s c).run
    stopCtx (modEnt s (homeDie s c) e.order
      (fun f => { f with transit := { f.transit with failed := f.transit.failed.set r true } })) c

/-- An event of R390 in the task of a context: an eligible task is marked unverifiable, and a selected original is
abandoned; in a replay it is a failure. Log 107 (DEDUCED). -/
def markUnv (s : State) (c : Nat) : State :=
  if isMem c then s
  else
    match entOfCtx s c with
    | none => s
    | some e =>
      if e.transit.runCtx == some c then failRun s c
      else if e.telig && !e.unv then
        let s1 := modEnt s (dieOf c) e.order (fun f => { f with unv := true })
        if e.transit.phase == 1 then abandonOriginal s1 (dieOf c) e else s1
      else s

/-- A task ends normally (R236): the signal goes out, or, for a selected task, its digest closes and its replay waits to
be placed (R391, R395); in audit mode the signal goes out all the same (R396). Log 60 (DEDUCED). -/
def finishEnt (s : State) (die : Nat) (e : Entry) (view : View) : State :=
  if e.transit.phase == 1 then
    let (n, s0) := fresh s
    let e1 := { e with state := .waiting, members := [], startView := view, transit := { e.transit with phase := 2, seq := n } }
    let s1 := modEnt s0 die e.order (fun _ => e1)
    let s2 := if e.transit.conf then s1 else announce s1 die e1 false false view
    postOnce s2 .replayPlacement [die, e.tag]
  else announce (dropRetained (delEnt s die e.order) die e.tag) die e false false view

/-- The levels of hardware loop that are active, a mask (R112). -/
def loopMask (x : Ctx) : Nat :=
  (if x.lc[0] = 0 then 0 else 1) + (if x.lc[1] = 0 then 0 else 2) + (if x.lc[2] = 0 then 0 else 4) +
    (if x.lc[3] = 0 then 0 else 8)

/-- The pair of a provenance map that names an output offset (R273): of those at or below it the greatest, the last
appended among equals. -/
def provAt (prov : List (Nat × Nat)) (x : Nat) : Option (Nat × Nat) :=
  prov.foldl (fun b p => if p.1 ≤ x && (match b with | some q => q.1 ≤ p.1 | none => true) then some p else b) none

/-- The private-form offset of a pc (R273). Log 114 (DESIGN CHOICE). -/
def poffOf (s : State) (part pc : Nat) : Nat :=
  match getPart? s part with
  | none => 0xFFFFFFFF
  | some p =>
    match p.dir.find? (fun e => e.outBase ≤ pc && pc < e.outBase + e.outLen) with
    | none => 0xFFFFFFFF
    | some e => ((provAt e.prov (pc - e.outBase)).map Prod.snd).getD 0xFFFFFFFF

/-- A fault record as its 64 bytes (R361). -/
def FaultRec.bytes (r : FaultRec) : List Byte :=
  leBytes 2 r.cause ++ leBytes 2 r.flags ++ leBytes 4 r.thread ++ leBytes 4 r.tag ++ leBytes 4 r.poff ++
    leBytes 8 r.pc ++ leBytes 8 r.addr ++ leBytes 8 r.sst ++ leBytes 8 r.spec0 ++ leBytes 8 r.spec1 ++ leBytes 8 r.spfx

/-- The 64 zero bytes of an entry's empty half (R368). -/
def zero64 : List Byte := List.replicate 64 0

/-- The record of a cause in a context (R361, R363): `pc` is the record's PC, `raiser` the pc of the instruction that
raised it; an attributed cause puts that pc in SPEC0. -/
def mkRec (s : State) (c : Nat) (t : Trap) (pc : Nat) : FaultRec :=
  let x := getCtx s c
  let part := (partOf s c).getD 0
  let rpc := t.opc.getD pc
  { cause := t.cause
    flags := bit (t.opc.isSome) + 2 * bit t.far + 4 * bit (loopMask x != 0) + 16 * bit (wBits x.st 3 1 == 1)
    thread := c
    tag := x.tag.toNat
    poff := poffOf s part rpc
    pc := rpc
    addr := t.addr
    sst := stNow s c
    spec0 := if t.opc.isSome then pc else t.spec0
    spec1 := t.spec1
    spfx := x.pfx.toNat + loopMask x * 2 ^ 32 }

/-- SPEC1 of an attributed record (R231). -/
def attrWord (h : HeldFault) (tok : Nat) (inChstat : Bool) : Nat :=
  h.recAddr % 2 ^ 32 + tok * 2 ^ 32 + h.chan * 2 ^ 35 + bit inChstat * 2 ^ 37 + h.sub * 2 ^ 38 +
    min h.lines (2 ^ 24 - 1) * 2 ^ 40

/-- A held fault as the trap that raises it (R231). Log 62 (DEDUCED). -/
def heldTrap (h : HeldFault) (tok : Nat) (inChstat : Bool) : Trap :=
  ⟨h.cause, h.addr, h.far, 0, attrWord h tok inChstat, some h.opc⟩

end Sys2Proof.Machine
end

