-- ==== Sys2Proof/Machine/Contain.lean ====
section
/-! DEFINITION. Containment of an uncorrectable error consumed by a core (R432, R433): the level, the entry, the sealing of
the core. Pre-emption requests (R369) and the sealing of a core for a scan. -/

namespace Sys2Proof.Machine

/-- The entry a level writes to the supervisor's fault queue (R432); no consumer is given by `none`. -/
def uncorrEntry (s : State) (c : Option Nat) (kind level addr : Nat) (far restarted : Bool) (core : Nat) : List Byte :=
  let x := match c with | some c => getCtx s c | none => Ctx.reset
  let r : FaultRec := { FaultRec.zero with
    cause := cUNCORRECTABLE
    flags := 2 * bit far
    thread := match c with | some c => c % 2 ^ 32 | none => 0
    tag := x.tag.toNat
    poff := match c with | some d => poffOf s ((partOf s d).getD 0) x.pc.toNat | none => 0xFFFFFFFF
    pc := x.pc.toNat
    addr := addr
    spec0 := kind + 16 * level + 256 * bit restarted
    spec1 := core }
  r.bytes ++ zero64

/-- A task may be placed again from its record (R433). -/
def restartable (e : Entry) : Bool := e.telig && !e.unv && !e.restarted

/-- A task on a core sealed at level 1 (R433, step 3): its contexts stop; it is placed again, or its graph is aborted. -/
def leaveCore (s : State) (die : Nat) (e : Entry) : State :=
  if restartable e then
    let s1 := e.members.foldl stopCtx s
    modEnt s1 die e.order (fun f => { f with state := .ready, members := [], saved := [], restarted := true, victimFor := none
                                             transit := { f.transit with d := [0, 0, 0] } })
  else abortGraph s die e.graph

/-- The replay and third runs on a core fail (R394, R433). -/
def failRuns (s : State) (core : Nat) : State :=
  (ctxsOf core).foldl (fun s c => if (getCtx s c).run = 0 then s else failRun s c) s

/-- A core sealed at level 1 (R433): every context stops, its commands are dropped, its tasks restart or abort, it is scanned, and its
partition is tested again (R353). -/
def sealCore1 (s : State) (core : Nat) : State :=
  let die := dieOfCore core
  let es := (getDie s die).entries.filter (fun e => e.members.any (fun c => coreOf c == core))
  let s1 := modCore s core (fun k => { k with mat := [], vec := [], armed := none })
  let s2 := es.foldl (fun s e => leaveCore s die e) (failRuns s1 core)
  let s3 := (ctxsOf core).foldl (fun s c => if (getCtx s c).mode == .free then s else stopCtx s c) s2
  let s4 := modCore s3 core (fun k => { k with errScan := true, fold := .scan, scan := 1 })
  let s5 := match (getCluster s4 (clusterOfCore core)).part with
    | some p => postOnce s4 .revocationTest [die, p]
    | none => s4
  wakeReady (post s5 .scanPatternsEnd [core, 0]) die

/-- The level of an error by the kind of the storage and whether it is the consuming core's own (R432). Log 52 (DEDUCED). -/
def errorLevel (kind : Nat) (own : Bool) : Nat :=
  if kind = 6 then 4 else if kind = 2 || kind = 5 || !own then 2 else 1

/-- An error in a word a context consumed (R432, levels 1 and 2): the entry, then the core sealed or the task's graph
aborted. -/
def containCtx (s : State) (c kind addr : Nat) (far own : Bool) : State :=
  let die := dieOf c
  let part := (partOf s c).getD 0
  let level := errorLevel kind own
  let e := entOfCtx s c
  let again := level == 1 && (match e with | some f => restartable f && f.transit.runCtx.isNone | none => false)
  let s1 := enqueueFault s part die (uncorrEntry s (some c) kind level addr far again (coreOf c))
  if level = 1 then sealCore1 s1 (coreOf c)
  else
    match e with
    | some f => if f.transit.runCtx == some c then failRun s1 c else abortGraph s1 die f.graph
    | none => stopCtx s1 c

/-- The channel number of a small number. -/
def chanIx (k : Nat) : Fin 4 := ⟨k % 4, by omega⟩

/-- The task whose order a memory-core context serves: the context that started the chain. Log 64 (DESIGN CHOICE), 106 (DEDUCED). -/
def ownerOf (s : State) (m : Nat) : Option Nat :=
  match (getCtx s m).serving with
  | none => none
  | some v => ((getCore s v.core).chans[chanIx v.k]).map (fun r => r.chain.ctx)

/-- The contexts of a memory core that serve an order. -/
def servingAt (s : State) (ch : Nat) : List Nat :=
  ((List.range 16).map (fun i => memBase + ch * 16 + i)).filter (fun m => (getCtx s m).serving.isSome)

/-- The task that a context runs meets a level-1 error outside its own core (R433 step 3). Log 52 (DEDUCED). -/
def leaveServed (s : State) (o : Nat) : State :=
  match entOfCtx s o with
  | some e => if e.transit.runCtx == some o then failRun s o else leaveCore s (homeDie s o) e
  | none => stopCtx s o

/-- An error in a memory core's own registers, staging, record copy or state (R432 level 1, R433): the entry, which names no compute
core, the tasks it serves restart or abort, its contexts stop, and it is scanned. Log 52 (DEDUCED). -/
def containMem (s : State) (m kind addr : Nat) : State :=
  let ch := mcoreOf m
  let die := ch / 32
  let part := (partOf s m).getD 0
  let again := match (ownerOf s m).bind (entOfCtx s) with | some f => restartable f && f.transit.runCtx.isNone | none => false
  let s1 := enqueueFault s part die (uncorrEntry s (some m) kind 1 addr false again 0x3FFF)
  let s2 := (((servingAt s ch).filterMap (ownerOf s)).eraseDups).foldl leaveServed s1
  let s3 := (servingAt s ch).foldl freeMem s2
  post (modChan s3 ch (fun k => { k with errScan := true })) .scanPatternsEnd [memBase + ch, 0]

/-- The kind of the storage behind a near address (R432), and whether it is the core's own. Log 52 (DEDUCED). -/
def storeKind (c a : Nat) : Nat × Bool :=
  match areaFor c a with
  | .own _ => (1, true)
  | .staging _ => (1, true)
  | .record _ => (1, true)
  | .sibling _ _ => (1, false)
  | .wstack _ => (3, true)
  | _ => (2, true)

/-- A poisoned word among the bytes of a near access (R426): the trap that leads to its containment. Log 52 (DEDUCED). -/
def poisonTrap (s : State) (c ea n : Nat) : Option Trap :=
  match areaFor c ea with
  | .objects _ => none
  | _ =>
    match poisonedIn s (phys c ea) n with
    | none => none
    | some w =>
      let k := storeKind c ea
      some ⟨cUNCORRECTABLE, ea + w * 8 - phys c ea, false, k.1, bit k.2, none⟩

/-- The poisoned word that an access of a context would read (R426): one that a retired store of its own replaces whole is none, for the
access reads what that store writes (R116). -/
def poisonOwn (s : State) (c ea n : Nat) : Option Trap :=
  let own (w : Nat) : Bool := (getCtx s c).stq.any (fun e => e.addr ≤ w * 8 && w * 8 + 8 ≤ e.addr + e.bytes.length)
  poisonTrap { s with poison := s.poison.filter (fun w => !own w) } c ea n

/-- A placed task is asked to give way (R357, R369): its state, for whom, and the request on its way to its leader. -/
def askEnt (s : State) (die : Nat) (e : Entry) (forOrder : Option Nat) : State :=
  match e.members with
  | [] => s
  | c :: _ => postOnce (modEnt s die e.order (fun f => { f with state := .asked, victimFor := forOrder }))
      .preemptionRequestArrival [c]

/-- A task or run that has come to stand on a core all tasks are to leave is asked at once (R254, R398, R427). -/
def giveWay (s : State) (c : Nat) : State :=
  if !giving s (coreOf c) then s
  else if (getCtx s c).run != 0 then postOnce s .preemptionRequestArrival [c]
  else
    match entOfCtx s c with
    | some e => if e.state == .placed then askEnt s (dieOf c) e none else s
    | none => s

/-- Every task placed on a core, and every replay and third run there, is asked to give way (R254, R398, R427), and for the rotation a
supervisor's home context too; one still to come there is asked when it does (`giveWay`). Log 98 (DEDUCED). -/
def clearCore (s : State) (core : Nat) : State :=
  let die := dieOfCore core
  let s1 := ((getDie s die).entries.filter (fun e => e.state == .placed && e.members.any (fun c => coreOf c == core))).foldl
    (fun s e => askEnt s die e none) s
  let home (c : Nat) : Bool := (getCluster s (clusterOfCore core)).rotating && (entOfCtx s c).isNone
  let holds (m : RunMode) : Bool := m == .running || m == .halted || m == .whistled
  (ctxsOf core).foldl (fun s c => if ((getCtx s c).run != 0 || home c) && holds (getCtx s c).mode then
    postOnce s .preemptionRequestArrival [c] else s) s1

end Sys2Proof.Machine
end

