-- ==== Sys2Proof/Machine/Ops.lean ====
section
/-! DEFINITION. Taking a trap (R363 to R368, R300), the return from one (R242), and the issue of one instruction: the checks
of R86, the words of ports (R16, R17), the budget (R349), retirement (R89, R109) and the lock-step of a flock (R299). -/

namespace Sys2Proof.Machine

/-- A general register's value; a port register holds nothing of its own (R15). -/
def getReg (x : Ctx) (r : Reg) : Word :=
  if h : r.val < 28 then (if r.val = 0 then 0 else x.g[r.val]) else 0

/-- A general register written; g0 discards (R15). -/
def setReg (x : Ctx) (r : Reg) (v : Word) : Ctx :=
  if h : r.val < 28 then (if r.val = 0 then x else { x with g := x.g.set r.val v }) else x

/-- The port a register field names (R15). -/
def portOf (r : Reg) : Option (Fin 4) :=
  if h : 28 ≤ r.val then some ⟨r.val - 28, by omega⟩ else none

/-- The die of the context that issues reads this die counter (R341). -/
def dieCounter (s : State) (c : Nat) : Nat := (getDie s (dieOf c)).counter

/- ---------------------------------------------------------------- traps -/

/-- R365: the first check that a store of a record at TFRAME fails. -/
def recordCheck (s : State) (c a : Nat) : Option Trap :=
  let x := getCtx s c
  let okArea := (List.range 64).all (fun i =>
    match areaFor c (a + i) with
    | .own o => inWindow x o
    | .cluster _ => true
    | _ => false)
  if !okArea then some (Trap.at cADDRESS a)
  else if a % 64 ≠ 0 then some (Trap.at cALIGN a)
  else conflictAt s c a true

/-- The record written at TFRAME as a plain store that has performed before the handler's first fetch (R364, R365). -/
def writeRecord (s : State) (c a : Nat) (r : FaultRec) : State :=
  drain (nearStore s c a r.bytes) c

/-- A context stopped by an unhandled or double fault, and its graph aborted (R364, R367); in a replay it is that run's
failure (R394). Log 105 (DEDUCED). -/
def killTask (s : State) (c : Nat) : State :=
  match entOfCtx s c with
  | none => stopCtx s c
  | some e => if e.transit.runCtx == some c then failRun s c else abortGraph s (dieOf c) e.graph

/-- An unhandled cause (R364, R368). Log 51 (DEDUCED). -/
def unhandled (s : State) (c : Nat) (r : FaultRec) : State :=
  killTask (enqueueFault s ((partOf s c).getD 0) (dieOf c) (r.bytes ++ zero64)) c

/-- A double fault (R366 to R368): the outer record from the second cause, the first record behind it. -/
def doubleFault (s : State) (c : Nat) (first second : FaultRec) : State :=
  let outer : FaultRec := { second with
    cause := cDOUBLE, spec0 := second.cause % 2 ^ 16 + first.cause % 2 ^ 16 * 2 ^ 16, spec1 := second.spec0 }
  killTask (enqueueFault s ((partOf s c).getD 0) (dieOf c) (outer.bytes ++ first.bytes)) c

/-- The registers a trap entry changes (R364): latch, loop shadow, ST, PFX and pc. -/
def enterHandler (x : Ctx) (r : FaultRec) : Ctx :=
  { x with
    latch := r
    shadow := x.ls.toList ++ x.le.toList ++ x.lc.toList
    lc := Vector.replicate 4 0
    st := w64 (putBits (putBits (putBits x.st.toNat 23 1 1) 13 6 0) 3 1 0)
    pfx := 0
    pc := x.tvec
    waiting := false
    stall := none
    notice := none
    budx := none }

/-- The trap sequence of R364 for a record that has been built. -/
def takeRec (s : State) (c : Nat) (r : FaultRec) : State :=
  let x := getCtx s c
  let a := x.tframe.toNat
  if 1 ≤ privOf x || x.tvec == 0 then
    unhandled (match recordCheck s c a with
      | none => writeRecord s c a r
      | some _ => s) c r
  else if wBits x.st 23 1 = 1 then doubleFault s c x.latch r
  else
    match recordCheck s c a with
    | some f => doubleFault s c r { mkRec s c f r.pc with addr := a }
    | none =>
      let s1 := modCtx (writeRecord s c a r) c (fun x => enterHandler x r)
      match fetchWord s1 c x.tvec.toNat with
      | .ok (s2, _) => s2
      | .error e =>
        let f := fetchTrap s1 c x.tvec.toNat e
        if e = cUNCORRECTABLE then containCtx s1 c f.spec0 f.addr f.far false
        else doubleFault s1 c r (mkRec s1 c f x.tvec.toNat)

/-- The record fault of a channel's running record, acted on by RECORD_FAULT (R224). -/
def faultRecord (s : State) (core : Nat) (k : Fin 4) (h : HeldFault) : State :=
  match (getCore s core).chans[k] with
  | none => s
  | some r =>
    match r.running with
    | none => s
    | some q =>
      if q.fault.isSome then s
      else postOnce (modCore s core (fun x => { x with
        chans := x.chans.set k (some { r with running := some { q with fault := some h } }) })) .recordFault [core, k.val]

/-- A trap in a memory-core context (R138, R309): the order ends with a record fault and the context is free again. -/
def memFault (s : State) (m : Nat) (t : Trap) (sub : Nat) : State :=
  match (getCtx s m).serving with
  | none => modCtx s m (fun x => { x with mode := .halted })
  | some v => freeMem (faultRecord s v.core (chanIx v.k) ⟨t.cause, 0, t.addr, t.far, 0, v.k, sub, 0⟩) m

/-- A translator run ends (R261, R270): its result words wait for the hypervisor, and its context ends as at a halt. -/
def rootStop (s : State) (c id : Nat) (res : HReq → List Nat) : State :=
  let s1 := { s with hreqs := s.hreqs.map (fun q => if q.id = id then { q with res := res q, stage := 5 } else q) }
  let s2 := modCtx s1 c (fun x => { x with mode := .halted, halted := true, waiting := false })
  postOnce (postOnce s2 .taskCompletion [c]) .hcallReply [id]

/-- A translator run ends with a status other than DONE (R270, R385): OUTLEN and PROVN are 0. -/
def rootEnd (s : State) (c : Nat) (r : RootRun) (status pc addr detail : Nat) : State :=
  rootStop s c r.req (fun q => [status, r.count % 2 ^ 32, 0, pc, addr, detail, q.outArea, q.provArea])

/-- A trap in root mode (R261): the cause and, where R270 names them, reason, address and detail. Log 51 (DEDUCED). -/
def rootTrap (s : State) (c : Nat) (r : RootRun) (t : Trap) (pc : Nat) : State :=
  let reason := if t.cause = cILLEGAL || t.cause = cTRANSL_OUTPUT then t.spec1 else 0
  let addr := if t.cause = cCONFINE || t.cause = cALIGN || t.cause = cTRANSL_OUTPUT || t.cause = cFAR_TRANSLATE ||
    t.cause = cFAR_PERMISSION then t.addr else 0
  let detail := if t.cause = cILLEGAL || t.cause = cTRANSL_OUTPUT then t.spec0 else 0
  rootEnd s c r (t.cause + reason * 2 ^ 16) pc addr detail

/-- R350: trap entry for BUDGET gives the handler 64 work units, and what was refused before is past. -/
def grace (s : State) (c : Nat) (t : Trap) : State :=
  if t.cause = cBUDGET then modCtx s c (fun x => { x with budget := w64 (x.charge.toNat + 64), refused := false }) else s

/-- R230: raising an attributed fault clears the token or channel that held it. -/
def clearHeld (s : State) (c : Nat) (t : Trap) : State :=
  match t.opc with
  | none => s
  | some _ =>
    if bitAt t.spec1 37 then modCtx s c (fun x => { x with chfault := x.chfault.set (chanIx (bitsAt t.spec1 35 2)) none })
    else
      let k : TokId := ⟨bitsAt t.spec1 32 3 % 8, by omega⟩
      modCtx s c (fun x => { x with tok := x.tok.set k { x.tok[k] with fault := none } })

/-- A context that traps out of a wait waits no more (R133, R136): its place among an object's waiters goes. -/
def unwait (s : State) (c : Nat) : State := if (getCtx s c).waiting then leaveObjects s c else s

/-- Taking a cause in a context outside a flock, `pc` the instruction that raised it or, after retirement, the next
(R363, R364). Uncorrectable errors are contained (R432); memory-core and root-mode traps end their order or run. Log 105 (DEDUCED). -/
def takeTrap (s0 : State) (c : Nat) (t : Trap) (pc : Nat) : State :=
  let s := unwait s0 c
  if t.cause = cUNCORRECTABLE then
    if isMem c && t.spec1 == 1 then containMem s c t.spec0 t.addr
    else
      match (if isMem c then ownerOf s c else some c) with
      | some o => containCtx s o t.spec0 t.addr t.far (t.spec1 == 1)
      | none => memFault s c t 0
  else if isMem c then memFault s c t 0
  else
    match (getCtx s c).root with
    | some r =>
      if t.cause = cMETER then postOnce (modCtx s c (fun x => { x with waiting := true })) .meter [c]
      else rootTrap s c r t pc
    | none =>
      if (getCtx s c).run ≠ 0 && t.cause = cBUDGET then failRun s c
      else
        let s1 := clearHeld (grace s c t) c t
        takeRec s1 c (mkRec s1 c t pc)

/-- A context's port write is no longer stalled (R128). -/
def noStall (s : State) (c : Nat) : State :=
  if (getCtx s c).stall.isNone then s else modCtx s c (fun x => { x with stall := none, notice := none })

/-- The members of the flock a context leads, itself first; a context outside a flock has none. -/
def flockOf (s : State) (c : Nat) : List Nat :=
  if wBits (getCtx s c).st 19 1 = 1 then
    match entOfCtx s c with
    | some e => e.members
    | none => []
  else []

/-- Contexts stop for a save in full, with no bitmaps (R370, R374). -/
def stopFull (s : State) (ms : List Nat) : State :=
  ms.foldl (fun s m => modCtx (haltIssue s m .saving) m (fun x => { x with hint := none, window := none })) s

/-- A flock that a member's fault stops at a phint which its leader has already retired and honoured is saved all the same, every member
in full and the leader at its handler (R246, R300, R370). Log 124 (DEDUCED). -/
def saveHeld (s : State) (leader : Nat) : State :=
  if (getCtx s leader).mode == .saving then stopFull s (flockOf s leader) else s

/-- A fault in member `i` of a flock (R300): the leader takes FLOCK. Log 17 (DEDUCED), 18 (DEDUCED). -/
def takeFlock (s : State) (leader member i : Nat) (t : Trap) (pc : Nat) : State :=
  if t.cause = cUNCORRECTABLE then containCtx s member t.spec0 t.addr t.far (t.spec1 == 1)
  else
    let s1 := clearHeld (grace (noStall ((flockOf s leader).foldl leaveObjects s) member) member t) member t
    let att := t.opc.isSome
    let f : Trap := ⟨cFLOCK, t.addr, t.far, i + 8 * bit att + t.cause % 2 ^ 16 * 2 ^ 16, if att then t.spec1 else t.spec0, none⟩
    let r := mkRec s1 leader f pc
    saveHeld (takeRec s1 leader { r with flags := r.flags + 8 }) leader

/-- The fields of a fault record at its address as tret reads them (R242): little-endian numbers of the newest bytes. -/
def recNat (s : State) (c a n : Nat) : Nat :=
  leNat ((List.range n).map (fun i => seenByte s c (phys c a + i)))

/-- The trap return of R242 with ST.IH = 1: the checks in order, then the new registers and the pc. Log 16 (DEDUCED). -/
def trapReturn (s : State) (c : Nat) : Except Trap (Ctx × Nat) :=
  let x := getCtx s c
  let r := x.tframe.toNat
  let fl := recNat s c (r + 2) 2
  let npc := if fl % 2 = 1 then recNat s c (r + 0x28) 8 else recNat s c (r + 0x10) 8
  let sv := recNat s c (r + 0x20) 8
  let pf := recNat s c (r + 0x38) 4
  if !mappedOk x c r 64 .load then .error (Trap.at cADDRESS r)
  else if r % 64 ≠ 0 then .error (Trap.at cALIGN r)
  else match poisonOwn s c r 64 with
  | some t => .error t
  | none =>
  if npc / 2 ^ 48 ≠ 0 then .error ⟨cADDRESS, npc, true, 0, 0, none⟩
  else if npc % 4 ≠ 0 then .error ⟨cALIGN, npc, true, 0, 0, none⟩
  else if bitsAt sv 4 3 > 4 then .error illegal11
  else if bitAt sv 3 && (bitsAt pf 26 6 ≠ 0x25 || bitsAt pf 14 3 > 5 || pf % 2 ^ 14 ≠ 0) then .error illegal11
  else
    let pick (i : Nat) (v : Vector Word 4) : Vector Word 4 :=
      Vector.ofFn (fun j : Fin 4 => x.shadow.getD (i + j.val) v[j])
    .ok ({ x with
      st := w64 (putBits (putBits (putBits x.st.toNat 4 15 (bitsAt sv 4 15)) 3 1 (bitsAt sv 3 1)) 23 1 0)
      pfx := if bitAt sv 3 then BitVec.ofNat 32 pf else 0
      ls := pick 0 x.ls
      le := pick 4 x.le
      lc := pick 8 x.lc }, npc)

/-- The return of R242 with ST.IH = 0, from supervisor or hypervisor mode. -/
def modeReturn (x : Ctx) : Except Trap (Ctx × Nat) :=
  let p := if privOf x = 1 then x.sepc.toNat else x.hepc.toNat
  let e := if privOf x = 1 then x.sest.toNat else x.hest.toNat
  if privOf x = 0 then .error illegal11
  else if privOf x ≤ e % 4 || p % 4 ≠ 0 then .error illegal11
  else .ok ({ x with st := w64 (putBits (putBits x.st.toNat 4 15 (bitsAt e 4 15)) 0 2 (e % 4)) }, p)

/- ---------------------------------------------------------------- issue -/

/-- The kinds of core an instruction executes on (R87). -/
inductive CoreKind where
  | compute | mem | both
  deriving DecidableEq, Repr

/-- What issue needs to know of an instruction: itself; its work units, none when its meaning charges (engine commands,
apx.beg); whether it takes formats (R83); its level; the cores it executes on; whether it is root only; whether it may
not end a loop body (R110); whether a flock's followers take the leader's outcome (R299) or retire it without effect or
charge (R235); its source register fields in the order they are served (R16); its destination field; its energy class
(R279). -/
structure Spec where
  i : Instr
  wu : Option Nat := some 1
  fmt : Bool := false
  level : Nat := 0
  kind : CoreKind := .both
  rootOnly : Bool := false
  noEnd : Bool := false
  lead : Bool := false
  leadOnly : Bool := false
  srcs : List Reg := []
  dst : Option Reg := none
  ecls : Nat := 0

/-- What an instruction's effect gives: the state, the result, a pc other than the next, the sticky flags it sets (bit 0
RG to bit 5 NV) and the mask of lanes or elements that set one (R141, R171), a trap after retirement, whether it ends the region (R326), whether it is an event of R390, and its
charge where its meaning charges. -/
structure Out where
  st : State
  val : Option Word := none
  pc : Option Nat := none
  flags : Nat := 0
  mask : Nat := 0
  after : Option Trap := none
  sync : Bool := false
  unv : Bool := false
  wu : Nat := 0

/-- An instruction's effect, from the values of its sources and the state; `cur` is the context. -/
abbrev Body := List Word → State → Res Out

/-- Steps 8 to 11 of R86. Log 32 (DEDUCED). -/
def legality (sp : Spec) (x : Ctx) (c : Nat) : Option Trap :=
  if sp.rootOnly && !isRoot x then some ⟨cILLEGAL, 0, false, 0, 7, none⟩
  else if (sp.kind == .compute && isMem c) || (sp.kind == .mem && !isMem c) then some ⟨cILLEGAL, 0, false, 0, 9, none⟩
  else if wBits x.st 3 1 = 1 && !sp.fmt then some ⟨cILLEGAL, 0, false, 0, 10, none⟩
  else if privOf x < sp.level then some ⟨cPRIVILEGE, 0, false, 0, sp.level, none⟩
  else none

/-- Whether an active body ends at an address (R109). -/
def bodyEnds (x : Ctx) (a : Nat) : Bool :=
  (List.finRange 4).any (fun l => x.lc[l] != 0 && x.le[l].toNat == a)

/-- The receive queues of a context's core; a memory core has none. Log 47 (DEDUCED). -/
def queuesOf (s : State) (c : Nat) : Vector (List PortWord) 4 :=
  if isMem c then Vector.replicate 4 [] else (getCore s (coreOf c)).rq

/-- The source fields served in order (R16): for each its value or, for a port, the word it would take if that stands in
the queue, and the queues without those words. -/
def gather (x : Ctx) : List Reg → Vector (List PortWord) 4 → List (Option Word × Option (Fin 4 × PortWord)) × Vector (List PortWord) 4
  | [], q => ([], q)
  | r :: rs, q =>
    match portOf r with
    | none => let (l, q1) := gather x rs q; ((some (getReg x r), none) :: l, q1)
    | some k =>
      match q[k] with
      | [] => let (l, q1) := gather x rs q; ((none, none) :: l, q1)
      | w :: t => let (l, q1) := gather x rs (q.set k t); ((some w.val, some (k, w)) :: l, q1)

/-- The first word that would be taken whose sender is sealed or retired (R434), as the trap it raises. -/
def lostWord (s : State) (ws : List (Option Word × Option (Fin 4 × PortWord))) : Option Trap :=
  ws.findSome? (fun p => match p.2 with
    | none => none
    | some (k, w) => if coreSealed s (coreOf w.src) then some ⟨cPEER_LOST, 16 + k.val, false, coreOf w.src, 0, none⟩ else none)

/-- The words of the queues that the fields take (R16). -/
def takenOf (ws : List (Option Word × Option (Fin 4 × PortWord))) : List (Fin 4 × PortWord) := ws.filterMap Prod.snd

/-- The destination core and queue of a binding (R125). -/
def bindCore (b : Word) : Nat := wBits b 0 14
def bindQueue (b : Word) : Fin 4 := ⟨wBits b 14 2 % 4, by omega⟩

/-- Whether a core's words may go to another core (R442): its own cluster, or a cluster in its permission table. -/
def permitted (s : State) (core dst : Nat) : Bool :=
  clusterOfCore core == clusterOfCore dst ||
    (getCluster s (clusterOfCore core)).perm.any (fun e =>
      e.1 == dst / 2048 && e.2.1 ≤ dst / 8 % 256 && dst / 8 % 256 ≤ e.2.2)

/-- Free entries of a receive queue, words on their way counted (R17). Log 47 (DEDUCED). -/
def freeIn (s : State) (dst : Nat) (q : Fin 4) : Nat :=
  8 - ((getCore s dst).rq[q].length + (s.wires.filter (fun w => w.2.1 == dst && w.2.2.1 == q.val)).length)

/-- The check of a port write (R17, R434, R128): ready, a trap, or stalled; `own` counts the words that the instruction
itself takes from each of its core's queues. Log 47 (DEDUCED). -/
def sendCheck (s : State) (c : Nat) (k : Fin 4) (own : Fin 4 → Nat) : Res Unit :=
  let x := getCtx s c
  let b := x.pbind[k]
  let dst := bindCore b
  if wBits b 63 1 = 0 || !permitted s (coreOf c) dst then .trap ⟨cADDRESS, 16 + k.val, false, k.val, 0, none⟩
  else if coreSealed s dst then .trap ⟨cPEER_LOST, 16 + k.val, false, dst, 0, none⟩
  else if freeIn s dst (bindQueue b) + (if dst = coreOf c then own (bindQueue b) else 0) = 0 then
    match x.notice with
    | some (o, n) => .trap ⟨cPORT_DEADLOCK, 16 + k.val, false, n, o, none⟩
    | none => .wait (modCtx s c (fun y => if y.stall = some k.val then y
        else { y with stall := some k.val, probeAt := dieCounter s c + Config.probeCycles }))
  else .ok ()

/-- R349: whether a charge would take CHARGE past BUDGET; memory-core programs are covered by their record. Log 73 (DEDUCED). -/
def overBudget (x : Ctx) (c wu : Nat) : Bool := !isMem c && decide (x.budget.toNat < x.charge.toNat + wu)

/-- R350: whether a context has left the handler of a BUDGET trap in which a budx was refused: its next charged instruction raises BUDGET
again. Log 139 (DEDUCED). -/
def owes (x : Ctx) : Bool := x.refused && wBits x.st 23 1 == 0

/-- R349, R350: the test of an instruction's charge. Log 73 (DEDUCED). -/
def budgetCheck (x : Ctx) (c wu : Nat) : Option Trap :=
  if overBudget x c wu || (owes x && wu != 0) then some ⟨cBUDGET, 0, false, wu, x.charge.toNat, none⟩ else none

/-- One word leaves a queue at retirement (R16): it is an acquire, it is counted, and its sender will hear of the room. -/
def popWord (s : State) (c : Nat) (k : Fin 4) (w : PortWord) : State :=
  let s1 := modCore s (coreOf c) (fun q => { q with rq := q.rq.set k (q.rq[k]).tail })
  let s2 := modCtx s1 c (fun x => { x with view := mergeView x.view w.view, recv := x.recv.set k (x.recv[k] + 1) })
  post { s2 with freeWires := s2.freeWires ++ [(coreOf c, coreOf w.src, k.val)] } .freeCountReport
    [coreOf c, coreOf w.src, k.val]

/-- One word sent through a port (R17, R126): a release, counted. -/
def sendWord (s : State) (c : Nat) (k : Fin 4) (v : Word) : State :=
  let s1 := drain s c
  let x := getCtx s1 c
  let b := x.pbind[k]
  let s2 := putCtx s1 c { x with sent := x.sent.set k (x.sent[k] + 1) }
  let q := (bindQueue b).val
  post { s2 with wires := s2.wires ++ [(coreOf c, bindCore b, q, ⟨v, c, x.view⟩)] } .portWordArrival
    [coreOf c, bindCore b, q]

/-- The result written to its destination field. -/
def writeDst (s : State) (c : Nat) (d : Option Reg) (v : Option Word) : State :=
  match d, v with
  | some r, some w =>
    match portOf r with
    | some k => sendWord s c k w
    | none => modCtx s c (fun x => setReg x r w)
  | _, _ => s

/-- The end-of-body rule of R109 for the levels listed, from the innermost. -/
def loopRule (x : Ctx) (a : Nat) : List (Fin 4) → Vector Word 4 → Vector Word 4 × Option Nat
  | [], lc => (lc, none)
  | l :: t, lc =>
    if lc[l] != 0 && x.le[l].toNat == a then
      let n := lc[l] - 1
      if n != 0 then (lc.set l n, some x.ls[l].toNat) else loopRule x a t (lc.set l n)
    else loopRule x a t lc

/-- The pJ of an instruction's class (R283); engine classes are charged by the engines. Log 11 (DEDUCED). -/
def pJ (ecls : Nat) : Nat := [4, 9, 14, 11].getD ecls 0

/-- What retirement does to the context's own registers (R89, R109, R161, R30): the pc, the loop counts, CHARGE, ECNT,
the prefix, the sticky flags, the counts of a translator run or a served order. Log 11 (DEDUCED). -/
def retireCtx (sp : Spec) (out : Out) (wu pc : Nat) (mem : Bool) (x : Ctx) : Ctx :=
  let nxt := out.pc.getD ((pc + 4) % 2 ^ 48)
  let lr := if sp.noEnd then (x.lc, none) else loopRule x pc [3, 2, 1, 0] x.lc
  let st1 := (if sp.fmt then putBits x.st.toNat 3 1 0 else x.st.toNat)
  { x with
    pc := pc48 (lr.2.getD nxt)
    lc := lr.1
    st := w64 (st1 ||| out.flags * 128)
    pfx := if sp.fmt then 0 else x.pfx
    charge := if mem then x.charge else w64 (x.charge.toNat + wu)
    ecnt := if mem then x.ecnt else BitVec.ofNat 48 (min (2 ^ 48 - 1) (x.ecnt.toNat + pJ sp.ecls))
    root := x.root.map (fun r => { r with count := r.count + 1 })
    serving := x.serving.map (fun v => { v with retired := v.retired + 1 })
    waiting := false
    stall := none
    notice := none }

/-- R309: the number of instructions after which a program that has not halted ends. Log 106 (DEDUCED). -/
def programLimit (v : Serving) : Nat := 64 + 2 * v.len

/-- Whether a context in root mode would retire past its meter (R262). Log 78 (DEDUCED). -/
def meterFull (x : Ctx) : Bool :=
  match x.root with
  | some r => r.limit ≤ r.count
  | none => false

/-- R309: a served program that has not halted ends when it reaches its limit. Log 106 (DEDUCED). -/
def checkLimit (s : State) (c : Nat) : State :=
  match (getCtx s c).serving with
  | some v => if programLimit v ≤ v.retired && !v.halted then postOnce s .programInstructionLimit [c] else s
  | none => s

/-- Whether a result goes out through a port (R17). -/
def sendsPort (sp : Spec) (out : Out) : Bool :=
  match sp.dst with
  | some r => (portOf r).isSome && out.val.isSome
  | none => false

/-- Retirement of an instruction whose effect is done (R89): words leave their queues, the result is written, registers
change, the region ends where the instruction synchronises; an event of R390 marks the task. Log 126 (DESIGN CHOICE). -/
def retire (sp : Spec) (c pc : Nat) (taken : List (Fin 4 × PortWord)) (out : Out) : State :=
  let ports := !taken.isEmpty || sendsPort sp out
  let s1 := taken.foldl (fun s p => popWord s c p.1 p.2) out.st
  let s2 := modCtx (writeDst s1 c sp.dst out.val) c (retireCtx sp out (sp.wu.getD out.wu) pc (isMem c))
  let s3 := checkLimit (if out.sync || ports then endRegion s2 c else s2) c
  if out.unv || ports then markUnv s3 c else s3

/-- An operand trap completed at its instruction: ILLEGAL and PRIVILEGE records hold the word (R86). -/
def fillWord (word : Nat) (t : Trap) : Trap :=
  if t.cause = cILLEGAL || t.cause = cPRIVILEGE then { t with spec0 := word } else t

/-- Whether the flags an instruction sets are trapped after retirement, and the trap (R30). Log 109 (DESIGN CHOICE). -/
def fpTrap (x : Ctx) (flags mask : Nat) : Option Trap :=
  if flags &&& bitsAt x.st.toNat 13 6 = 0 then none else some ⟨cFP, 0, false, flags * 128, mask, none⟩

/-- One context's attempt at an instruction: its state after retirement and a trap that follows it, a trap that leaves no
effect, or a wait. -/
def attempt (sp : Spec) (body : Body) (s : State) (c : Nat) : Res (State × Option Trap) :=
  let x := getCtx s c
  let pc := x.pc.toNat
  match legality sp x c with
  | some t => .trap t
  | none =>
    if sp.noEnd && bodyEnds x pc then .trap illegal11
    else
      let (ws, _) := gather x sp.srcs (queuesOf s c)
      match lostWord s ws with
      | some t => .trap t
      | none =>
        if ws.any (fun p => p.1.isNone) then .wait (noStall s c)
        else
          let taken := takenOf ws
          let own (q : Fin 4) : Nat := (taken.filter (fun p => p.1 == q)).length
          Res.bind (match sp.dst.bind portOf with
            | some k => sendCheck s c k own
            | none => .ok ()) fun _ =>
          match sp.wu.bind (budgetCheck x c) with
          | some t => .trap t
          | none =>
            Res.bind ((body (ws.filterMap Prod.fst) { s with cur := c }).onWait (fun s1 => noStall s1 c)) fun out =>
            if meterFull x then .trap ⟨cMETER, 0, false, 0, 0, none⟩
            else
              .ok (retire sp c pc taken out,
                match fpTrap x out.flags out.mask with
                | some t => some t
                | none => out.after)

/-- The effect of an instruction whose outcome a follower takes from its leader. Log 18 (DEDUCED). -/
def noEffect : Body := fun _ s => .ok { st := s }

/-- Whether a context in a mode issues: it holds a task and no stop has come into effect (R369, R370). -/
def issuing (m : RunMode) : Bool := m == .running || m == .stopping

/-- A context waits: the wait's beginning is kept (R88). Log 6 (DESIGN CHOICE). -/
def markWait (s : State) (c : Nat) : State :=
  let now := dieCounter s c
  modCtx s c (fun x => if x.waiting || !issuing x.mode then x else { x with waiting := true, waitSince := now })

/-- Followers take their leader's pc and loop state (R113, R299). Log 18 (DEDUCED). -/
def followLeader (s : State) (leader : Nat) (ms : List Nat) : State :=
  let l := getCtx s leader
  ms.foldl (fun s m => modCtx s m (fun x => { x with pc := l.pc, ls := l.ls, le := l.le, lc := l.lc, waiting := false })) s

/-- Of the members of a flock only the one that waits may be stalled (R128). -/
def unstall (s : State) (ms : List Nat) (m : Nat) : State := ms.foldl (fun s c => if c = m then s else noStall s c) s

/-- A member held by what an earlier member's part of the instruction leaves is stalled as its own attempt found it (R128). -/
def stallLike (s : State) (x : Ctx) (m : Nat) : State :=
  modCtx s m (fun y => { y with stall := x.stall, probeAt := x.probeAt, notice := if x.stall.isNone then none else y.notice })

/-- The members of a flock attempt an instruction in index order (R299, R300). Log 18 (DEDUCED). -/
def flockRun (sp : Spec) (body : Body) (word pc leader : Nat) (s0 : State) : List (Nat × Nat) → State → State
  | [], s => s
  | (i, m) :: rest, s =>
    let sp1 := if i ≠ 0 && sp.leadOnly then { sp with wu := some 0, srcs := [], dst := none } else sp
    let b := if i ≠ 0 && (sp.lead || sp.leadOnly) then noEffect else body
    match attempt sp1 b s m with
    | .trap t => takeFlock s leader m i (fillWord word t) pc
    | .wait s2 =>
      match attempt sp1 b s0 m with
      | .wait s1 => markWait (unstall s1 (flockOf s0 leader) m) leader
      | _ => markWait (stallLike (unstall s0 (flockOf s0 leader) m) (getCtx s2 m) m) leader
    | .ok (s1, some t) => takeFlock s1 leader m i (fillWord word t) pc
    | .ok (s1, none) => flockRun sp body word pc leader s0 rest s1

/-- An instruction of a single context, or of a flock's leader alone in its handler. -/
def issueOne (sp : Spec) (body : Body) (word : Nat) (s : State) (c : Nat) : State :=
  match attempt sp body s c with
  | .ok (s1, none) => s1
  | .ok (s1, some t) =>
    if issuing (getCtx s1 c).mode then takeTrap s1 c (fillWord word t) (getCtx s1 c).pc.toNat else s1
  | .trap t => takeTrap s c (fillWord word t) (getCtx s c).pc.toNat
  | .wait s1 => markWait s1 c

/-- The issue of an instruction by the context that issues. Log 17 (DEDUCED), 18 (DEDUCED). -/
def issueWord (word : Nat) (sp : Spec) (body : Body) (s : State) : State :=
  let c := s.cur
  let ms := flockOf s c
  if ms.length ≤ 1 then issueOne sp body word s c
  else if wBits (getCtx s c).st 23 1 = 1 then
    match attempt sp body s c with
    | .trap t => takeFlock s c c 0 (fillWord word t) (getCtx s c).pc.toNat
    | .wait s1 => markWait s1 c
    | .ok (s1, some t) => takeFlock s1 c c 0 (fillWord word t) (getCtx s c).pc.toNat
    | .ok (s1, none) =>
      if wBits (getCtx s1 c).st 23 1 = 0 then followLeader s1 c ms.tail else s1
  else
    let s1 := flockRun sp body word (getCtx s c).pc.toNat c s (ms.zipIdx.map (fun p => (p.2, p.1))) s
    if wBits (getCtx s1 c).st 23 1 = 1 then s1 else followLeader s1 c ms.tail

/-- The outcome of an instruction: the part never stops at one. -/
def issue (sp : Spec) (body : Body) (s : State) : Host.Outcome State Fault Refusal :=
  .next (issueWord ((encodeNat sp.i).getD 0) sp body s)

/-- An event's outcome. -/
def happens (f : State → State) (s : State) : Host.Outcome State Fault Refusal := .next (f s)

/-- Number `i` of what an event names. -/
def argN (s : State) (i : Nat) : Nat := s.arg.ns.getD i 0

/-- The value of source field `i`. -/
def src (ws : List Word) (i : Nat) : Word := ws.getD i 0

/-- An effect that writes a result and nothing else. -/
def result (s : State) (v : Word) : Res Out := .ok { st := s, val := some v }

/-- An effect that changes the context that issues. -/
def setCur (s : State) (f : Ctx → Ctx) : State := modCtx s s.cur f

end Sys2Proof.Machine
end

