-- ==== Sys2Proof/Machine/Operands.lean ====
section
/-! DEFINITION. Operand forms: immediates and displacements (R69), effective addresses (R115), lanes of a SIMD register
(R18), and integers of a width (R93). -/

namespace Sys2Proof.Machine

/-- A raw field of `n` bits, sign-extended. -/
def sx (n v : Nat) : Int := signedBits v n

/-- The target of a displacement in instructions from a pc (R69, R102). -/
def dispTarget (pc n v : Nat) : Nat := (((pc : Int) + sx n v * 4) % 2 ^ 48).toNat

/-- The effective address of a base and an offset in bytes (R115, R138). -/
def effAddr (base : Word) (off : Int) : Nat := (((base.toNat : Int) + off) % 2 ^ 64).toNat

/-- The signed reading of a register at a width (R93). -/
def sW (wd : Width) (x : Word) : Int := signedBits x.toNat wd.bits

/-- The unsigned reading of a register at a width (R93). -/
def uW (wd : Width) (x : Word) : Nat := lowBits x.toNat wd.bits

/-- A result of a width, written sign-extended to 64 bits (R93). -/
def outW (wd : Width) (v : Int) : Word := wInt (signedBits (wrapInt v wd.bits) wd.bits)

/-- The nearest number within bounds. -/
def clampInt (v lo hi : Int) : Int := if v < lo then lo else if hi < v then hi else v

/-- A result under a saturation mode (R95): `f` the exact operation on integers. -/
def satW (sat : Sat) (wd : Width) (a b : Word) (f : Int → Int → Int) : Word :=
  match sat with
  | .wrap => outW wd (f (sW wd a) (sW wd b))
  | .sats => outW wd (clampInt (f (sW wd a) (sW wd b)) (-(2 ^ (wd.bits - 1))) (2 ^ (wd.bits - 1) - 1))
  | .satu => outW wd (clampInt (f (uW wd a) (uW wd b)) 0 (2 ^ wd.bits - 1))

/-- A SIMD register of a context. -/
def getV (x : Ctx) (v : VReg) : BitVec 128 := x.v[v]

/-- A SIMD register written. -/
def setV (x : Ctx) (v : VReg) (d : BitVec 128) : Ctx := { x with v := x.v.set v d }

/-- Lane `i` of a register with lanes of `w` bits, as a number (R18). -/
def lane (v : BitVec 128) (w i : Nat) : Nat := bitsAt v.toNat (i * w) w

/-- Every lane of a register. -/
def lanes (v : BitVec 128) (w : Nat) : List Nat := (List.range (128 / w)).map (lane v w)

/-- The register whose lanes of `w` bits are the numbers listed, lane 0 first. -/
def packLanes (w : Nat) (l : List Nat) : BitVec 128 :=
  BitVec.ofNat 128 (l.foldr (fun x n => x % 2 ^ w + n * 2 ^ w) 0)

/-- A general register of a root form (R85). -/
def kreg (r : KReg) : Reg := ⟨r.val, by omega⟩

/-- The register after a register, for a pair or a run of sources. -/
def regPlus (r : Reg) (i : Nat) : Reg := ⟨(r.val + i) % 32, by omega⟩

/-- The context that issues. -/
def cx (s : State) : Ctx := getCtx s s.cur

/-- The pc of the context that issues. -/
def pcNow (s : State) : Nat := (cx s).pc.toNat

end Sys2Proof.Machine
end

