-- ==== Sys2Proof/Machine/Alu.lean ====
section
/-! DEFINITION. Scalar arithmetic, immediates, unary and bit-field operations (R92 to R101). -/

namespace Sys2Proof.Machine

/-- A shift or rotate count (R93). -/
def shCount (wd : Width) (b : Word) : Nat := uW wd b % wd.bits

/-- Truncating division of integers (R94). -/
def truncDiv (a b : Int) : Int := Int.tdiv a b

/-- div with the cases of R96. -/
def divS (wd : Width) (a b : Word) : Word :=
  if sW wd b = 0 then outW wd (-1) else outW wd (truncDiv (sW wd a) (sW wd b))

/-- divu with the case of R96. -/
def divU (wd : Width) (a b : Word) : Word :=
  if uW wd b = 0 then outW wd (2 ^ wd.bits - 1) else outW wd ((uW wd a / uW wd b : Nat) : Int)

/-- rem with the cases of R96. -/
def remS (wd : Width) (a b : Word) : Word :=
  if sW wd b = 0 then outW wd (sW wd a) else outW wd (sW wd a - sW wd b * truncDiv (sW wd a) (sW wd b))

/-- remu with the case of R96. -/
def remU (wd : Width) (a b : Word) : Word :=
  if uW wd b = 0 then outW wd (uW wd a) else outW wd ((uW wd a % uW wd b : Nat) : Int)

/-- Rotation right (R94). -/
def rotR (wd : Width) (a : Word) (n : Nat) : Word :=
  outW wd ((uW wd a / 2 ^ n + uW wd a * 2 ^ (wd.bits - n) : Nat) : Int)

/-- shl by a count. -/
def shlW (wd : Width) (a : Word) (n : Nat) : Word := outW wd ((uW wd a * 2 ^ n : Nat) : Int)

/-- shr by a count. -/
def shrW (wd : Width) (a : Word) (n : Nat) : Word := outW wd ((uW wd a / 2 ^ n : Nat) : Int)

/-- sar by a count. -/
def sarW (wd : Width) (a : Word) (n : Nat) : Word := outW wd (sW wd a / 2 ^ n)

/-- An integer operation of two registers. -/
def alu (i : Instr) (wu : Nat) (d a b : Reg) (f : Word → Word → Word) (s : State) : Host.Outcome State Fault Refusal :=
  issue { i := i, wu := some wu, srcs := [a, b], dst := some d } (fun ws s => result s (f (src ws 0) (src ws 1))) s

/-- An integer operation of one register. -/
def alu1 (i : Instr) (d a : Reg) (f : Word → Word) (s : State) : Host.Outcome State Fault Refusal :=
  issue { i := i, srcs := [a], dst := some d } (fun ws s => result s (f (src ws 0))) s

/-- 1 for true (R94, seq to sltu). -/
def bool01 (b : Bool) : Word := if b then 1 else 0

/-- The result of add (R94, R95). -/
def addVal (sat : Sat) (wd : Width) (a b : Word) : Word := satW sat wd a b (· + ·)

/-- The result bit that an armed fault inverts in an add of the context (R406). -/
def armedBit (s : State) : Option Nat :=
  if isMem s.cur || privOf (cx s) ≠ 0 || isRoot (cx s) then none else (getCore s (coreOf s.cur)).armed

/-- The effect of add: the result, or with an armed fault the result with one bit inverted and the fault spent (R406). -/
def addBody (sat : Sat) (wd : Width) : Body := fun ws s =>
  let v := addVal sat wd (src ws 0) (src ws 1)
  match armedBit s with
  | none => result s v
  | some k => result (modCore s (coreOf s.cur) (fun c => { c with armed := none })) (v ^^^ w64 (2 ^ k))

def execAdd (d a b : Reg) (sat : Sat) (wd : Width) (s : State) : Host.Outcome State Fault Refusal :=
  issue { i := .add d a b sat wd, srcs := [a, b], dst := some d } (addBody sat wd) s

def execSub (d a b : Reg) (sat : Sat) (wd : Width) (s : State) : Host.Outcome State Fault Refusal :=
  alu (.sub d a b sat wd) 1 d a b (fun x y => satW sat wd x y (· - ·)) s

def execMul (d a b : Reg) (sat : Sat) (wd : Width) (s : State) : Host.Outcome State Fault Refusal :=
  alu (.mul d a b sat wd) 2 d a b (fun x y => satW sat wd x y (· * ·)) s

def execMulh (d a b : Reg) (wd : Width) (s : State) : Host.Outcome State Fault Refusal :=
  alu (.mulh d a b wd) 2 d a b (fun x y => outW wd (sW wd x * sW wd y / 2 ^ wd.bits)) s

def execMulhu (d a b : Reg) (wd : Width) (s : State) : Host.Outcome State Fault Refusal :=
  alu (.mulhu d a b wd) 2 d a b (fun x y => outW wd ((uW wd x * uW wd y / 2 ^ wd.bits : Nat) : Int)) s

def execDiv (d a b : Reg) (wd : Width) (s : State) : Host.Outcome State Fault Refusal :=
  alu (.div d a b wd) 16 d a b (divS wd) s

def execDivu (d a b : Reg) (wd : Width) (s : State) : Host.Outcome State Fault Refusal :=
  alu (.divu d a b wd) 16 d a b (divU wd) s

def execRem (d a b : Reg) (wd : Width) (s : State) : Host.Outcome State Fault Refusal :=
  alu (.rem d a b wd) 16 d a b (remS wd) s

def execRemu (d a b : Reg) (wd : Width) (s : State) : Host.Outcome State Fault Refusal :=
  alu (.remu d a b wd) 16 d a b (remU wd) s

def execAnd (d a b : Reg) (wd : Width) (s : State) : Host.Outcome State Fault Refusal :=
  alu (.and d a b wd) 1 d a b (fun x y => outW wd ((x &&& y).toNat : Int)) s

def execOr (d a b : Reg) (wd : Width) (s : State) : Host.Outcome State Fault Refusal :=
  alu (.or d a b wd) 1 d a b (fun x y => outW wd ((x ||| y).toNat : Int)) s

def execXor (d a b : Reg) (wd : Width) (s : State) : Host.Outcome State Fault Refusal :=
  alu (.xor d a b wd) 1 d a b (fun x y => outW wd ((x ^^^ y).toNat : Int)) s

def execAndn (d a b : Reg) (wd : Width) (s : State) : Host.Outcome State Fault Refusal :=
  alu (.andn d a b wd) 1 d a b (fun x y => outW wd ((x &&& ~~~y).toNat : Int)) s

def execShl (d a b : Reg) (wd : Width) (s : State) : Host.Outcome State Fault Refusal :=
  alu (.shl d a b wd) 1 d a b (fun x y => shlW wd x (shCount wd y)) s

def execShr (d a b : Reg) (wd : Width) (s : State) : Host.Outcome State Fault Refusal :=
  alu (.shr d a b wd) 1 d a b (fun x y => shrW wd x (shCount wd y)) s

def execSar (d a b : Reg) (wd : Width) (s : State) : Host.Outcome State Fault Refusal :=
  alu (.sar d a b wd) 1 d a b (fun x y => sarW wd x (shCount wd y)) s

def execRot (d a b : Reg) (wd : Width) (s : State) : Host.Outcome State Fault Refusal :=
  alu (.rot d a b wd) 1 d a b (fun x y => rotR wd x (shCount wd y)) s

def execMin (d a b : Reg) (wd : Width) (s : State) : Host.Outcome State Fault Refusal :=
  alu (.min d a b wd) 1 d a b (fun x y => outW wd (min (sW wd x) (sW wd y))) s

def execMax (d a b : Reg) (wd : Width) (s : State) : Host.Outcome State Fault Refusal :=
  alu (.max d a b wd) 1 d a b (fun x y => outW wd (max (sW wd x) (sW wd y))) s

def execMinu (d a b : Reg) (wd : Width) (s : State) : Host.Outcome State Fault Refusal :=
  alu (.minu d a b wd) 1 d a b (fun x y => outW wd ((min (uW wd x) (uW wd y) : Nat) : Int)) s

def execMaxu (d a b : Reg) (wd : Width) (s : State) : Host.Outcome State Fault Refusal :=
  alu (.maxu d a b wd) 1 d a b (fun x y => outW wd ((max (uW wd x) (uW wd y) : Nat) : Int)) s

def execSeq (d a b : Reg) (wd : Width) (s : State) : Host.Outcome State Fault Refusal :=
  alu (.seq d a b wd) 1 d a b (fun x y => bool01 (uW wd x == uW wd y)) s

def execSne (d a b : Reg) (wd : Width) (s : State) : Host.Outcome State Fault Refusal :=
  alu (.sne d a b wd) 1 d a b (fun x y => bool01 (uW wd x != uW wd y)) s

def execSlt (d a b : Reg) (wd : Width) (s : State) : Host.Outcome State Fault Refusal :=
  alu (.slt d a b wd) 1 d a b (fun x y => bool01 (sW wd x < sW wd y)) s

def execSltu (d a b : Reg) (wd : Width) (s : State) : Host.Outcome State Fault Refusal :=
  alu (.sltu d a b wd) 1 d a b (fun x y => bool01 (uW wd x < uW wd y)) s

/-- R97: fields served a, b, c. -/
def execSel (d a b c : Reg) (s : State) : Host.Outcome State Fault Refusal :=
  issue { i := .sel d a b c, srcs := [a, b, c], dst := some d }
    (fun ws s => result s (if src ws 2 ≠ 0 then src ws 0 else src ws 1)) s

/-- R98. -/
def addiVal (imm : Nat) (x : Word) : Word := wInt ((x.toNat : Int) + sx 16 imm)

def execAddi (d a : Reg) (i : Fin 65536) (s : State) : Host.Outcome State Fault Refusal :=
  alu1 (.addi d a i) d a (addiVal i.val) s

def execAndi (d a : Reg) (i : Fin 65536) (s : State) : Host.Outcome State Fault Refusal :=
  alu1 (.andi d a i) d a (fun x => x &&& w64 i.val) s

def execOri (d a : Reg) (i : Fin 65536) (s : State) : Host.Outcome State Fault Refusal :=
  alu1 (.ori d a i) d a (fun x => x ||| w64 i.val) s

def execXori (d a : Reg) (i : Fin 65536) (s : State) : Host.Outcome State Fault Refusal :=
  alu1 (.xori d a i) d a (fun x => x ^^^ w64 i.val) s

def execShli (d a : Reg) (n : Fin 64) (s : State) : Host.Outcome State Fault Refusal :=
  alu1 (.shli d a n) d a (fun x => shlW .d x n.val) s

def execShri (d a : Reg) (n : Fin 64) (s : State) : Host.Outcome State Fault Refusal :=
  alu1 (.shri d a n) d a (fun x => shrW .d x n.val) s

def execSari (d a : Reg) (n : Fin 64) (s : State) : Host.Outcome State Fault Refusal :=
  alu1 (.sari d a n) d a (fun x => sarW .d x n.val) s

def execRoti (d a : Reg) (n : Fin 64) (s : State) : Host.Outcome State Fault Refusal :=
  alu1 (.roti d a n) d a (fun x => rotR .d x n.val) s

/-- R100: one chunk of a register replaced. -/
def insertChunk (v : Word) (k c : Nat) : Word := w64 (putBits v.toNat (16 * k) 16 c)

def execLdk (d : Reg) (k : Fin 4) (c : Fin 65536) (s : State) : Host.Outcome State Fault Refusal :=
  alu1 (.ldk d k c) d d (fun v => insertChunk v k.val c.val) s

def execMov (d a : Reg) (s : State) : Host.Outcome State Fault Refusal := alu1 (.mov d a) d a id s

/-- The number of leading zero bits of a number of `n` bits. -/
def clzN : Nat → Nat → Nat
  | 0, _ => 0
  | n + 1, x => if bitAt x n then 0 else clzN n x + 1

/-- The number of trailing zero bits among `n` bits. -/
def ctzN : Nat → Nat → Nat
  | 0, _ => 0
  | n + 1, x => if x % 2 = 1 then 0 else ctzN n (x / 2) + 1

def execClz (d a : Reg) (s : State) : Host.Outcome State Fault Refusal :=
  alu1 (.clz d a) d a (fun x => w64 (clzN 64 x.toNat)) s

def execCtz (d a : Reg) (s : State) : Host.Outcome State Fault Refusal :=
  alu1 (.ctz d a) d a (fun x => w64 (ctzN 64 x.toNat)) s

def execPopc (d a : Reg) (s : State) : Host.Outcome State Fault Refusal :=
  alu1 (.popc d a) d a (fun x => w64 (popCount 64 x.toNat)) s

def execExt (d a : Reg) (z : Bool) (wd : Width) (s : State) : Host.Outcome State Fault Refusal :=
  alu1 (.ext d a z wd) d a (fun x => if z then w64 (uW wd x) else wInt (sW wd x)) s

/-- R101: LEN is l + 1. -/
def bfxVal (l : Nat) (sgn : Bool) (p : Nat) (x : Word) : Word :=
  if sgn then wInt (signedBits (wBits x p (l + 1)) (l + 1)) else w64 (wBits x p (l + 1))

def execBfx (d a : Reg) (l : Fin 64) (sg : Bool) (p : Fin 64) (s : State) : Host.Outcome State Fault Refusal :=
  alu1 (.bfx d a l sg p) d a (bfxVal l.val sg p.val) s

/-- R101: a is served first, d second. -/
def execBfi (d a : Reg) (l p : Fin 64) (s : State) : Host.Outcome State Fault Refusal :=
  alu (.bfi d a l p) 1 d a d (fun x y => w64 (putBits y.toNat p.val (l.val + 1) x.toNat)) s

end Sys2Proof.Machine
end

