-- ==== Sys2Proof/Machine/Branch.lean ====
section
/-! DEFINITION. Branches, jumps, calls and hardware loops (R102 to R113). -/

namespace Sys2Proof.Machine

/-- A target outside the translator section in root mode (R260). -/
def confined (s : State) (t : Nat) : Option Trap :=
  match (cx s).root with
  | some r => if inSection r t then none else some ⟨cCONFINE, t, true, 0, 0, none⟩
  | none => none

/-- A transfer to a target (R102, R103), with a link or without. -/
def goto (s : State) (t : Nat) (link : Option Word) : Res Out :=
  match confined s t with
  | some f => .trap f
  | none => .ok { st := s, pc := some t, val := link }

/-- The link of a call (R103). -/
def linkOf (s : State) : Word := w64 ((pcNow s + 4) % 2 ^ 48)

/-- A conditional branch (R102). -/
def branch (i : Instr) (a b : Reg) (disp : Nat) (p : Word → Word → Bool) (s : State) : Host.Outcome State Fault Refusal :=
  issue { i := i, noEnd := true, lead := true, srcs := [a, b] }
    (fun ws s => if p (src ws 0) (src ws 1) then goto s (dispTarget (pcNow s) 16 disp) none else .ok { st := s }) s

/-- The check of a register target, in root mode first that it lies in the section (R104, R260), then the transfer.
Log 16 (DEDUCED), 78 (DEDUCED). -/
def jumpReg (s : State) (t : Word) (link : Option Word) : Res Out :=
  match confined s t.toNat with
  | some f => .trap f
  | none =>
    if wBits t 48 16 ≠ 0 then .trap ⟨cADDRESS, t.toNat, true, 0, 0, none⟩
    else if wBits t 0 2 ≠ 0 then .trap ⟨cALIGN, t.toNat, true, 0, 0, none⟩
    else goto s t.toNat link

/-- Signed less-than over 64 bits. -/
def sLt (x y : Word) : Bool := sW .d x < sW .d y

def execBeq (a b : Reg) (i : Fin 65536) (s : State) : Host.Outcome State Fault Refusal :=
  branch (.beq a b i) a b i.val (fun x y => x == y) s

def execBne (a b : Reg) (i : Fin 65536) (s : State) : Host.Outcome State Fault Refusal :=
  branch (.bne a b i) a b i.val (fun x y => x != y) s

def execBlt (a b : Reg) (i : Fin 65536) (s : State) : Host.Outcome State Fault Refusal :=
  branch (.blt a b i) a b i.val sLt s

def execBge (a b : Reg) (i : Fin 65536) (s : State) : Host.Outcome State Fault Refusal :=
  branch (.bge a b i) a b i.val (fun x y => !sLt x y) s

def execBltu (a b : Reg) (i : Fin 65536) (s : State) : Host.Outcome State Fault Refusal :=
  branch (.bltu a b i) a b i.val (fun x y => x.toNat < y.toNat) s

def execBgeu (a b : Reg) (i : Fin 65536) (s : State) : Host.Outcome State Fault Refusal :=
  branch (.bgeu a b i) a b i.val (fun x y => y.toNat ≤ x.toNat) s

def execJmp (i : Fin 67108864) (s : State) : Host.Outcome State Fault Refusal :=
  issue { i := .jmp i, noEnd := true, lead := true } (fun _ s => goto s (dispTarget (pcNow s) 26 i.val) none) s

/-- The effect of call: g1 is written in every member of a flock. -/
def callBody (disp : Nat) : Body := fun _ s => goto s (dispTarget (pcNow s) 26 disp) (some (linkOf s))

def execCall (i : Fin 67108864) (s : State) : Host.Outcome State Fault Refusal :=
  issue { i := .call i, noEnd := true, dst := some 1 } (callBody i.val) s

def execJr (a : Reg) (s : State) : Host.Outcome State Fault Refusal :=
  issue { i := .jr a, noEnd := true, lead := true, srcs := [a] } (fun ws s => jumpReg s (src ws 0) none) s

/-- Whether the context that issues follows a flock's leader (R299). -/
def isFollower (s : State) : Bool := (cx s).follower

/-- R103, R299: a follower writes its link and discards its own target. -/
def execCallr (d a : Reg) (s : State) : Host.Outcome State Fault Refusal :=
  issue { i := .callr d a, noEnd := true, srcs := [a], dst := some d }
    (fun ws s => if isFollower s then .ok { st := s, val := some (linkOf s) } else jumpReg s (src ws 0) (some (linkOf s))) s

def execRet (s : State) : Host.Outcome State Fault Refusal :=
  issue { i := .ret, noEnd := true, lead := true, srcs := [1] } (fun ws s => jumpReg s (src ws 0) none) s

/-- Whether a level is active (R26). -/
def active (x : Ctx) (l : Fin 4) : Bool := x.lc[l] != 0

/-- R108: a loop may be entered at a level for a body from `first` to `last`. -/
def loopEntryOk (x : Ctx) (l : Fin 4) (first last : Nat) : Bool :=
  (List.finRange 4).all (fun j =>
    if j.val < l.val then !active x j || (x.ls[j].toNat ≤ first && last ≤ x.le[j].toNat) else !active x j) &&
  decide (last < 2 ^ 48)

/-- The effect of loop (R107); len is n + 1. -/
def loopBody (l : Fin 4) (n : Nat) : Body := fun ws s =>
  let p := pcNow s
  let first := p + 4
  let last := p + 4 * (n + 1)
  if !loopEntryOk (cx s) l first last then .trap illegal11
  else if src ws 0 = 0 then .ok { st := s, pc := some ((last + 4) % 2 ^ 48) }
  else .ok { st := setCur s (fun x => { x with
               ls := x.ls.set l (w64 first), le := x.le.set l (w64 last), lc := x.lc.set l (src ws 0) }) }

def execLoop (l : Fin 4) (c : Reg) (n : Fin 4096) (s : State) : Host.Outcome State Fault Refusal :=
  issue { i := .loop l c n, lead := true, srcs := [c] } (loopBody l n.val) s

/-- The effect of loopx (R111): levels from `l` to 3 end. -/
def loopxBody (l : Nat) : Body := fun _ s =>
  .ok { st := setCur s (fun x => { x with lc := Vector.ofFn (fun j : Fin 4 => if l ≤ j.val then 0 else x.lc[j]) }) }

def execLoopx0 (s : State) : Host.Outcome State Fault Refusal := issue { i := .loopx0, lead := true } (loopxBody 0) s
def execLoopx1 (s : State) : Host.Outcome State Fault Refusal := issue { i := .loopx1, lead := true } (loopxBody 1) s
def execLoopx2 (s : State) : Host.Outcome State Fault Refusal := issue { i := .loopx2, lead := true } (loopxBody 2) s
def execLoopx3 (s : State) : Host.Outcome State Fault Refusal := issue { i := .loopx3, lead := true } (loopxBody 3) s

end Sys2Proof.Machine
end

