-- ==== Sys2Proof/Machine/Crypto.lean ====
section
/-! DEFINITION. The security engine (R7): ECDSA on P-521 with SHA-512 (R275, R443, R460, R461) and AES-256-XTS (R446). -/

namespace Sys2Proof.Machine

/- ---------------------------------------------------------------- P-521 -/

/-- The prime of P-521, its coefficient b and its order (R275). Log 137 (PRESUMED). -/
def p521 : Nat := 2 ^ 521 - 1
def b521 : Nat :=
  0x0051953EB9618E1C9A1F929A21A0B68540EEA2DA725B99B315F3B8B489918EF109E156193951EC7E937B1652C0BD3BB1BF073573DF883D2C34F1EF451FD46B503F00
def n521 : Nat :=
  0x1FFFFFFFFFFFFFFFFFFFFFFFFFFFFFFFFFFFFFFFFFFFFFFFFFFFFFFFFFFFFFFFFFA51868783BF2F966B7FCC0148F709A5D03BB5C9B8899C47AEBB6FB71E91386409

/-- A point of the curve: the coordinates x / z² and y / z³; the point at infinity has z = 0. -/
structure Point where
  x : Nat
  y : Nat
  z : Nat
  deriving DecidableEq, Repr

/-- The generator. Log 137 (PRESUMED). -/
def g521 : Point :=
  ⟨0x00C6858E06B70404E9CD9E3ECB662395B4429C648139053FB521F828AF606B4D3DBAA14B5E77EFE75928FE1DC127A2FFA8DE3348B3C1856A429BF97E7E31C2E5BD66,
   0x011839296A789A3BC0045C8A5FB42C7D1BD998F54449579B446817AFBD17273E662C97EE72995EF42640C550B9013FAD0761353C7086A272C24088BE94769FD16650, 1⟩

/-- `b ^ e` modulo `m`, over the low `n` bits of `e`. -/
def powMod (m : Nat) : Nat → Nat → Nat → Nat
  | 0, _, _ => 1 % m
  | n + 1, b, e =>
    let r := powMod m n (b * b % m) (e / 2)
    if e % 2 = 1 then r * b % m else r

/-- The inverse modulo a prime of 521 bits. -/
def invMod (m a : Nat) : Nat := powMod m 521 (a % m) (m - 2)

/-- A product and a difference modulo the prime of P-521. -/
def mul521 (a b : Nat) : Nat := a * b % p521
def sub521 (a b : Nat) : Nat := (a + p521 - b) % p521

/-- The first coordinate of a point other than the one at infinity. -/
def affineX (p : Point) : Nat := let i := invMod p521 p.z; mul521 p.x (mul521 i i)

/-- Twice a point of the curve, along its tangent. -/
def doublePoint (p : Point) : Point :=
  let g := mul521 p.y p.y
  let b := mul521 p.x g
  let d := mul521 p.z p.z
  let a := mul521 3 (mul521 (sub521 p.x d) (p.x + d))
  let x := sub521 (mul521 a a) (8 * b % p521)
  ⟨x, sub521 (mul521 a (sub521 (4 * b % p521) x)) (8 * mul521 g g % p521), mul521 2 (mul521 p.y p.z)⟩

/-- The sum of two points of the curve. -/
def addPoint (p q : Point) : Point :=
  if p.z = 0 then q
  else if q.z = 0 then p
  else
    let zp := mul521 p.z p.z
    let zq := mul521 q.z q.z
    let u := mul521 p.x zq
    let t := mul521 p.y (mul521 q.z zq)
    let h := sub521 (mul521 q.x zp) u
    let r := sub521 (mul521 q.y (mul521 p.z zp)) t
    if h = 0 then if r = 0 then doublePoint p else ⟨1, 1, 0⟩
    else
      let hh := mul521 h h
      let c := mul521 h hh
      let v := mul521 u hh
      let x := sub521 (sub521 (mul521 r r) c) (2 * v % p521)
      ⟨x, sub521 (mul521 r (sub521 v x)) (mul521 t c), mul521 h (mul521 p.z q.z)⟩

/-- A multiple of a point, over the low `n` bits of the factor. -/
def mulPoint : Nat → Nat → Point → Point
  | 0, _, _ => ⟨1, 1, 0⟩
  | n + 1, k, p =>
    let d := doublePoint (mulPoint n (k / 2) p)
    if k % 2 = 1 then addPoint d p else d

/-- Whether a pair of numbers is a point of the curve. -/
def onCurve (x y : Nat) : Bool :=
  x < p521 && y < p521 && y * y % p521 == (x * x * x + 3 * (p521 - x) + b521) % p521

/-- The number that is signed: the hash has fewer bits than the order. -/
def hashNat (m : List Byte) : Nat := beNat (sha512 m)

/-- Whether r and s, 66 big-endian bytes each after the 16 of the key id (R275), are a signature of a message under a public key, whose
coordinates stand 66 big-endian bytes each. Log 8 (DESIGN CHOICE). -/
def ecdsaVerify (key msg sig : List Byte) : Bool :=
  let x := beNat (key.take 66)
  let y := beNat ((key.drop 66).take 66)
  let r := beNat ((sig.drop 16).take 66)
  let s := beNat ((sig.drop 82).take 66)
  if key.length = 132 && onCurve x y && 1 ≤ r && r < n521 && 1 ≤ s && s < n521 then
    let w := invMod n521 s
    let p := addPoint (mulPoint 521 (hashNat msg * w % n521) g521) (mulPoint 521 (r * w % n521) ⟨x, y, 1⟩)
    p.z != 0 && affineX p % n521 == r
  else false

/-- A signature r, s of a message, 66 big-endian bytes each, with a private key and the number drawn for it. Log 137 (PRESUMED). -/
def ecdsaSign (key nonce : Nat) (msg : List Byte) : List Byte :=
  let k := nonce % (n521 - 1) + 1
  let r := affineX (mulPoint 521 k g521) % n521
  let s := invMod n521 k * (hashNat msg + r * key) % n521
  (leBytes 66 r).reverse ++ (leBytes 66 s).reverse

/-- The signature of the identity key (R461). Log 8 (DESIGN CHOICE). -/
def identitySign (msg : List Byte) : List Byte := ecdsaSign Config.identityKey (Config.identityNonce msg) msg

/- ---------------------------------------------------------------- AES-256 -/

/-- A byte times x in the field of AES. -/
def xtime (b : Byte) : Byte := (b <<< 1) ^^^ (if b.msb then 0x1B else 0)

/-- The product of two bytes in the field of AES, over the low `n` bits of the first. -/
def gmul : Nat → Nat → Byte → Byte
  | 0, _, _ => 0
  | n + 1, a, b => (if a % 2 = 1 then b else 0) ^^^ gmul n (a / 2) (xtime b)

/-- The inverse in the field, zero of zero: the 254th power. -/
def ginv (b : Byte) : Byte :=
  ((List.range 7).foldl (fun (a : Byte × Byte) _ => let q := gmul 8 a.2.toNat a.2; (gmul 8 a.1.toNat q, q)) (1, b)).1

/-- The S-box of AES and its inverse. -/
def sbox (b : Byte) : Byte :=
  let x := ginv b
  x ^^^ x.rotateLeft 1 ^^^ x.rotateLeft 2 ^^^ x.rotateLeft 3 ^^^ x.rotateLeft 4 ^^^ 0x63
def invSbox (b : Byte) : Byte := ginv (b.rotateLeft 1 ^^^ b.rotateLeft 3 ^^^ b.rotateLeft 6 ^^^ 0x05)

/-- Bytes added in the field. -/
def xorBytes (a b : List Byte) : List Byte := List.zipWith (· ^^^ ·) a b

/-- The key schedule from word `i` on, the last 8 words latest first; `n` words are still to come. -/
def keyWords : Nat → Nat → Byte → List (List Byte) → List (List Byte)
  | 0, _, _, _ => []
  | n + 1, i, rc, last =>
    let w := last.headD []
    let t := if i % 8 = 0 then xorBytes ((w.tail ++ w.take 1).map sbox) [rc, 0, 0, 0] else if i % 8 = 4 then w.map sbox else w
    let x := xorBytes (last.getD 7 []) t
    x :: keyWords n (i + 1) (if i % 8 = 0 then xtime rc else rc) (x :: last.take 7)

/-- The 15 round keys of a 32-byte key. -/
def roundKeys (key : List Byte) : List (List Byte) :=
  let w := (List.range 8).map (fun i => (key.drop (4 * i)).take 4)
  let ws := w ++ keyWords 52 8 1 w.reverse
  (List.range 15).map (fun r => ((ws.drop (4 * r)).take 4).flatten)

/-- The rows of a block moved by `k` times their number: byte 4c + r comes from column c + k × r. -/
def shiftRows (k : Nat) (b : List Byte) : List Byte := (List.range 16).map (fun i => b.getD (4 * ((i / 4 + k * (i % 4)) % 4) + i % 4) 0)

/-- The columns of a block times the circulant of four bytes. -/
def mixColumns (m : List Nat) (b : List Byte) : List Byte :=
  (List.range 16).map (fun i => (List.range 4).foldl (fun a j => a ^^^ gmul 8 (m.getD ((j + 4 - i % 4) % 4) 0) (b.getD (i / 4 * 4 + j) 0)) 0)

/-- A block encrypted with AES-256 (FIPS 197), and one decrypted. Log 138 (PRESUMED). -/
def aesEncrypt (ks : List (List Byte)) (b : List Byte) : List Byte :=
  let body := ((ks.drop 1).take 13).foldl (fun x k => xorBytes (mixColumns [2, 3, 1, 1] (shiftRows 1 (x.map sbox))) k) (xorBytes b (ks.headD []))
  xorBytes (shiftRows 1 (body.map sbox)) (ks.getD 14 [])
def aesDecrypt (ks : List (List Byte)) (b : List Byte) : List Byte :=
  let first := (shiftRows 3 (xorBytes b (ks.getD 14 []))).map invSbox
  xorBytes (((ks.drop 1).take 13).reverse.foldl (fun x k => (shiftRows 3 (mixColumns [14, 11, 13, 9] (xorBytes x k))).map invSbox) first)
    (ks.headD [])

/- ---------------------------------------------------------------- XTS -/

/-- A tweak times the primitive element of the field of XTS. -/
def nextTweak (t : List Byte) : List Byte :=
  let n := 2 * leNat t
  leBytes 16 (if n < 2 ^ 128 then n else (n - 2 ^ 128) ^^^ 0x87)

/-- `n` blocks of a unit, each passed through `f` between two additions of its tweak. -/
def xtsBlocks (f : List Byte → List Byte) : Nat → List Byte → List Byte → List Byte
  | 0, _, _ => []
  | n + 1, t, bs => xorBytes (f (xorBytes (bs.take 16) t)) t ++ xtsBlocks f n (nextTweak t) (bs.drop 16)

/-- A 4 KiB data unit under a 64-byte key whose tweak is the unit's block number, encrypted and decrypted (R446). Log 138 (PRESUMED). -/
def xtsEncrypt (key : List Byte) (block : Nat) (unit : List Byte) : List Byte :=
  xtsBlocks (aesEncrypt (roundKeys (key.take 32))) 256 (aesEncrypt (roundKeys (key.drop 32)) (leBytes 16 block)) unit
def xtsDecrypt (key : List Byte) (block : Nat) (unit : List Byte) : List Byte :=
  xtsBlocks (aesDecrypt (roundKeys (key.take 32))) 256 (aesEncrypt (roundKeys (key.drop 32)) (leBytes 16 block)) unit

/-- The key of a partition's namespace, by the number that stands for it (R446). Log 65 (DESIGN CHOICE). -/
def namespaceKey (n : Nat) : List Byte := (List.range 64).map (Config.namespaceKeyByte n)

end Sys2Proof.Machine
end

