-- ==== Sys2Proof/Machine/Num.lean ====
section
/-! DEFINITION. Number formats (R45 to R54), exact values, rounding into a format (R55 to R59), the NaN rules of R48, block
scales (R60 to R63). -/

namespace Sys2Proof.Machine

/-- A format: fixed (R45) or narrow (R50), its width, exponent width, bias, special-value mode and whether it is
block-scaled. -/
structure Fmt where
  fixed : Bool
  w : Nat
  e : Nat
  bias : Int
  mode : Nat
  scale : Bool
  deriving DecidableEq, Repr

def f64Fmt : Fmt := ⟨true, 64, 11, 1023, 0, false⟩
def f32Fmt : Fmt := ⟨true, 32, 8, 127, 0, false⟩
def f16Fmt : Fmt := ⟨true, 16, 5, 15, 0, false⟩
def bf16Fmt : Fmt := ⟨true, 16, 8, 127, 0, false⟩

/-- The width of the fraction (R45) or mantissa (R50). -/
def Fmt.m (f : Fmt) : Nat := f.w - 1 - f.e

/-- KIND of a format register (R21). -/
def fmtKind (r : BitVec 32) : Nat := bitsAt r.toNat 24 2

/-- The format that a format register describes (R21). -/
def fmtOf (r : BitVec 32) : Fmt :=
  let n := r.toNat
  if fmtKind r = 1 then f16Fmt
  else if fmtKind r = 2 then bf16Fmt
  else if fmtKind r = 3 then f32Fmt
  else ⟨false, bitsAt n 4 4, bitsAt n 8 4, signedBits (bitsAt n 12 8) 8, bitsAt n 20 2, bitsAt n 22 2 == 1⟩

/-- Whether a value may be written to a format register (R22). -/
def fmtLegal (n : Nat) : Bool :=
  let kind := bitsAt n 24 2
  decide (n < 2 ^ 26) && n % 16 == 0 &&
    (if kind = 0 then
      3 ≤ bitsAt n 4 4 && bitsAt n 4 4 ≤ 8 && 1 ≤ bitsAt n 8 4 && bitsAt n 8 4 ≤ bitsAt n 4 4 - 1 &&
        bitsAt n 20 2 ≤ 2 && bitsAt n 22 2 ≤ 1
    else bitsAt n 0 24 == 0)

/-- An exact value: a NaN with its sign, whether it signals and its fraction left-justified in 52 bits; an infinity; or
m × 2^e with a sign. An irrational value stands as one that lies in the same open interval between neighbours of every
rounding (its last place is far below any format's, and odd). -/
inductive FVal where
  | nan (neg sig : Bool) (pay : Nat)
  | inf (neg : Bool)
  | fin (neg : Bool) (m : Nat) (e : Int)
  deriving DecidableEq, Repr

/-- The default NaN (R47). -/
def defaultNan : FVal := .nan false false (2 ^ 51)

/-- The magnitude bits of a code. -/
def magCode (f : Fmt) (code : Nat) : Nat := code % 2 ^ (f.w - 1)

/-- The sign bit of a code. -/
def signOf (f : Fmt) (code : Nat) : Bool := bitAt code (f.w - 1)

/-- The value of a code (R45, R50, R52). -/
def decodeF (f : Fmt) (code : Nat) : FVal :=
  let s := signOf f code
  let top := 2 ^ f.e - 1
  let ef := magCode f code / 2 ^ f.m
  let fr := code % 2 ^ f.m
  if f.mode = 0 && ef == top then
    if fr = 0 then .inf s
    else if f.fixed then .nan s (!bitAt fr (f.m - 1)) (fr * 2 ^ (52 - f.m))
    else defaultNan
  else if f.mode = 1 && ef == top && fr == 2 ^ f.m - 1 then defaultNan
  else if ef = 0 then .fin s fr (1 - f.bias - f.m)
  else .fin s (2 ^ f.m + fr) (ef - f.bias - f.m)

/-- The magnitude code of the largest finite number (R51, R53). -/
def maxCode (f : Fmt) : Nat :=
  if f.mode = 0 then (2 ^ f.e - 1) * 2 ^ f.m - 1
  else if f.mode = 1 then 2 ^ (f.w - 1) - 2
  else 2 ^ (f.w - 1) - 1

/-- The magnitude code of infinity, in mode 0. -/
def infCode (f : Fmt) : Nat := (2 ^ f.e - 1) * 2 ^ f.m

/-- A magnitude code with a sign. -/
def withSign (f : Fmt) (neg : Bool) (code : Nat) : Nat := code + bit neg * 2 ^ (f.w - 1)

/-- Compares m₁ × 2^e₁ with m₂ × 2^e₂. -/
def magCmp (m1 : Nat) (e1 : Int) (m2 : Nat) (e2 : Int) : Ordering :=
  let e := min e1 e2
  compare (m1 * 2 ^ (e1 - e).toNat) (m2 * 2 ^ (e2 - e).toNat)

/-- maxfinite as m × 2^e (R53). -/
def maxFinite (f : Fmt) : Nat × Int :=
  match decodeF f (maxCode f) with
  | .fin _ m e => (m, e)
  | _ => (0, 0)

/-- emax (R53). -/
def emaxOf (f : Fmt) : Int := (maxFinite f).2 + (maxFinite f).1.log2

/-- The LFSR of stochastic rounding and the flags set so far (bit 0 RG, 1 NX, 2 UF, 3 OF, 4 DZ, 5 NV). -/
structure RS where
  lfsr : BitVec 32
  flags : Nat
  deriving DecidableEq, Repr

def fRG : Nat := 1
def fNX : Nat := 2
def fUF : Nat := 4
def fOF : Nat := 8
def fDZ : Nat := 16
def fNV : Nat := 32

/-- Flags set. -/
def RS.flag (rs : RS) (n : Nat) : RS := { rs with flags := rs.flags ||| n }

/-- A flag set when a test holds. -/
def RS.flagIf (rs : RS) (b : Bool) (n : Nat) : RS := if b then rs.flag n else rs

/-- One step of the LFSR (R59). Log 36 (DEDUCED). -/
def lfsrStep (l : BitVec 32) : BitVec 32 := if l.toNat % 2 = 1 then (l >>> 1) ^^^ 0x80200003 else l >>> 1

/-- Rounding codes (R72). -/
def rSR : Nat := 4

/-- The LFSR after one element of an instruction that rounds in a direction (R59). Log 36 (DEDUCED). -/
def RS.draw (rs : RS) (rnd : Nat) : RS := if rnd = rSR then { rs with lfsr := lfsrStep rs.lfsr } else rs

/-- m × 2^e on the grid of multiples of 2^q (R55, R58): the multiple, and whether it differs; `r` is the draw.
Log 40 (DEDUCED), 41 (DEDUCED). -/
def roundAt (neg : Bool) (m : Nat) (e q : Int) (rnd r : Nat) : Nat × Bool :=
  if q ≤ e then (m * 2 ^ (e - q).toNat, false)
  else
    let sh := (q - e).toNat
    let k := m / 2 ^ sh
    let rem := m % 2 ^ sh
    let up : Bool :=
      if rnd = 0 then decide (2 ^ sh < 2 * rem) || (2 * rem == 2 ^ sh && k % 2 == 1)
      else if rnd = 1 then false
      else if rnd = 2 then !neg
      else if rnd = 3 then neg
      else decide (2 ^ 16 ≤ rem * 2 ^ 16 / 2 ^ sh + r)
    if rem = 0 then (k, false) else (k + bit up, true)

/-- The magnitude code of k × 2^q, a magnitude of the format. Log 40 (DEDUCED). -/
def packMag (f : Fmt) (k : Nat) (q : Int) : Nat :=
  if k = 0 then 0
  else
    let l := k.log2
    let e := q + l
    if 1 - f.bias ≤ e then
      let fr := if l ≤ f.m then k * 2 ^ (f.m - l) else k / 2 ^ (l - f.m)
      (e + f.bias).toNat * 2 ^ f.m + (fr - 2 ^ f.m)
    else k * 2 ^ (q - (1 - f.bias - f.m)).toNat

/-- A finite overflow (R57; for fixed formats R56, R58). Log 41 (DEDUCED). -/
def overflowF (f : Fmt) (neg : Bool) (rnd : Nat) (rs : RS) : Nat × RS :=
  let inf := f.mode = 0 && (rnd = 0 || rnd = rSR || (rnd = 2 && !neg) || (rnd = 3 && neg))
  (withSign f neg (if inf then infCode f else maxCode f), rs.flag (fOF + fNX))

/-- The smallest normal magnitude is 2 to this (R53, R56). -/
def minNormExp (f : Fmt) : Int := 1 - f.bias

/-- A finite value rounded into a format (R56, R58): one draw under SR; the rounding to the format's precision decides
tininess and, except under SR, overflow. Log 41 (DEDUCED). -/
def roundF (f : Fmt) (rnd : Nat) (rs0 : RS) (neg : Bool) (m : Nat) (e : Int) : Nat × RS :=
  let r := bitsAt rs0.lfsr.toNat 16 16
  let rs := rs0.draw rnd
  if m = 0 then (withSign f neg 0, rs)
  else
    let q : Int := e + m.log2 - f.m
    let qs : Int := minNormExp f - f.m
    let x := roundAt neg m e q rnd r
    let tiny : Bool := magCmp x.1 q 1 (minNormExp f) == .lt
    let big (y : Nat × Bool) (g : Int) : Bool := magCmp y.1 g (maxFinite f).1 (maxFinite f).2 == .gt
    let g : Int := if tiny || rnd = rSR then max q qs else q
    let y := roundAt neg m e g rnd r
    if (if rnd = rSR then big y g else big x q) then overflowF f neg rnd rs
    else (withSign f neg (packMag f y.1 g), (rs.flagIf (y.2 && tiny) fUF).flagIf y.2 fNX)

/-- A NaN into a format (R48 step 3, R52, R57). Log 39 (DEDUCED). -/
def nanF (f : Fmt) (neg sig : Bool) (pay : Nat) (rs : RS) : Nat × RS :=
  if f.fixed then
    let fr := pay / 2 ^ (52 - f.m) % 2 ^ (f.m - 1) + 2 ^ (f.m - 1)
    (withSign f neg (infCode f + fr), rs.flagIf sig fNV)
  else if f.mode = 2 then (maxCode f, rs.flag fNV)
  else if f.mode = 0 && f.m = 0 then (infCode f, rs.flag fNV)
  else (2 ^ (f.w - 1) - 1, rs.flagIf sig fNV)

/-- A value converted into a format (R48, R52, R56, R57). -/
def encodeF (f : Fmt) (rnd : Nat) (rs : RS) (v : FVal) : Nat × RS :=
  match v with
  | .fin neg m e => roundF f rnd rs neg m e
  | .inf neg =>
    if f.mode = 0 then (withSign f neg (infCode f), rs.draw rnd)
    else (withSign f neg (maxCode f), (rs.draw rnd).flag (fOF + fNX))
  | .nan neg sig pay => nanF f neg sig pay (rs.draw rnd)

/-- Whether a value is a NaN, and whether it signals. -/
def FVal.isNan : FVal → Bool
  | .nan _ _ _ => true
  | _ => false
def FVal.isSig : FVal → Bool
  | .nan _ s _ => s
  | _ => false

/-- A zero of either sign. -/
def FVal.isZero : FVal → Bool
  | .fin _ m _ => m == 0
  | _ => false

/-- The sign of a value. -/
def FVal.neg : FVal → Bool
  | .nan n _ _ => n
  | .inf n => n
  | .fin n _ _ => n

/-- A value with its sign inverted. -/
def FVal.flip : FVal → FVal
  | .nan n s p => .nan (!n) s p
  | .inf n => .inf (!n)
  | .fin n m e => .fin (!n) m e

/-- The exact sum of two values that are no NaN (R147, R163); no value for an invalid operation. A sum of zero from
other values is −0 under RD only. -/
def addX (rnd : Nat) (a b : FVal) : Option FVal :=
  match a, b with
  | .inf n, .inf k => if n = k then some a else none
  | .inf _, _ => some a
  | _, .inf _ => some b
  | .fin n m e, .fin k p g =>
    let h := min e g
    let x : Int := (m * 2 ^ (e - h).toNat : Nat)
    let y : Int := (p * 2 ^ (g - h).toNat : Nat)
    let t := (if n then -x else x) + (if k then -y else y)
    if t = 0 then some (.fin (if m = 0 && p = 0 && n == k then n else rnd == 3) 0 0)
    else some (.fin (decide (t < 0)) t.natAbs h)
  | _, _ => some defaultNan

/-- The exact product. -/
def mulX (a b : FVal) : Option FVal :=
  let s := a.neg != b.neg
  match a, b with
  | .inf _, .inf _ => some (.inf s)
  | .inf _, _ => if b.isZero then none else some (.inf s)
  | _, .inf _ => if a.isZero then none else some (.inf s)
  | .fin _ m e, .fin _ p g => some (.fin s (m * p) (e + g))
  | _, _ => some defaultNan

/-- The exact value of a × b + d; an invalid product has none. -/
def fmaX (rnd : Nat) (a b d : FVal) : Option FVal :=
  match mulX a b with
  | none => none
  | some p => addX rnd p d

/-- m ÷ p as a value with a last place below every format's, odd when inexact. -/
def divMag (m : Nat) (e : Int) (p : Nat) (g : Int) : Nat × Int :=
  let sh := 192 + p.log2
  let q := m * 2 ^ sh / p
  (2 * q + bit (m * 2 ^ sh % p != 0), e - g - sh - 1)

/-- The quotient (R163); the flag is DZ. -/
def divX (a b : FVal) : Option FVal × Nat :=
  let s := a.neg != b.neg
  match a, b with
  | .inf _, .inf _ => (none, 0)
  | .inf _, _ => (some (.inf s), 0)
  | _, .inf _ => (some (.fin s 0 0), 0)
  | .fin _ m e, .fin _ p g =>
    if p = 0 then (if m = 0 then (none, 0) else (some (.inf s), fDZ))
    else (some (.fin s (divMag m e p g).1 (divMag m e p g).2), 0)
  | _, _ => (some defaultNan, 0)

/-- The integer square root, bit by bit from bit `b - 1`. -/
def isqrtFrom : Nat → Nat → Nat → Nat
  | 0, _, r => r
  | b + 1, n, r => if (r + 2 ^ b) * (r + 2 ^ b) ≤ n then isqrtFrom b n (r + 2 ^ b) else isqrtFrom b n r

/-- The integer square root. -/
def isqrt (n : Nat) : Nat := isqrtFrom (n.log2 / 2 + 1) n 0

/-- √(m × 2^e) with a last place below every format's, odd when inexact. -/
def sqrtMag (m : Nat) (e : Int) : Nat × Int :=
  let odd := (e % 2).toNat
  let n := m * 2 ^ (256 + odd)
  let r := isqrt n
  (2 * r + bit (r * r != n), (e - odd - 256) / 2 - 1)

/-- The square root (R163). -/
def sqrtX (a : FVal) : Option FVal :=
  match a with
  | .inf n => if n then none else some a
  | .fin n m e => if m = 0 then some a else if n then none else some (.fin false (sqrtMag m e).1 (sqrtMag m e).2)
  | .nan _ _ _ => some a

/-- The result of an operation (R48): the first NaN operand, else its exact value rounded once, else the default NaN with
NV. -/
def settleF (f : Fmt) (rnd : Nat) (rs : RS) (args : List FVal) (exact : Option FVal) : Nat × RS :=
  match args.find? FVal.isNan with
  | some v => encodeF f rnd (rs.flagIf (args.any FVal.isSig) fNV) v
  | none =>
    match exact with
    | some v => encodeF f rnd rs v
    | none => encodeF f rnd (rs.flag fNV) defaultNan

/-- The float operations that round. -/
inductive FOp where
  | add | sub | mul | fma | div | sqrt
  deriving DecidableEq, Repr

/-- A rounding operation on values read from their formats (R147, R163); `d` is the addend of fma. Log 39 (DEDUCED). -/
def arithF (op : FOp) (f : Fmt) (rnd : Nat) (rs : RS) (a b d : FVal) : Nat × RS :=
  match op with
  | .add => settleF f rnd rs [a, b] (addX rnd a b)
  | .sub => settleF f rnd rs [a, b] (addX rnd a b.flip)
  | .mul => settleF f rnd rs [a, b] (mulX a b)
  | .fma =>
    let bad := !a.isNan && !b.isNan && (mulX a b).isNone
    settleF f rnd (rs.flagIf bad fNV) [a, b, d] (fmaX rnd a b d)
  | .div => settleF f rnd (rs.flag (if a.isNan || b.isNan then 0 else (divX a b).2)) [a, b] (divX a b).1
  | .sqrt => settleF f rnd rs [a] (sqrtX a)

/-- The order of two values that are no NaN; +0 equals −0. -/
def cmpV (a b : FVal) : Ordering :=
  match a, b with
  | .inf n, .inf k => if n = k then .eq else if n then .lt else .gt
  | .inf n, _ => if n then .lt else .gt
  | _, .inf k => if k then .gt else .lt
  | .fin n m e, .fin k p g =>
    let h := min e g
    let x : Int := (m * 2 ^ (e - h).toNat : Nat)
    let y : Int := (p * 2 ^ (g - h).toNat : Nat)
    compare (if n then -x else x) (if k then -y else y)
  | _, _ => .eq

/-- Whether the first of two operands is the smaller (or the larger) in the order of R148, −0 below +0. Log 128 (DESIGN CHOICE). -/
def firstWins (max : Bool) (a b : FVal) : Bool :=
  match cmpV a b with
  | .lt => !max
  | .gt => max
  | .eq => if a.isZero && b.isZero then (if max then !a.neg || b.neg else a.neg || !b.neg) else true

/-- An operand's code as a result: bit for bit in its own format, else converted (R149). -/
def convF (fi fo : Fmt) (rnd : Nat) (rs : RS) (code : Nat) : Nat × RS :=
  if fi = fo then (code % 2 ^ fo.w, rs) else encodeF fo rnd rs (decodeF fi code)

/-- fmin and fmax (R148, R149, R165). -/
def minMaxF (max : Bool) (fa fb fo : Fmt) (rnd : Nat) (rs : RS) (a b : Nat) : Nat × RS :=
  let x := decodeF fa a
  let y := decodeF fb b
  let rs1 := rs.flagIf (x.isSig || y.isSig) fNV
  if x.isNan then encodeF fo (if fa = fo then 0 else rnd) rs1 x
  else if y.isNan then encodeF fo (if fb = fo then 0 else rnd) rs1 y
  else if firstWins max x y then convF fa fo rnd rs a
  else convF fb fo rnd rs b

/-- The code of fcmp (R163) and its flag. -/
def cmpCode (a b : FVal) : Nat × Nat :=
  if a.isNan || b.isNan then (8, if a.isSig || b.isSig then fNV else 0)
  else
    match cmpV a b with
    | .lt => (1, 0) | .eq => (2, 0) | .gt => (4, 0)

/-- A value rounded to an integer of a range (R168): NX when rounding changed it, NV when it is outside or no number. -/
def toIntF (lo hi : Int) (rnd : Nat) (rs0 : RS) (v : FVal) : Int × RS :=
  let r := bitsAt rs0.lfsr.toNat 16 16
  let rs := rs0.draw rnd
  match v with
  | .nan _ _ _ => (0, rs.flag fNV)
  | .inf n => (if n then lo else hi, rs.flag fNV)
  | .fin n m e =>
    let y := roundAt n m e 0 rnd r
    let k : Int := if n then -(y.1 : Int) else y.1
    if k < lo then (lo, rs.flag fNV)
    else if hi < k then (hi, rs.flag fNV)
    else (k, rs.flagIf y.2 fNX)

/-- An integer as a value. -/
def intV (n : Int) : FVal := .fin (decide (n < 0)) n.natAbs 0

/-- Element `i` of a stream of codes of `w` bits (R60). -/
def streamAt (n w i : Nat) : Nat := bitsAt n (i * w) w

/-- The stream of codes, as a number (R60). -/
def streamOf (w : Nat) (codes : List Nat) : Nat := codes.foldr (fun c n => c % 2 ^ w + n * 2 ^ w) 0

/-- The value of a block-scaled element (R61, R62). -/
def scaleV (c : Nat) (v : FVal) : FVal :=
  if c = 255 then defaultNan
  else
    match v with
    | .nan _ _ _ => defaultNan
    | .inf n => .inf n
    | .fin n m e => .fin n m (e + c - 127)

/-- floor_log2 of the greatest finite magnitude (R63), none when every element is zero or infinite. -/
def maxLog (xs : List FVal) : Option Int :=
  xs.foldl (fun best x => match x with
    | .fin _ m e =>
      if m = 0 then best
      else match best with
        | none => some (e + m.log2)
        | some b => some (max b (e + m.log2))
    | _ => best) none

/-- Each element in turn, with the flags it alone sets: codes, flags by element, and the LFSR. -/
def eachF {α : Type} (f : α → RS → Nat × RS) : List α → BitVec 32 → List Nat × List Nat × BitVec 32
  | [], l => ([], [], l)
  | x :: xs, l =>
    let (c, rs) := f x ⟨l, 0⟩
    let (cs, fs, l1) := eachF f xs rs.lfsr
    (c :: cs, rs.flags :: fs, l1)

/-- The OR of the flags of every element. -/
def orFlags (fs : List Nat) : Nat := fs.foldl (· ||| ·) 0

/-- The mask of elements that set a flag, element `i` at bit `i`. -/
def flagMask : List Nat → Nat
  | [] => 0
  | f :: fs => bit (f != 0) + 2 * flagMask fs

/-- block_quantise (R63) of the elements listed, at most four: the scale byte, codes, flags by element, and the LFSR. A
partial block's missing elements count as +0 and are not stored. -/
def blockQ (f : Fmt) (rnd : Nat) (l : BitVec 32) (xs : List FVal) : Nat × List Nat × List Nat × BitVec 32 :=
  let still (n : Nat) : Nat × RS → Nat × RS := fun r => (0, r.2.flag n)
  if xs.any FVal.isNan then
    let (cs, fs, l1) := eachF (fun _ rs => still fNV (0, rs.draw rnd)) xs l
    (255, cs, fs, l1)
  else
    match maxLog xs with
    | none =>
      if xs.any (fun x => !x.isZero) then
        let (cs, fs, l1) := eachF (fun x rs => encodeF f rnd rs x) xs l
        (0, cs, fs, l1)
      else
        let (cs, fs, l1) := eachF (fun _ rs => still 0 (0, rs.draw rnd)) xs l
        (0, cs, fs, l1)
    | some a =>
      let c := (clampInt (a - emaxOf f + 127) 0 254).toNat
      let (cs, fs, l1) := eachF (fun x rs => encodeF f rnd rs (match x with
        | .fin n m e => .fin n m (e + 127 - c)
        | y => y)) xs l
      (c, cs, fs, l1)

end Sys2Proof.Machine
end

