-- ==== Sys2Proof/Machine/Flags.lean ====
section
/-! DEFINITION. The rounding in force (R55), the formats of a prefix (R161), and the results of instructions that set the
sticky flags (R30, R56, R141). -/

namespace Sys2Proof.Machine

/-- The pending prefix's fields (R160): fmt-A, fmt-B, fmt-out and the rounding code, 5 for own. -/
structure Pfx where
  a : Fin 8
  b : Fin 8
  out : Fin 8
  rnd : Nat
  deriving DecidableEq, Repr

/-- A 3-bit field as a format register's number. -/
def fmtIx (n : Nat) : Fin 8 := ⟨n % 8, by omega⟩

/-- The prefix that the next instruction executes under (R161). -/
def prefixOf (x : Ctx) : Option Pfx :=
  if wBits x.st 3 1 = 1 then
    let p := x.pfx.toNat
    some ⟨fmtIx (bitsAt p 23 3), fmtIx (bitsAt p 20 3), fmtIx (bitsAt p 17 3), bitsAt p 14 3⟩
  else none

/-- ST.RND (R30). -/
def stRnd (x : Ctx) : Nat := wBits x.st 4 3

/-- The code of a rounding modifier (R72). -/
def rndCode : Rnd → Nat
  | .rne => 0 | .rz => 1 | .ru => 2 | .rd => 3 | .sr => 4 | .dyn => 5

/-- The rounding in force (R55). -/
def rounding (x : Ctx) (r : Rnd) : Nat :=
  match prefixOf x with
  | some p => if p.rnd ≠ 5 then p.rnd else if r = .dyn then stRnd x else rndCode r
  | none => if r = .dyn then stRnd x else rndCode r

/-- A format register of KIND 1, 2 or 3 (R165, R175); another is ILLEGAL with reason 11. -/
def fixedReg (x : Ctx) (n : Fin 8) : Option Fmt := if fmtKind x.fmt[n] = 0 then none else some (fmtOf x.fmt[n])

/-- The LFSR and no flag: what a rounding starts from. Log 36 (DEDUCED). -/
def rsOf (x : Ctx) : RS := ⟨x.lfsr, 0⟩

/-- A scalar result with the flags it set and the LFSR it left. -/
def floatResult (s : State) (r : Nat × RS) : Res Out :=
  .ok { st := setCur s (fun x => { x with lfsr := r.2.lfsr }), val := some (w64 r.1), flags := r.2.flags }

/-- A SIMD result: the LFSR, the OR of the lanes' flags and the mask of lanes that set one (R141). -/
def vectorResult (s : State) (vd : VReg) (w : Nat) (r : List Nat × List Nat × BitVec 32) : Res Out :=
  .ok { st := setCur s (fun x => { setV x vd (packLanes w r.1) with lfsr := r.2.2 })
        flags := orFlags r.2.1, mask := flagMask r.2.1 }

end Sys2Proof.Machine
end

