-- ==== Sys2Proof/Machine/Special.lean ====
section
/-! DEFINITION. The special functions (R176) in fixed point with 400 fraction bits: an irrational value is given with a last
place far below any that a rounding looks at, and odd. -/

namespace Sys2Proof.Machine

/-- Fraction bits of the fixed-point values. -/
def fxBits : Nat := 400

/-- One in fixed point. -/
def fxOne : Int := 2 ^ fxBits

/-- A product in fixed point. -/
def fxMul (x y : Int) : Int := x * y / fxOne

/-- A quotient in fixed point. -/
def fxDiv (x y : Int) : Int := x * fxOne / y

/-- A value as a fixed-point number; exact for a value whose last place is at least 2^−400. -/
def fxOf (v : FVal) : Int :=
  match v with
  | .fin n m e =>
    let k := e + fxBits
    let a : Int := if 0 ≤ k then (m * 2 ^ k.toNat : Nat) else (m / 2 ^ (-k).toNat : Nat)
    if n then -a else a
  | _ => 0

/-- A fixed-point number, not zero, of an irrational value. Log 103 (DEDUCED). -/
def irrational (x : Int) : FVal := .fin (decide (x < 0)) (2 * x.natAbs + 1) (-(fxBits : Int) - 1)

/-- Sum of z^(2k+1) ÷ (2k+1) over the terms left, with signs that alternate or not; `p` is z^(2k+1), `q` is z². -/
def oddSeries (alt : Bool) : Nat → Nat → Int → Int → Int
  | 0, _, _, _ => 0
  | n + 1, k, p, q =>
    (if alt && k % 2 == 1 then -(p / (2 * k + 1 : Nat)) else p / (2 * k + 1 : Nat)) + oddSeries alt n (k + 1) (fxMul p q) q

/-- atan(1/n). -/
def fxAtanInv (n : Nat) : Int := oddSeries true 90 0 (fxOne / n) (fxOne / (n * n : Nat))

/-- π by Machin's formula. -/
def fxPi : Int := 16 * fxAtanInv 5 - 4 * fxAtanInv 239

/-- atanh z. -/
def fxAtanh (z : Int) : Int := oddSeries false 135 0 z (fxMul z z)

/-- ln 2. -/
def fxLn2 : Int := 2 * fxAtanh (fxOne / 3)

/-- The sum of the terms left of a Taylor series: `t` the present term, `k` its degree, `d` the step in degree, `y` what a
term is multiplied by. -/
def taylor (d : Nat) : Nat → Nat → Int → Int → Int
  | 0, _, _, _ => 0
  | n + 1, k, t, y =>
    t + taylor d n (k + d) (fxMul t y / (if d = 1 then (k + 1 : Nat) else ((k + 1) * (k + 2) : Nat))) y

/-- An angle reduced to [−π, π]. -/
def reduceAngle (x : Int) : Int :=
  let two := 2 * fxPi
  let r := x % two
  if fxPi < r then r - two else r

/-- sin and cos of a fixed-point angle. -/
def fxSin (x : Int) : Int := let y := reduceAngle x; taylor 2 70 1 y (-(fxMul y y))
def fxCos (x : Int) : Int := let y := reduceAngle x; taylor 2 70 0 fxOne (-(fxMul y y))

/-- e^x for x from 0 to 1. -/
def fxExp (x : Int) : Int := taylor 1 100 0 fxOne x

/-- |v| compared with 2^n, for a value other than zero. -/
def belowPow (v : FVal) (n : Int) : Bool :=
  match v with
  | .fin _ m e => m == 0 || e + m.log2 < n
  | _ => false

/-- |v| ≤ 2^24. -/
def inTrigRange (v : FVal) : Bool :=
  match v with
  | .fin _ m e => magCmp m e 1 24 != .gt
  | _ => false

/-- A value a little nearer zero than `v` (sin and tanh of a small argument). -/
def justBelow (v : FVal) : FVal :=
  match v with
  | .fin n m e => .fin n (m * 2 ^ 300 - 1) (e - 300)
  | w => w

/-- 2^n exactly. -/
def powTwo (n : Int) : FVal := .fin false 1 n

/-- sin x or cos x for a finite argument in range. Log 103 (DEDUCED). -/
def trigX (cos : Bool) (v : FVal) : FVal :=
  if v.isZero then (if cos then powTwo 0 else v)
  else if cos then irrational (fxCos (fxOf v))
  else if belowPow v (-40) then justBelow v
  else irrational (fxSin (fxOf v))

/-- 2^x for a finite argument; beyond ±512 any power of two rounds as the value does. Log 103 (DEDUCED). -/
def exp2X (v : FVal) : FVal :=
  if !belowPow v 9 then powTwo (if v.neg then -600 else 600)
  else
    let x := fxOf v
    let n := x / fxOne
    let f := x % fxOne
    if f = 0 then powTwo n
    else
      match irrational (fxExp (fxMul f fxLn2)) with
      | .fin s m e => .fin s m (e + n)
      | w => w

/-- log2 x for a positive finite argument: exact for a power of two. Log 103 (DEDUCED). -/
def log2X (m : Nat) (e : Int) : FVal :=
  let l := m.log2
  if m = 2 ^ l then intV (e + l)
  else
    let y : Int := ((m : Int) * fxOne) / (2 ^ l : Nat)
    irrational ((e + l) * fxOne + fxDiv (2 * fxAtanh (fxDiv (y - fxOne) (y + fxOne))) fxLn2)

/-- 1 ÷ √(m × 2^e), odd in its last place when inexact. Log 103 (DEDUCED). -/
def rsqrtX (m : Nat) (e : Int) : FVal :=
  let odd := (e % 2).toNat
  let p := m * 2 ^ odd
  let k := 200 + p.log2
  let n := 2 ^ (2 * k) / p
  let r := isqrt n
  .fin false (2 * r + bit (r * r * p != 2 ^ (2 * k))) (-(k : Int) - (e - odd) / 2 - 1)

/-- tanh x for a finite argument other than zero. Log 103 (DEDUCED). -/
def tanhX (v : FVal) : FVal :=
  if belowPow v (-40) then justBelow v
  else if !belowPow v 6 then justBelow (.fin v.neg 1 0)
  else
    let x := 2 * ((fxOf v).natAbs : Int)
    let n := (x / fxLn2).toNat
    let ex := fxExp (x % fxLn2) * 2 ^ n
    let t := fxDiv (ex - fxOne) (ex + fxOne)
    irrational (if v.neg then -t else t)

/-- The special functions (R176). -/
inductive Sfn where
  | sin | cos | exp2 | log2 | rcp | rsq | tanh
  deriving DecidableEq, Repr

/-- The word fsin and fcos give out of range (R66), as a value. Log 129 (DESIGN CHOICE). -/
def rangeNan : FVal := .nan false false (0x7C0000 * 2 ^ 29)

/-- The exact result of a special function of a value that is no NaN, and the flag it sets; an invalid argument has no
result. Log 103 (DEDUCED). -/
def sfnX (k : Sfn) (v : FVal) : Option FVal × Nat :=
  match k, v with
  | .rcp, _ => divX (powTwo 0) v
  | .sin, .inf _ => (none, 0)
  | .cos, .inf _ => (none, 0)
  | .sin, _ => if inTrigRange v then (some (trigX false v), 0) else (some rangeNan, fRG)
  | .cos, _ => if inTrigRange v then (some (trigX true v), 0) else (some rangeNan, fRG)
  | .exp2, .inf n => (some (if n then .fin false 0 0 else v), 0)
  | .exp2, _ => (some (exp2X v), 0)
  | .log2, .inf n => (if n then none else some v, 0)
  | .log2, .fin n m e => if m = 0 then (some (.inf true), fDZ) else if n then (none, 0) else (some (log2X m e), 0)
  | .rsq, .inf n => (if n then none else some (.fin false 0 0), 0)
  | .rsq, .fin n m e => if m = 0 then (some (.inf n), fDZ) else if n then (none, 0) else (some (rsqrtX m e), 0)
  | .tanh, .inf n => (some (.fin n 1 0), 0)
  | .tanh, _ => (some (if v.isZero then v else tanhX v), 0)
  | _, _ => (some v, 0)

/-- A special function rounded once into a format (R176). -/
def sfnF (k : Sfn) (f : Fmt) (rnd : Nat) (rs : RS) (v : FVal) : Nat × RS :=
  if v.isNan then settleF f rnd rs [v] none
  else settleF f rnd (rs.flag (sfnX k v).2) [] (sfnX k v).1

end Sys2Proof.Machine
end

