-- ==== Sys2Proof/Machine/Float.lean ====
section
/-! DEFINITION. Scalar floating point (R163 to R165), conversion (R166 to R168), format registers and the prefix (R158 to
R162), block quantisation and running maxima (R169 to R174), special functions (R175, R176). -/

namespace Sys2Proof.Machine

/-- The formats of a scalar operation's operands and result (R164, R165); `useB` and `useOut` say which prefix fields it
uses. -/
def scalarFmts (x : Ctx) (dbl useB useOut : Bool) : Option (Fmt × Fmt × Fmt) :=
  match prefixOf x with
  | none => if dbl then some (f64Fmt, f64Fmt, f64Fmt) else some (f32Fmt, f32Fmt, f32Fmt)
  | some p =>
    if dbl then none
    else
      match fixedReg x p.a, (if useB then fixedReg x p.b else some f32Fmt),
        (if useOut then fixedReg x p.out else some f32Fmt) with
      | some fa, some fb, some fo => some (fa, fb, fo)
      | _, _, _ => none

/-- A scalar float operation (R163): `f` gives the result from the formats, the rounding and the codes of the sources. -/
def scalarFloat (sp : Spec) (dbl useB useOut : Bool) (r : Rnd)
    (f : Fmt → Fmt → Fmt → Nat → RS → List Nat → Nat × RS) (s : State) : Host.Outcome State Fault Refusal :=
  issue { sp with fmt := true, kind := .compute, ecls := 1 }
    (fun ws s =>
      match scalarFmts (cx s) dbl useB useOut with
      | none => .trap illegal11
      | some (fa, fb, fo) => floatResult s (f fa fb fo (rounding (cx s) r) (rsOf (cx s)) (ws.map BitVec.toNat))) s

/-- A rounding operation on the codes of its sources a, b and the addend. -/
def scalarArith (op : FOp) (fa fb fo : Fmt) (rnd : Nat) (rs : RS) (cs : List Nat) : Nat × RS :=
  arithF op fo rnd rs (decodeF fa (cs.getD 0 0)) (decodeF fb (cs.getD 1 0)) (decodeF fb (cs.getD 2 0))

/-- The charge of an operation by its width (R90). -/
def fpWu (dbl : Bool) : Nat := if dbl then 2 else 1

def execFadd (d a b : Reg) (r : Rnd) (dbl : Bool) (s : State) : Host.Outcome State Fault Refusal :=
  scalarFloat { i := .fadd d a b r dbl, wu := some (fpWu dbl), srcs := [a, b], dst := some d } dbl true true r
    (scalarArith .add) s

def execFsub (d a b : Reg) (r : Rnd) (dbl : Bool) (s : State) : Host.Outcome State Fault Refusal :=
  scalarFloat { i := .fsub d a b r dbl, wu := some (fpWu dbl), srcs := [a, b], dst := some d } dbl true true r
    (scalarArith .sub) s

def execFmul (d a b : Reg) (r : Rnd) (dbl : Bool) (s : State) : Host.Outcome State Fault Refusal :=
  scalarFloat { i := .fmul d a b r dbl, wu := some (fpWu dbl), srcs := [a, b], dst := some d } dbl true true r
    (scalarArith .mul) s

def execFma (d a b : Reg) (r : Rnd) (dbl : Bool) (s : State) : Host.Outcome State Fault Refusal :=
  scalarFloat { i := .fma d a b r dbl, wu := some (fpWu dbl), srcs := [a, b, d], dst := some d } dbl true true r
    (scalarArith .fma) s

def execFdiv (d a b : Reg) (r : Rnd) (dbl : Bool) (s : State) : Host.Outcome State Fault Refusal :=
  scalarFloat { i := .fdiv d a b r dbl, wu := some (16 * fpWu dbl), srcs := [a, b], dst := some d } dbl true true r
    (scalarArith .div) s

def execFsqrt (d a : Reg) (r : Rnd) (dbl : Bool) (s : State) : Host.Outcome State Fault Refusal :=
  scalarFloat { i := .fsqrt d a r dbl, wu := some (16 * fpWu dbl), srcs := [a], dst := some d } dbl false true r
    (scalarArith .sqrt) s

def execFmin (d a b : Reg) (dbl : Bool) (s : State) : Host.Outcome State Fault Refusal :=
  scalarFloat { i := .fmin d a b dbl, wu := some (fpWu dbl), srcs := [a, b], dst := some d } dbl true true .dyn
    (fun fa fb fo rnd rs cs => minMaxF false fa fb fo rnd rs (cs.getD 0 0) (cs.getD 1 0)) s

def execFmax (d a b : Reg) (dbl : Bool) (s : State) : Host.Outcome State Fault Refusal :=
  scalarFloat { i := .fmax d a b dbl, wu := some (fpWu dbl), srcs := [a, b], dst := some d } dbl true true .dyn
    (fun fa fb fo rnd rs cs => minMaxF true fa fb fo rnd rs (cs.getD 0 0) (cs.getD 1 0)) s

def execFcmp (d a b : Reg) (dbl : Bool) (s : State) : Host.Outcome State Fault Refusal :=
  scalarFloat { i := .fcmp d a b dbl, wu := some (fpWu dbl), srcs := [a, b], dst := some d } dbl true false .dyn
    (fun fa fb _ _ rs cs =>
      let c := cmpCode (decodeF fa (cs.getD 0 0)) (decodeF fb (cs.getD 1 0))
      (c.1, rs.flag c.2)) s

/- ---------------------------------------------------------------- cvt -/

/-- The format of a conversion side that is no integer (R166, R167): a narrow side takes its register, or the prefix's. -/
def sideFmt (x : Ctx) (t : CvType) (n : Fin 8) : Fmt :=
  match t with
  | .f64 => f64Fmt
  | .f32 => f32Fmt
  | .f16 => f16Fmt
  | .bf16 => bf16Fmt
  | _ => fmtOf x.fmt[n]

/-- The integer that a conversion reads (R167). -/
def cvtInt (t : CvType) (w : Word) : Int :=
  match t with
  | .ds => signedBits w.toNat 64
  | .dz => w.toNat
  | .ws => signedBits w.toNat 32
  | _ => lowBits w.toNat 32

/-- The range of an integer side. -/
def cvtRange : CvType → Int × Int
  | .ds => (-(2 ^ 63), 2 ^ 63 - 1)
  | .dz => (0, 2 ^ 64 - 1)
  | .ws => (-(2 ^ 31), 2 ^ 31 - 1)
  | _ => (0, 2 ^ 32 - 1)

/-- The value of cvt (R168) and the rounding state it leaves. -/
def cvtVal (x : Ctx) (n : Fin 8) (r : Rnd) (t c : CvType) (w : Word) : Word × RS :=
  let p := prefixOf x
  let rnd := rounding x r
  let nf := match p with | some q => q.a | none => n
  let nt := match p with | some q => q.out | none => n
  let v : FVal := if c.isInt then intV (cvtInt c w) else decodeF (sideFmt x c nf) w.toNat
  if t.isInt then
    let k := toIntF (cvtRange t).1 (cvtRange t).2 rnd (rsOf x) v
    (wInt k.1, k.2)
  else
    let k := encodeF (sideFmt x t nt) rnd (rsOf x) v
    (w64 k.1, k.2)

/-- The effect of cvt. -/
def cvtBody (n : Fin 8) (r : Rnd) (t c : CvType) : Body := fun ws s =>
  let k := cvtVal (cx s) n r t c (src ws 0)
  .ok { st := setCur s (fun x => { x with lfsr := k.2.lfsr }), val := some k.1, flags := k.2.flags }

def execCvt (d a : Reg) (f : Fin 8) (r : Rnd) (t c : CvType) (s : State) : Host.Outcome State Fault Refusal :=
  issue { i := .cvt d a f r t c, fmt := true, kind := .compute, srcs := [a], dst := some d, ecls := 1 } (cvtBody f r t c) s

/- ---------------------------------------------------------------- format registers -/

def execFmtr (d : Reg) (n : Fin 8) (s : State) : Host.Outcome State Fault Refusal :=
  issue { i := .fmtr d n, kind := .compute, dst := some d } (fun _ s => result s (w64 (cx s).fmt[n].toNat)) s

/-- R161: the prefix takes effect for the next instruction. -/
def execFmtp (a b o : Fin 8) (r : Rnd) (s : State) : Host.Outcome State Fault Refusal :=
  issue { i := .fmtp a b o r, kind := .compute }
    (fun _ s => .ok { st := setCur s (fun x => { x with
      st := w64 (putBits x.st.toNat 3 1 1), pfx := BitVec.ofNat 32 ((encodeNat (.fmtp a b o r)).getD 0) }) }) s

/- ---------------------------------------------------------------- qnt and dqt -/

/-- A running maximum after the f32 values listed (R173). Log 36 (DEDUCED), 38 (DEDUCED). -/
def amxUpdate (a : Word) (vs : List Nat) : Word :=
  vs.foldl (fun a v =>
    if (decodeF f32Fmt v).isNan then a ||| w64 (2 ^ 63)
    else if wBits a 0 32 < v % 2 ^ 31 then w64 (putBits a.toNat 0 32 (v % 2 ^ 31)) else a) a

/-- The running maximum an instruction names, updated at its retirement. Log 38 (DEDUCED). -/
def amxPut (m : AmxSel) (vs : List Nat) (x : Ctx) : Ctx :=
  match m with
  | none => x
  | some k => { x with amx := x.amx.set k (amxUpdate x.amx[k] vs) }

/-- One block of qnt: the scale byte, codes, flags and the LFSR (R171). Log 36 (DEDUCED). -/
def quantBlock (f : Fmt) (rnd : Nat) (l : BitVec 32) (xs : List Nat) : Nat × List Nat × List Nat × BitVec 32 :=
  let vs := xs.map (decodeF f32Fmt)
  if f.scale then blockQ f rnd l vs
  else let (cs, fs, l1) := eachF (fun v rs => encodeF f rnd rs v) vs l; (0x7F, cs, fs, l1)

/-- The packed register of R170. -/
def packedReg (w c0 c1 : Nat) (codes : List Nat) : BitVec 128 :=
  BitVec.ofNat 128 (streamOf w codes + c0 * 2 ^ 112 + c1 * 2 ^ 120)

/-- The format register of qnt or dqt: of KIND 0 (R169). -/
def narrowReg (x : Ctx) (n : Fin 8) : Option Fmt := if fmtKind x.fmt[n] = 0 then some (fmtOf x.fmt[n]) else none

/-- The effect of qnt (R171). -/
def qntBody (d a b : VReg) (f : FmtId) (r : Rnd) (m : AmxSel) : Body := fun _ s =>
  let x := cx s
  let n := match prefixOf x with | some p => p.out | none => f
  match narrowReg x n with
  | none => .trap illegal11
  | some q =>
    let xa := lanes (getV x a) 32
    let xb := lanes (getV x b) 32
    let (c0, k0, f0, l0) := quantBlock q (rounding x r) x.lfsr xa
    let (c1, k1, f1, l1) := quantBlock q (rounding x r) l0 xb
    .ok { st := setCur s (fun x => amxPut m (xa ++ xb) { setV x d (packedReg q.w c0 c1 (k0 ++ k1)) with lfsr := l1 })
          flags := orFlags (f0 ++ f1), mask := flagMask (f0 ++ f1) }

def execQnt (d a b : VReg) (f : FmtId) (r : Rnd) (m : AmxSel) (s : State) : Host.Outcome State Fault Refusal :=
  issue { i := .qnt d a b f r m, wu := some 4, fmt := true, kind := .compute, ecls := 2 } (qntBody d a b f r m) s

/-- Element `i` of a packed register (R62, R170). -/
def packedElem (f : Fmt) (v : BitVec 128) (i : Nat) : FVal :=
  let e := decodeF f (streamAt v.toNat f.w i)
  if f.scale then scaleV (bitsAt v.toNat (112 + 8 * (i / 4)) 8) e else e

/-- The effect of dqt (R172). -/
def dqtBody (d a b : VReg) (f : FmtId) (r : Rnd) (m : AmxSel) : Body := fun _ s =>
  let x := cx s
  let n := match prefixOf x with | some p => p.a | none => f
  match narrowReg x n with
  | none => .trap illegal11
  | some q =>
    if d = b then .trap illegal11
    else
      let rnd := rounding x r
      let (cs, fs, l) := eachF (fun i rs => encodeF f32Fmt rnd rs (packedElem q (getV x a) i)) (List.range 8) x.lfsr
      .ok { st := setCur s (fun x => amxPut m cs
              { setV (setV x d (packLanes 32 (cs.take 4))) b (packLanes 32 (cs.drop 4)) with lfsr := l })
            flags := orFlags fs, mask := flagMask fs }

def execDqt (d a b : VReg) (f : FmtId) (r : Rnd) (m : AmxSel) (s : State) : Host.Outcome State Fault Refusal :=
  issue { i := .dqt d a b f r m, wu := some 4, fmt := true, kind := .compute, ecls := 2 } (dqtBody d a b f r m) s

def execAmxRd (d : Reg) (m : Fin 4) (s : State) : Host.Outcome State Fault Refusal :=
  issue { i := .amxRd d m, kind := .compute, dst := some d } (fun _ s => result s (cx s).amx[m]) s

/-- amx.clr (R174). -/
def amxClear (i : Instr) (m : Fin 4) (s : State) : Host.Outcome State Fault Refusal :=
  issue { i := i, kind := .compute } (fun _ s => .ok { st := setCur s (fun x => { x with amx := x.amx.set m 0 }) }) s

def execAmxClr0 (s : State) : Host.Outcome State Fault Refusal := amxClear .amxClr0 0 s
def execAmxClr1 (s : State) : Host.Outcome State Fault Refusal := amxClear .amxClr1 1 s
def execAmxClr2 (s : State) : Host.Outcome State Fault Refusal := amxClear .amxClr2 2 s
def execAmxClr3 (s : State) : Host.Outcome State Fault Refusal := amxClear .amxClr3 3 s

/- ---------------------------------------------------------------- special functions -/

/-- A special function (R175): fmt-A and fmt-out of a prefix, else f32. -/
def special (i : Instr) (k : Sfn) (d a : Reg) (r : Rnd) (s : State) : Host.Outcome State Fault Refusal :=
  scalarFloat { i := i, wu := some 8, srcs := [a], dst := some d } false false true r
    (fun fa _ fo rnd rs cs => sfnF k fo rnd rs (decodeF fa (cs.getD 0 0))) s

def execFsin (d a : Reg) (r : Rnd) (s : State) : Host.Outcome State Fault Refusal := special (.fsin d a r) .sin d a r s
def execFcos (d a : Reg) (r : Rnd) (s : State) : Host.Outcome State Fault Refusal := special (.fcos d a r) .cos d a r s
def execFexp2 (d a : Reg) (r : Rnd) (s : State) : Host.Outcome State Fault Refusal := special (.fexp2 d a r) .exp2 d a r s
def execFlog2 (d a : Reg) (r : Rnd) (s : State) : Host.Outcome State Fault Refusal := special (.flog2 d a r) .log2 d a r s
def execFrcp (d a : Reg) (r : Rnd) (s : State) : Host.Outcome State Fault Refusal := special (.frcp d a r) .rcp d a r s
def execFrsq (d a : Reg) (r : Rnd) (s : State) : Host.Outcome State Fault Refusal := special (.frsq d a r) .rsq d a r s
def execFtanh (d a : Reg) (r : Rnd) (s : State) : Host.Outcome State Fault Refusal := special (.ftanh d a r) .tanh d a r s

end Sys2Proof.Machine
end

