-- ==== Sys2Proof/Machine/Engine.lean ====
section
/-! DEFINITION. What the engines share: the ranges of a command and the checks of its issue (R180, R182, R183), tokens
(R206), the engines' reads and writes of near memory (R333), completion, and joins (R227, R229). -/

namespace Sys2Proof.Machine

/-- Where a range may lie (R182, R209): own local memory, sibling windows and cluster memory; the weight-stack slice; or
any of the four. -/
inductive Place where
  | near | slice | any
  deriving DecidableEq, Repr

/-- A range that a command touches, or one row of it; HOME is the base of the whole range. -/
structure ERange where
  base : Nat
  len : Nat
  write : Bool
  place : Place
  home : Nat
  deriving DecidableEq, Repr

/-- The region a byte lies in: 0 own local memory inside LWIN, 1 cluster memory, 2 the slice, 3 + k a sibling window. -/
def regionOf (x : Ctx) (c a : Nat) : Option Nat :=
  if 2 ^ 32 ≤ a then none
  else
    match areaFor c a with
    | .own o => if inWindow x o then some 0 else none
    | .cluster _ => some 1
    | .wstack _ => some 2
    | .sibling k _ => some (3 + k)
    | _ => none

/-- Whether a region is permitted for a range; a destination in the slice fails later, with READONLY. -/
def regionOk (r : ERange) (k : Nat) : Bool :=
  match r.place with
  | .near => k != 2 || r.write
  | .slice => k == 2
  | .any => true

/-- The first byte that does not lie in the one permitted region that the whole range is to lie in (R34 step 1, R182). -/
def firstBad (x : Ctx) (c : Nat) (r : ERange) : Option Nat :=
  match regionOf x c r.home with
  | none => if r.len = 0 then none else some r.base
  | some k =>
    if regionOk r k then
      ((List.range r.len).find? (fun i => regionOf x c (r.base + i) != some k)).map (r.base + ·)
    else some r.base

/-- The first byte of a range that is not mapped for a context (R34 step 1). -/
def firstUnmapped (x : Ctx) (c : Nat) (r : ERange) : Option Nat :=
  ((List.range r.len).find? (fun i => (regionOf x c (r.base + i)).isNone)).map (r.base + ·)

/-- The first byte of a range that lies in the slice. -/
def firstSlice (x : Ctx) (c : Nat) (r : ERange) : Option Nat :=
  ((List.range r.len).find? (fun i => regionOf x c (r.base + i) == some 2)).map (r.base + ·)

/-- R180 step 4: each step of R34 over every range before the next step, then R434. -/
def rangeTrap (s : State) (c : Nat) (rs : List ERange) : Option Trap :=
  let x := getCtx s c
  match rs.findSome? (firstBad x c) with
  | some a => some (Trap.at cADDRESS a)
  | none =>
    match rs.find? (fun r => r.base % 16 != 0) with
    | some r => some (Trap.at cALIGN r.base)
    | none =>
      match rs.find? (fun r => r.write && regionOf x c r.base == some 2) with
      | some r => some (Trap.at cREADONLY r.base)
      | none => rs.findSome? (fun r => (lostPeer s c r.base).map (fun core => ⟨cPEER_LOST, r.base, false, core, 0, none⟩))

/-- The near lines of a range, each with its line where it has bits. -/
def rangeLines (c : Nat) (r : ERange) : List (Nat × Nat) :=
  if r.len = 0 then []
  else (List.range ((r.base + r.len - 1) / 128 - r.base / 128 + 1)).filterMap (fun i =>
    let a := (r.base / 128 + i) * 128
    match physOf c (if i = 0 then r.base else a) with
    | none => none
    | some p => (lineOf p).map (fun l => (a, l)))

/-- R183: the first line of the ranges that another party has marked against the access; neither the issuing context's own
bits nor the engine's own marks count. -/
def issueConflict (s : State) (c party : Nat) (rs : List ERange) : Option Trap :=
  rs.findSome? (fun r => (rangeLines c r).findSome? (fun l =>
    if s.marks.any (fun m => m.line == l.2 && m.party != party && m.party != partyOf c && (r.write || m.write)) then
      some (Trap.at cCONFLICT l.1) else none))

/-- The lines of a command's ranges marked under the engine's party index (R183). -/
def markRanges (s : State) (c party op tok : Nat) (rs : List ERange) : State :=
  let ms := rs.flatMap (fun r => (rangeLines c r).map (fun l => (⟨l.2, party, r.write, op, c, tok⟩ : Mark)))
  { s with marks := ms.foldl (fun acc m => if acc.contains m then acc else m :: acc) s.marks }

/-- A token of a context changed. -/
def modTok (s : State) (c : Nat) (t : TokId) (f : Token → Token) : State :=
  modCtx s c (fun x => { x with tok := x.tok.set t (f x.tok[t]) })

/-- A 3-bit field as a token's number. -/
def tokIx (n : Nat) : TokId := ⟨n % 8, by omega⟩

/-- The greatest count of a token (R206). -/
def tokMax : Nat := 2 ^ 20 - 1

/-- R228: a bound token whose VIS is 0 decrements its counter, unless it holds a fault, and is bound no more. Log 44 (DEDUCED). -/
def fireBind (s : State) (c : Nat) (t : TokId) : State :=
  let k := (getCtx s c).tok[t]
  if k.vis ≠ 0 || k.bind = 0 then s
  else
    let s1 := modTok s c t (fun k => { k with bind := 0 })
    if k.fault.isSome then s1 else signalCounter s1 (dieOf c) k.bind false false []

/-- Counts of a token drop (R206); a drop below zero by a record leaves the count at zero and holds TOK_OVERFLOW. -/
def tokenDrop (s : State) (c : Nat) (t : TokId) (sfree vis : Nat) (h : Option HeldFault) : State :=
  let s1 := modTok s c t (fun k => { k with
    sfree := k.sfree - sfree
    vis := k.vis - vis
    fault := if (k.sfree < sfree || k.vis < vis) && k.fault.isNone then h else k.fault })
  if vis = 0 then s1 else fireBind s1 c t

/-- R180 steps 4 to 8 for a command with its two words and ranges: the checks, the fork (R333) and what `k` does with the
operation's number. Log 110 (DEDUCED). -/
def issueCmd (s : State) (party : Nat) (t : TokId) (wu lo hi : Nat) (rs : List ERange) (k : State → Nat → State) : Res Out :=
  let c := s.cur
  match rangeTrap s c rs with
  | some f => .trap (if f.cause = cPEER_LOST then f else { f with spec0 := lo, spec1 := hi })
  | none =>
    match issueConflict s c party rs with
    | some f => .trap f
    | none =>
      if tokMax < (cx s).tok[t].vis + 1 then .trap (Trap.at cTOK_OVERFLOW 0)
      else
        match budgetCheck (cx s) c wu with
        | some f => .trap f
        | none =>
          let (id, s1) := fresh (drain s c)
          let s2 := modTok (markRanges s1 c party id t.val rs) c t (fun q => { q with vis := q.vis + 1 })
          .ok { st := k s2 id, wu := wu }

/-- Bytes that an engine reads (R330, R333): each aligned word from one position at or after the thread's view. -/
def engRead (s : State) (v : View) (a n : Nat) : List Byte :=
  if s.choices.isEmpty then memRead s.mem a n
  else
    (List.range n).map (fun i =>
      let w := (a + i) / 8 * 8
      let low := (List.range 8).foldl (fun m j => max m ((v.get? (w + j)).getD 0)) 0
      byteAtCut s (a + i) (max (s.stamp - s.choices.getD ((a + i) / 8 - a / 8) 0) low))

/-- Bytes that an engine writes perform (R333): the state and the thread's view after them. -/
def engWrite (s : State) (v : View) (a : Nat) (bs : List Byte) : State × View :=
  let s1 := performBytes s a bs
  (s1, moveView v a bs.length s1.stamp)

/-- A near range written through a context's map. -/
def engWriteNear (s : State) (v : View) (c a : Nat) (bs : List Byte) : State × View := engWrite s v (phys c a) bs

/-- Sticky flags that a command sets (R189); no FP is raised. Log 100 (DEDUCED). -/
def orSticky (s : State) (c flags : Nat) : State := modCtx s c (fun x => { x with st := w64 (x.st.toNat ||| flags * 128) })

/-- Energy added to ECNT, which saturates (R28, R283). Log 11 (DEDUCED). -/
def addEnergy (s : State) (c pj : Nat) : State :=
  modCtx s c (fun x => { x with ecnt := BitVec.ofNat 48 (min (2 ^ 48 - 1) (x.ecnt.toNat + pj)) })

/-- A completed thread that its context has not joined. Log 100 (DEDUCED). -/
def addThread (s : State) (c eng tok : Nat) (v : View) : State :=
  modCtx s c (fun x => { x with threads := x.threads ++ [⟨eng, tok, v⟩] })

/-- The first poisoned word of ranges a command reads (R426). -/
def rangePoison (s : State) (c : Nat) (rs : List ERange) : Option Trap :=
  rs.findSome? (fun r => if r.len = 0 then none else poisonTrap s c r.base r.len)

/-- Threads joined (R227, R229, R333): their views are merged and, for the matrix (0) and vector (1) engines, their marks
released. `p` tells the threads, by engine and token. Log 100 (DEDUCED). -/
def joinThreads (s : State) (c : Nat) (p : Nat → Nat → Bool) : State :=
  let x := getCtx s c
  let v := (x.threads.filter (fun t => p t.eng t.tok)).foldl (fun v t => mergeView v t.view) x.view
  let eng (m : Mark) : Nat := m.party % 7 - 4
  let s1 := putCtx s c { x with view := v, threads := x.threads.filter (fun t => !p t.eng t.tok) }
  { s1 with marks := s1.marks.filter (fun m => !(m.op != 0 && m.ctx == c && eng m != 2 && p (eng m) m.tok)) }

end Sys2Proof.Machine
end

