-- ==== Sys2Proof/Machine/Matrix.lean ====
section
/-! DEFINITION. The matrix engine (R177 to R204): the issue of its commands, their completion, and the queries. -/

namespace Sys2Proof.Machine

/-- Commands waiting in a queue behind the running one (R177). -/
def waitingCmds (q : List EngCmd) : Nat := (q.filter (fun e => !e.running)).length

/-- Whether a stride is permitted for a row size (R182). -/
def strideOk (str rb : Nat) : Bool := str % 16 == 0 && decide (ceilDiv rb 16 * 16 ≤ str ∧ str ≤ 65520)

/-- Sixteen rows (R184, R192, R195). Log 111 (DEDUCED). -/
def rowRanges (base str rb : Nat) (write : Bool) (p : Place) : List ERange :=
  (List.range 16).map (fun i => ⟨base + i * str, rb, write, p, base⟩)

/-- The scale bytes behind sixteen rows, for a format with SCALE 1. -/
def scaleRange (f : Fmt) (base str n : Nat) (write : Bool) (p : Place) : List ERange :=
  if f.scale then [⟨base + 16 * str, n, write, p, base + 16 * str⟩] else []

/-- A matrix command joins its queue. -/
def pushMat (e : EngCmd) (s : State) : State :=
  postOnce (modCore s (coreOf e.ctx) (fun k => { k with mat := k.mat ++ [e] })) .matrixCommandStart [coreOf e.ctx]

/-- The k-step counter of an accumulator set (R187). Log 43 (DEDUCED). -/
def setKs (s : State) (c : Nat) (k : Fin 4) (n : Nat) : State :=
  modCtx s c (fun x => { x with ks := x.ks.set k (BitVec.ofNat 8 n) })

/-- A command with nothing but its identity. -/
def bareCmd (id op c : Nat) (t : TokId) (k : Fin 4) (cmd : Nat) (v : View) : EngCmd :=
  { id := id, op := op, ctx := c, tok := t.val, k := k.val, cmd := cmd, fa := 0, fb := 0, fo := 0, ft := 0, rnd := 0
    ks := 0, keep := false, amx := none, yb := false, lfsr := 0, view := v, running := false, slice := false }

/-- The ranges of an mma form (R182, R185): A rows, A scales, B rows, B scales; `slice` for B from the weight stack. -/
def mmaRanges (fa fb : Fmt) (lo hi : Nat) (slice : Bool) : List ERange :=
  let pb : Place := if slice then .slice else .near
  rowRanges (bitsAt lo 0 32) (bitsAt lo 32 16) (4 * fa.w) false .near ++
    scaleRange fa (bitsAt lo 0 32) (bitsAt lo 32 16) 128 false .near ++
    rowRanges (bitsAt hi 0 32) (bitsAt hi 32 16) (4 * fb.w) false pb ++
    scaleRange fb (bitsAt hi 0 32) (bitsAt hi 32 16) 128 false pb

/-- The effect of the four mma forms (R180, R185 to R187): op 0 mma, 1 mma.l, 2 mma.z, 3 mma.z.l. Log 43 (DEDUCED). -/
def mmaBody (op : Nat) (t : TokId) (k : Fin 4) : Body := fun ws s =>
  let c := s.cur
  let x := cx s
  let lo := (src ws 0).toNat
  let hi := (src ws 1).toNat
  let ra := x.fmt[(match prefixOf x with | some p => p.a | none => fmtIx (bitsAt lo 48 3))]
  let rb := x.fmt[(match prefixOf x with | some p => p.b | none => fmtIx (bitsAt lo 51 3))]
  let fa := fmtOf ra
  let fb := fmtOf rb
  let slice := op = 0 || op = 2
  if 2 ≤ waitingCmds (getCore s (coreOf c)).mat then .wait s
  else if bitsAt lo 54 10 ≠ 0 || bitsAt hi 48 16 ≠ 0 || fmtKind ra = 3 || fmtKind rb = 3 ||
      !strideOk (bitsAt lo 32 16) (4 * fa.w) || !strideOk (bitsAt hi 32 16) (4 * fb.w) then .trap illegal11
  else
    let ks := if op ≤ 1 then x.ks[k].toNat else 0
    match issueCmd s (engParty (coreOf c) 0) t 16 lo hi (mmaRanges fa fb lo hi slice) (fun s1 id =>
      pushMat { bareCmd id op c t k (lo + hi * 2 ^ 64) (getCtx s1 c).view with
        fa := ra.toNat, fb := rb.toNat, ks := ks } (setKs s1 c k (ks + 1))) with
    | .ok o => .ok { o with unv := slice }
    | r => r

/-- What issue needs to know of a matrix command. -/
def matSpec (i : Instr) (fmt : Bool) (srcs : List Reg) : Spec :=
  { i := i, wu := none, fmt := fmt, kind := .compute, srcs := srcs, ecls := 4 }

def execMma (a b : Reg) (t : TokId) (k : Fin 4) (s : State) : Host.Outcome State Fault Refusal :=
  issue (matSpec (.mma a b t k) true [a, b]) (mmaBody 0 t k) s

def execMmaL (a b : Reg) (t : TokId) (k : Fin 4) (s : State) : Host.Outcome State Fault Refusal :=
  issue (matSpec (.mmaL a b t k) true [a, b]) (mmaBody 1 t k) s

def execMmaZ (a b : Reg) (t : TokId) (k : Fin 4) (s : State) : Host.Outcome State Fault Refusal :=
  issue (matSpec (.mmaZ a b t k) true [a, b]) (mmaBody 2 t k) s

def execMmaZL (a b : Reg) (t : TokId) (k : Fin 4) (s : State) : Host.Outcome State Fault Refusal :=
  issue (matSpec (.mmaZL a b t k) true [a, b]) (mmaBody 3 t k) s

/-- The effect of accz (R191). Log 43 (DEDUCED). -/
def acczBody (t : TokId) (k : Fin 4) : Body := fun _ s =>
  let c := s.cur
  if 2 ≤ waitingCmds (getCore s (coreOf c)).mat then .wait s
  else issueCmd s (engParty (coreOf c) 0) t 1 0 0 [] (fun s1 id =>
    pushMat (bareCmd id 4 c t k 0 (getCtx s1 c).view) (setKs s1 c k 0))

def execAccz (t : TokId) (k : Fin 4) (s : State) : Host.Outcome State Fault Refusal :=
  issue (matSpec (.accz t k) false []) (acczBody t k) s

/-- The effect of accld (op 5) and psum.add (op 8) (R192, R193). Log 43 (DEDUCED). -/
def loadAccBody (op : Nat) (t : TokId) (k : Fin 4) : Body := fun ws s =>
  let c := s.cur
  let lo := (src ws 0).toNat
  let hi := (src ws 1).toNat
  if 2 ≤ waitingCmds (getCore s (coreOf c)).mat then .wait s
  else if hi ≠ 0 || bitsAt lo 48 16 ≠ 0 || !strideOk (bitsAt lo 32 16) 64 then .trap illegal11
  else issueCmd s (engParty (coreOf c) 0) t 4 lo hi (rowRanges (bitsAt lo 0 32) (bitsAt lo 32 16) 64 false .near)
    (fun s1 id => pushMat { bareCmd id op c t k lo (getCtx s1 c).view with ks := (cx s).ks[k].toNat }
      (if op = 5 then setKs s1 c k 0 else s1))

def execAccld (a b : Reg) (t : TokId) (k : Fin 4) (s : State) : Host.Outcome State Fault Refusal :=
  issue (matSpec (.accld a b t k) false [a, b]) (loadAccBody 5 t k) s

def execPsumAdd (a b : Reg) (t : TokId) (k : Fin 4) (s : State) : Host.Outcome State Fault Refusal :=
  issue (matSpec (.psumAdd a b t k) false [a, b]) (loadAccBody 8 t k) s

/-- The rounding of a command (R194, R208): a prefix's unless it is own, else the command's code; dyn is ST.RND. -/
def cmdRnd (x : Ctx) (code : Nat) : Nat :=
  let r := match prefixOf x with
    | some p => if p.rnd ≠ 5 then p.rnd else code
    | none => code
  if r = 5 then stRnd x else r

/-- The ranges of one drained copy (R194, R195). -/
def copyRanges (f : Fmt) (w : Nat) : List ERange :=
  rowRanges (bitsAt w 0 32) (bitsAt w 32 16) (2 * f.w) true .near ++
    scaleRange f (bitsAt w 0 32) (bitsAt w 32 16) 64 true .near

/-- Whether a format is f32. -/
def isF32 (f : Fmt) : Bool := f == f32Fmt

/-- The LFSR after `n` steps. -/
def lfsrSteps : Nat → BitVec 32 → BitVec 32
  | 0, l => l
  | n + 1, l => lfsrSteps n (lfsrStep l)

/-- The effect of drn (op 6) and drn.t (op 7) (R194 to R197). Log 43 (DEDUCED). -/
def drnBody (op : Nat) (t : TokId) (m : AmxSel) (keep : Bool) (k : Fin 4) : Body := fun ws s =>
  let c := s.cur
  let x := cx s
  let lo := (src ws 0).toNat
  let hi := (src ws 1).toNat
  let tr := op = 7
  let ro := x.fmt[(match prefixOf x with | some p => p.out | none => fmtIx (bitsAt lo 48 3))]
  let rt := x.fmt[fmtIx (bitsAt hi 48 3)]
  let rnd := cmdRnd x (bitsAt lo 51 3)
  if 2 ≤ waitingCmds (getCore s (coreOf c)).mat then .wait s
  else if bitsAt lo 54 10 ≠ 0 || (if tr then bitsAt hi 51 13 ≠ 0 else hi ≠ 0) || 5 < bitsAt lo 51 3 ||
      !strideOk (bitsAt lo 32 16) (2 * (fmtOf ro).w) || (tr && !strideOk (bitsAt hi 32 16) (2 * (fmtOf rt).w)) then
    .trap illegal11
  else
    let draws := if rnd = rSR then
      (if isF32 (fmtOf ro) then 0 else 256) + (if tr && !isF32 (fmtOf rt) then 256 else 0) else 0
    issueCmd s (engParty (coreOf c) 0) t (if tr then 8 else 4) lo hi
      (copyRanges (fmtOf ro) lo ++ (if tr then copyRanges (fmtOf rt) hi else []))
      (fun s1 id => pushMat { bareCmd id op c t k (lo + hi * 2 ^ 64) (getCtx s1 c).view with
          fo := ro.toNat, ft := rt.toNat, rnd := rnd, keep := keep, amx := m.map Fin.val, lfsr := x.lfsr }
        (modCtx (if keep then s1 else setKs s1 c k 0) c (fun y => { y with lfsr := lfsrSteps draws y.lfsr })))

def execDrn (a b : Reg) (t : TokId) (m : AmxSel) (e : Bool) (k : Fin 4) (s : State) : Host.Outcome State Fault Refusal :=
  issue (matSpec (.drn a b t m e k) true [a, b]) (drnBody 6 t m e k) s

def execDrnT (a b : Reg) (t : TokId) (m : AmxSel) (e : Bool) (k : Fin 4) (s : State) : Host.Outcome State Fault Refusal :=
  issue (matSpec (.drnT a b t m e k) true [a, b]) (drnBody 7 t m e k) s

/- ---------------------------------------------------------------- completion -/

/-- The f32 words of an accumulator in element order. -/
def accWords (l : List (BitVec 32)) : List Nat := (List.range 256).map (fun i => (l.getD i 0).toNat)

/-- A NaN word of the matrix engine (R64). -/
def nanWord (core ks : Nat) : Nat := 0x7FC00000 + core % 2 ^ 14 * 256 + ks % 256

/-- Whether an f32 word is a NaN. -/
def isNan32 (w : Nat) : Bool := (decodeF f32Fmt w).isNan

/-- The elements of a row of an operand (R184): the row's bytes, and the scale bytes of the whole operand. -/
def tileRow (f : Fmt) (bytes scales : List Byte) (n : Nat) : List FVal :=
  let w := leNat bytes
  (List.range 32).map (fun q =>
    let v := decodeF f (streamAt w f.w q)
    if f.scale then scaleV ((scales.getD (8 * n + q / 4) 0).toNat) v else v)

/-- The sixteen rows or columns of an operand as an engine reads them. -/
def tileOf (s : State) (v : View) (c : Nat) (f : Fmt) (base str : Nat) : List (List FVal) :=
  let sc := if f.scale then engRead s v (phys c (base + 16 * str)) 128 else []
  (List.range 16).map (fun n => tileRow f (engRead s v (phys c (base + n * str)) (4 * f.w)) sc n)

/-- The exact sum of values, none when it is invalid. -/
def sumX : List FVal → Option FVal
  | [] => some (.fin false 0 0)
  | v :: t => t.foldl (fun acc x => match acc with | some a => addX 0 a x | none => none) (some v)

/-- The rounded sum of products of an mma, none for a NaN, and its flags (R188, R189). -/
def dotF (a b : List FVal) : Option Nat × Nat :=
  let ps := (a.zip b).filter (fun p => !p.1.isNan && !p.2.isNan)
  let xs := ps.map (fun p => mulX p.1 p.2)
  let sum := if xs.all Option.isSome then sumX (xs.filterMap id) else none
  match sum with
  | none => (none, fNV)
  | some v =>
    if ps.length < (a.zip b).length then (none, 0)
    else let r := encodeF f32Fmt 0 ⟨0, 0⟩ v; (some r.1, r.2.flags)

/-- One element of an mma (R188): the new word and the flags; `z` for the overwriting forms. Log 101 (DEDUCED). -/
def mmaElem (z : Bool) (nan old : Nat) (d : Option Nat × Nat) : Nat × Nat :=
  if z then (d.1.getD nan, d.2)
  else if isNan32 old then (old, d.2)
  else
    match d.1 with
    | none => (nan, d.2)
    | some sw =>
      match addX 0 (decodeF f32Fmt old) (decodeF f32Fmt sw) with
      | none => (nan, d.2 ||| fNV)
      | some v => let r := encodeF f32Fmt 0 ⟨0, 0⟩ v; (r.1, d.2 ||| r.2.flags)

/-- Whether any element of an operand is a signalling NaN (R189). -/
def anySig (rows : List (List FVal)) : Bool := rows.any (fun r => r.any FVal.isSig)

/-- The words of an accumulator after an mma, and its flags. -/
def mmaResult (z : Bool) (nan : Nat) (a b : List (List FVal)) (old : List Nat) : List Nat × Nat :=
  let es := (a.flatMap (fun r => b.map (fun q => dotF r q))).zip old |>.map (fun p => mmaElem z nan p.2 p.1)
  (es.map Prod.fst, orFlags (es.map Prod.snd) ||| (if anySig a || anySig b then fNV else 0))

/-- The f32 words of a source of accld or psum.add (R192). -/
def srcWords (s : State) (v : View) (c base str : Nat) : List Nat :=
  (List.range 16).flatMap (fun i =>
    let w := leNat (engRead s v (phys c (base + i * str)) 64)
    (List.range 16).map (fun j => streamAt w 32 j))

/-- Which of two NaN words wins (R65, R193): the smaller bits [21:8], then [7:0], then word. Log 101 (DEDUCED). -/
def nanLess (a t : Nat) : Bool :=
  let key (w : Nat) : Nat := bitsAt w 8 14 * 2 ^ 40 + bitsAt w 0 8 * 2 ^ 32 + w
  key a ≤ key t

/-- One element of psum.add (R193). Log 101 (DEDUCED). -/
def psumElem (nan a t : Nat) : Nat × Nat :=
  if isNan32 a && isNan32 t then (if nanLess a t then a else t, 0)
  else if isNan32 a then (a, 0)
  else if isNan32 t then (t, 0)
  else
    match addX 0 (decodeF f32Fmt a) (decodeF f32Fmt t) with
    | none => (nan, fNV)
    | some v => let r := encodeF f32Fmt 0 ⟨0, 0⟩ v; (r.1, r.2.flags)

/-- One row of a drained copy: its bytes, scale bytes, flags and the LFSR (R195, R196). -/
def drainRow (f : Fmt) (rnd : Nat) (l : BitVec 32) (ws : List Nat) : List Byte × List Byte × Nat × BitVec 32 :=
  if isF32 f then (ws.flatMap (fun w => leBytes 4 w), [], 0, l)
  else if f.scale then
    let (cs, sc, fl, l1) := (List.range 4).foldl
      (fun (acc : List Nat × List Byte × Nat × BitVec 32) b =>
        let (c, ks, fs, l2) := blockQ f rnd acc.2.2.2 (((ws.drop (4 * b)).take 4).map (decodeF f32Fmt))
        (acc.1 ++ ks, acc.2.1 ++ [BitVec.ofNat 8 c], acc.2.2.1 ||| orFlags fs, l2)) ([], [], 0, l)
    (leBytes (2 * f.w) (streamOf f.w cs), sc, fl, l1)
  else
    let (cs, fs, l1) := eachF (fun w rs => encodeF f rnd rs (decodeF f32Fmt w)) ws l
    (leBytes (2 * f.w) (streamOf f.w cs), [], orFlags fs, l1)

/-- A drained copy written (R195): rows at the stride, then the scale bytes; the words are in the copy's own row order. -/
def drainCopy (s : State) (v : View) (c : Nat) (f : Fmt) (rnd : Nat) (l : BitVec 32) (w : Nat) (ws : List Nat) :
    State × View × Nat × BitVec 32 :=
  let base := bitsAt w 0 32
  let str := bitsAt w 32 16
  let (s1, v1, sc, fl, l1) := (List.range 16).foldl
    (fun (acc : State × View × List Byte × Nat × BitVec 32) n =>
      let (bs, sc, fl, l2) := drainRow f rnd acc.2.2.2.2 ((ws.drop (16 * n)).take 16)
      let (s2, v2) := engWriteNear acc.1 acc.2.1 c (base + n * str) bs
      (s2, v2, acc.2.2.1 ++ sc, acc.2.2.2.1 ||| fl, l2)) (s, v, [], 0, l)
  let (s2, v2) := if sc.isEmpty then (s1, v1) else engWriteNear s1 v1 c (base + 16 * str) sc
  (s2, v2, fl, l1)

/-- A transposed list of 256 words. -/
def transpose (ws : List Nat) : List Nat := (List.range 256).map (fun i => ws.getD (i % 16 * 16 + i / 16) 0)

/-- The accumulator of a context set. -/
def setAcc (s : State) (c : Nat) (k : Fin 4) (ws : List Nat) : State :=
  modCtx s c (fun x => { x with acc := x.acc.set k (ws.map (BitVec.ofNat 32)) })

/-- The source ranges of a matrix command. -/
def matReads (e : EngCmd) : List ERange :=
  let lo := e.cmd % 2 ^ 64
  let hi := e.cmd / 2 ^ 64
  if e.op ≤ 3 then mmaRanges (fmtOf (BitVec.ofNat 32 e.fa)) (fmtOf (BitVec.ofNat 32 e.fb)) lo hi (e.op % 2 == 0)
  else if e.op = 5 || e.op = 8 then rowRanges (bitsAt lo 0 32) (bitsAt lo 32 16) 64 false .near
  else []

/-- A drain's writes and updates (R198). Log 43 (DEDUCED). -/
def drainRun (s : State) (e : EngCmd) (k : Fin 4) (old : List Nat) : State × View × Nat :=
  let lo := e.cmd % 2 ^ 64
  let hi := e.cmd / 2 ^ 64
  let (s1, v1, f1, l1) := drainCopy s e.view e.ctx (fmtOf (BitVec.ofNat 32 e.fo)) e.rnd e.lfsr lo old
  let (s2, v2, f2, _) := if e.op = 7
    then drainCopy s1 v1 e.ctx (fmtOf (BitVec.ofNat 32 e.ft)) e.rnd l1 hi (transpose old) else (s1, v1, 0, l1)
  let s3 := modCtx s2 e.ctx (fun x => match e.amx with
    | some m => { x with amx := x.amx.set (chanIx m) (amxUpdate x.amx[chanIx m] old) }
    | none => x)
  (if e.keep then s3 else setKs (setAcc s3 e.ctx k []) e.ctx k 0, v2, f1 ||| f2)

/-- What a matrix command does to its accumulator and to memory: the state, the thread's view and the flags. -/
def matRun (s : State) (e : EngCmd) : State × View × Nat :=
  let k := chanIx e.k
  let lo := e.cmd % 2 ^ 64
  let hi := e.cmd / 2 ^ 64
  let nan := nanWord (coreOf e.ctx) e.ks
  let old := accWords (getCtx s e.ctx).acc[k]
  if e.op ≤ 3 then
    let a := tileOf s e.view e.ctx (fmtOf (BitVec.ofNat 32 e.fa)) (bitsAt lo 0 32) (bitsAt lo 32 16)
    let b := tileOf s e.view e.ctx (fmtOf (BitVec.ofNat 32 e.fb)) (bitsAt hi 0 32) (bitsAt hi 32 16)
    let r := mmaResult (2 ≤ e.op) nan a b old
    (addEnergy (setAcc s e.ctx k r.1) e.ctx (16 * 160), e.view, r.2)
  else if e.op = 4 then (setAcc s e.ctx k [], e.view, 0)
  else if e.op = 5 then (setAcc s e.ctx k (srcWords s e.view e.ctx (bitsAt lo 0 32) (bitsAt lo 32 16)), e.view, 0)
  else if e.op = 8 then
    let r := (old.zip (srcWords s e.view e.ctx (bitsAt lo 0 32) (bitsAt lo 32 16))).map (fun p => psumElem nan p.1 p.2)
    (setAcc s e.ctx k (r.map Prod.fst), e.view, orFlags (r.map Prod.snd))
  else drainRun s e k old

/-- The end of an engine command (R181): flags, the token's drop, the thread to be joined; or the containment of a poisoned
word it met (R426, R432). -/
def endCmd (s : State) (e : EngCmd) (eng : Nat) (reads : List ERange) (run : State → EngCmd → State × View × Nat) : State :=
  match rangePoison s e.ctx reads with
  | some t => containCtx (tokenDrop s e.ctx (tokIx e.tok) 0 1 none) e.ctx t.spec0 t.addr false (t.spec1 == 1)
  | none =>
    let (s1, v, fl) := run s e
    settle (tokenDrop (addThread (orSticky s1 e.ctx fl) e.ctx eng e.tok v) e.ctx (tokIx e.tok) 0 1 none) e.ctx

/-- R177: the oldest command begins, when none runs. Names the core. -/
def matrixStartEv (s : State) : State :=
  match (getCore s (argN s 0)).mat with
  | [] => s
  | e :: t =>
    if e.running then s
    else postOnce (modCore s (argN s 0) (fun k => { k with mat := { e with running := true } :: t })) .matrixCommandComplete
      [argN s 0]

def execMatrixCommandStart (s : State) : Host.Outcome State Fault Refusal := happens matrixStartEv s

/-- R181: the running command completes and the next may begin. Names the core. -/
def matrixCompleteEv (s : State) : State :=
  match (getCore s (argN s 0)).mat with
  | [] => s
  | e :: t =>
    if e.running then
      let s1 := modCore s (argN s 0) (fun k => { k with mat := t })
      endCmd (if t.isEmpty then s1 else postOnce s1 .matrixCommandStart [argN s 0]) e 0 (matReads e) matRun
    else s

def execMatrixCommandComplete (s : State) : Host.Outcome State Fault Refusal := happens matrixCompleteEv s

/- ---------------------------------------------------------------- queries -/

/-- The word of mq.stat (R199). -/
def mqStatVal (s : State) : Nat :=
  let x := cx s
  let q := (getCore s (coreOf s.cur)).mat
  let pacc := (List.range 4).foldl (fun n k => n + bit (q.any (fun e => e.ctx == s.cur && e.k == k)) * 2 ^ k) 0
  min 2 (waitingCmds q) + bit (q.any EngCmd.running) * 4 + pacc * 16 + x.ks[0].toNat * 2 ^ 24 + x.ks[1].toNat * 2 ^ 32 +
    x.ks[2].toNat * 2 ^ 40 + x.ks[3].toNat * 2 ^ 48

/-- The word of mq.nan (R200). -/
def mqNanVal (s : State) (k : Fin 4) : Nat :=
  let q := (getCore s (coreOf s.cur)).mat
  let pend := min 3 (q.filter (fun e => e.ctx == s.cur && e.k == k.val)).length
  let nans := (accWords (cx s).acc[k]).zipIdx.filter (fun p => isNan32 p.1)
  let best := nans.foldl (fun (b : Option (Nat × Nat)) p => match b with
    | none => some p
    | some q => if nanLess q.1 p.1 then some q else some p) none
  match best with
  | none => pend * 2 ^ 49
  | some (w, i) => w + i * 2 ^ 32 + nans.length * 2 ^ 40 + pend * 2 ^ 49

def execMqStat (d : Reg) (s : State) : Host.Outcome State Fault Refusal :=
  issue { i := .mqStat d, kind := .compute, dst := some d, ecls := 4 }
    (fun _ s => .ok { st := s, val := some (w64 (mqStatVal s)), unv := true }) s

def execMqNan (d : Reg) (k : Fin 4) (s : State) : Host.Outcome State Fault Refusal :=
  issue { i := .mqNan d k, kind := .compute, dst := some d, ecls := 4 }
    (fun _ s => .ok { st := s, val := some (w64 (mqNanVal s k)), unv := true }) s

def execMqCap (d : Reg) (s : State) : Host.Outcome State Fault Refusal :=
  issue { i := .mqCap d, kind := .compute, dst := some d, ecls := 4 }
    (fun _ s => result s 0x05430FFC20101024) s

end Sys2Proof.Machine
end

