-- ==== Sys2Proof/Machine/Vector.lean ====
section
/-! DEFINITION. The vector engine (R207 to R214): the issue of its commands and their completion. -/

namespace Sys2Proof.Machine

/-- The fields of a vector command (R208). -/
structure VCmd where
  fn : Nat
  rnd : Nat
  fd : Nat
  fy : Nat
  fx : Nat
  count : Nat
  ybase : Nat
  dbase : Nat
  xbase : Nat
  deriving DecidableEq, Repr

/-- The fields of a command's 128 bits. -/
def vcmdOf (lo hi : Nat) : VCmd :=
  ⟨bitsAt hi 60 4, bitsAt hi 57 3, bitsAt hi 54 3, bitsAt hi 51 3, bitsAt hi 48 3, bitsAt hi 32 16, bitsAt hi 0 32,
    bitsAt lo 32 32, bitsAt lo 0 32⟩

/-- Bytes of a stream of `n` elements (R209). -/
def streamLen (f : Fmt) (n : Nat) : Nat := ceilDiv (n * f.w) 8

/-- Where an operand's scale bytes lie behind its base (R209). -/
def scaleOff (f : Fmt) (n : Nat) : Nat := ceilDiv (streamLen f n) 16 * 16

/-- The ranges of an operand of `n` elements (R209, R210). -/
def operandRanges (f : Fmt) (base n : Nat) (write : Bool) : List ERange :=
  let p : Place := if write then .near else .any
  ⟨base, streamLen f n, write, p, base⟩ :: (if f.scale then [⟨base + scaleOff f n, ceilDiv n 4, write, p, base + scaleOff f n⟩] else [])

/-- Whether an op uses Y as values: vx.ew with functions 0 to 5 (R211). -/
def usesY (op fn : Nat) : Bool := op == 0 && fn ≤ 5

/-- Whether Y holds indices (R213). -/
def indexed (op : Nat) : Bool := op == 4 || op == 5

/-- Whether a function value is reserved (R211, R213). -/
def fnReserved (op fn : Nat) : Bool :=
  if op = 0 then 8 < fn else if op = 1 then 3 < fn else if op = 2 then 0 < fn else if op = 3 then 6 < fn else 12 < fn

/-- Table length of a gather or scatter (R213). -/
def tableLen (fn : Nat) : Nat := 2 ^ (fn + 4)

/-- The elements of X, Y and D (R211, R213). -/
def xCount (op : Nat) (v : VCmd) : Nat := if op = 4 then tableLen v.fn else v.count
def yCount (yb : Bool) (v : VCmd) : Nat := if yb then 1 else v.count
def dCount (op : Nat) (v : VCmd) : Nat := if op = 1 then 1 else if op = 5 then tableLen v.fn else v.count

/-- The source ranges of a vector command, X then Y. -/
def vecReads (op : Nat) (yb : Bool) (fx fy : Fmt) (v : VCmd) : List ERange :=
  operandRanges fx v.xbase (xCount op v) false ++
    (if usesY op v.fn then operandRanges fy v.ybase (yCount yb v) false
    else if indexed op then [⟨v.ybase, 2 * v.count, false, .any, v.ybase⟩] else [])

/-- Wmax of R207: the widest element among the formats used, indices as 16 bits. -/
def widest (op : Nat) (fx fy fd : Fmt) (v : VCmd) : Nat :=
  max (max fx.w fd.w) (if usesY op v.fn then fy.w else if indexed op then 16 else 0)

/-- bytes of R207. -/
def vecBytes (op : Nat) (fx fy fd : Fmt) (v : VCmd) : Nat := ceilDiv (v.count * widest op fx fy fd v) 8

/-- A vector command joins its queue. -/
def pushVec (e : EngCmd) (s : State) : State :=
  postOnce (modCore s (coreOf e.ctx) (fun k => { k with vec := k.vec ++ [e] })) .vectorCommandStart [coreOf e.ctx]

/-- The check of a command's fields (R208, R211, R213); registers after prefix replacement. Log 130 (DESIGN CHOICE). -/
def vecBad (op : Nat) (x : Ctx) (v : VCmd) (nx nd : Fin 8) : Bool :=
  fnReserved op v.fn || 5 < v.rnd || v.count == 0 ||
    (!usesY op v.fn && v.fy != 0) || (!usesY op v.fn && !indexed op && v.ybase != 0) ||
    (indexed op && (nx != nd || (fmtOf x.fmt[nx]).scale))

/-- The effect of a vector command's issue (R210). Log 110 (DEDUCED). -/
def vecBody (op : Nat) (t : TokId) (m : AmxSel) (yb : Bool) : Body := fun ws s =>
  let c := s.cur
  let x := cx s
  let lo := (src ws 0).toNat
  let hi := (src ws 1).toNat
  let v := vcmdOf lo hi
  let p := prefixOf x
  let nx := match p with | some q => q.a | none => fmtIx v.fx
  let ny := match p with | some q => q.b | none => fmtIx v.fy
  let nd := match p with | some q => q.out | none => fmtIx v.fd
  let fx := fmtOf x.fmt[nx]
  let fy := fmtOf x.fmt[ny]
  let fd := fmtOf x.fmt[nd]
  if 2 ≤ waitingCmds (getCore s (coreOf c)).vec then .wait s
  else if vecBad op x v nx nd then .trap illegal11
  else
    let rnd := cmdRnd x v.rnd
    let reads := vecReads op yb fx fy v
    let inSl := reads.any (fun r => regionOf x c r.base == some 2)
    let draws := if rnd = rSR && !indexed op then dCount op v else 0
    match issueCmd s (engParty (coreOf c) 1) t (2 + ceilDiv (vecBytes op fx fy fd v) 64) lo hi
      (reads ++ operandRanges fd v.dbase (dCount op v) true)
      (fun s1 id => pushVec { bareCmd id (32 + op) c t 0 (lo + hi * 2 ^ 64) (getCtx s1 c).view with
          fa := x.fmt[nx].toNat, fb := x.fmt[ny].toNat, fo := x.fmt[nd].toNat, rnd := rnd, amx := m.map Fin.val
          yb := yb, lfsr := x.lfsr, slice := inSl }
        (modCtx s1 c (fun y => { y with lfsr := lfsrSteps draws y.lfsr }))) with
    | .ok o => .ok { o with unv := inSl }
    | r => r

/-- What issue needs to know of a vector command. -/
def vecSpec (i : Instr) (a b : Reg) : Spec :=
  { i := i, wu := none, fmt := true, kind := .compute, srcs := [a, b], ecls := 5 }

def execVxEw (a b : Reg) (t : TokId) (m : AmxSel) (y : Bool) (s : State) : Host.Outcome State Fault Refusal :=
  issue (vecSpec (.vxEw a b t m y) a b) (vecBody 0 t m y) s

def execVxRed (a b : Reg) (t : TokId) (m : AmxSel) (s : State) : Host.Outcome State Fault Refusal :=
  issue (vecSpec (.vxRed a b t m) a b) (vecBody 1 t m false) s

def execVxCvt (a b : Reg) (t : TokId) (m : AmxSel) (s : State) : Host.Outcome State Fault Refusal :=
  issue (vecSpec (.vxCvt a b t m) a b) (vecBody 2 t m false) s

def execVxSfn (a b : Reg) (t : TokId) (m : AmxSel) (s : State) : Host.Outcome State Fault Refusal :=
  issue (vecSpec (.vxSfn a b t m) a b) (vecBody 3 t m false) s

def execVxGth (a b : Reg) (t : TokId) (s : State) : Host.Outcome State Fault Refusal :=
  issue (vecSpec (.vxGth a b t) a b) (vecBody 4 t none false) s

def execVxSct (a b : Reg) (t : TokId) (s : State) : Host.Outcome State Fault Refusal :=
  issue (vecSpec (.vxSct a b t) a b) (vecBody 5 t none false) s

/- ---------------------------------------------------------------- completion -/

/-- The values of an operand's elements (R62, R209). -/
def operandVals (s : State) (v : View) (c : Nat) (f : Fmt) (base n : Nat) : List FVal :=
  let w := leNat (engRead s v (phys c base) (streamLen f n))
  let sc := if f.scale then engRead s v (phys c (base + scaleOff f n)) (ceilDiv n 4) else []
  (List.range n).map (fun i =>
    let e := decodeF f (streamAt w f.w i)
    if f.scale then scaleV ((sc.getD (i / 4) 0).toNat) e else e)

/-- An exact result from its operands (R48): the first NaN operand, the value, or the default NaN; and the flags of that. -/
def exactV (args : List FVal) (r : Option FVal × Nat) : FVal × Nat :=
  match args.find? FVal.isNan with
  | some v => (v, if args.any FVal.isSig then fNV else 0)
  | none => (r.1.getD defaultNan, if r.1.isNone then fNV else r.2)

/-- A value without its sign. -/
def absV (v : FVal) : FVal := if v.neg then v.flip else v

/-- An element of vx.ew (R211). -/
def ewV (fn rnd : Nat) (x y d : FVal) : FVal × Nat :=
  if fn = 0 then exactV [x, y] (addX rnd x y, 0)
  else if fn = 1 then exactV [x, y] (addX rnd x y.flip, 0)
  else if fn = 2 then exactV [x, y] (mulX x y, 0)
  else if fn = 3 then exactV [x, y, d] (fmaX rnd x y d, 0)
  else if fn = 4 then exactV [x, y] (some (if firstWins false x y then x else y), 0)
  else if fn = 5 then exactV [x, y] (some (if firstWins true x y then x else y), 0)
  else if fn = 6 then exactV [x] (some (absV x), 0)
  else if fn = 7 then exactV [x] (some x.flip, 0)
  else exactV [x] (some (if firstWins true x (.fin false 0 0) then x else .fin false 0 0), 0)

/-- vx.red (R211). Log 37 (DEDUCED). -/
def redV (fn rnd : Nat) (xs : List FVal) : FVal × Nat :=
  let best (m : Bool) (l : List FVal) : Option FVal :=
    some (l.tail.foldl (fun a x => if firstWins m a x then a else x) (l.headD (.fin false 0 0)))
  if fn = 0 then exactV xs (xs.tail.foldl (fun a x => match a with | some y => addX rnd y x | none => none)
    (some (xs.headD (.fin false 0 0))), 0)
  else if fn = 1 then exactV xs (best true xs, 0)
  else if fn = 2 then exactV xs (best false xs, 0)
  else exactV xs (best true (xs.map absV), 0)

/-- The special functions by FN. -/
def sfnOf (fn : Nat) : Sfn := [Sfn.sin, .cos, .exp2, .log2, .rcp, .rsq, .tanh].getD fn .sin

/-- Results quantised in groups of four (R212): scale bytes, codes, flags, and the LFSR; `n` bounds the groups. -/
def quantGroups (f : Fmt) (rnd : Nat) : Nat → List FVal → BitVec 32 → List Nat × List Nat × Nat × BitVec 32
  | 0, _, l => ([], [], 0, l)
  | n + 1, xs, l =>
    if xs.isEmpty then ([], [], 0, l)
    else
      let (c, ks, fs, l1) := blockQ f rnd l (xs.take 4)
      let (cs, ks', fl, l2) := quantGroups f rnd n (xs.drop 4) l1
      (c :: cs, ks ++ ks', orFlags fs ||| fl, l2)

/-- Results in the format of D (R212): scale bytes, codes, flags. -/
def resultCodes (f : Fmt) (rnd : Nat) (l : BitVec 32) (rs : List (FVal × Nat)) : List Nat × List Nat × Nat :=
  let fl := orFlags (rs.map Prod.snd)
  if f.scale then
    let (cs, ks, fl1, _) := quantGroups f rnd (rs.length / 4 + 1) (rs.map Prod.fst) l
    (cs, ks, fl ||| fl1)
  else
    let (ks, fs, _) := eachF (fun v rs => encodeF f rnd rs v) (rs.map Prod.fst) l
    ([], ks, fl ||| orFlags fs)

/-- A value as the f32 word that a running maximum measures (R173, R212), and the flags that R62 gives that decoding, none for a NaN. -/
def toF32 (v : FVal) : Nat × Nat :=
  let r := encodeF f32Fmt 0 ⟨0, 0⟩ v
  (r.1, if v.isNan then 0 else r.2.flags)

/-- The value of a code of a result, with its block's scale byte (R62). -/
def codeVal (f : Fmt) (scales : List Nat) (i code : Nat) : FVal :=
  if f.scale then scaleV (scales.getD (i / 4) 0) (decodeF f code) else decodeF f code

/-- The exact results of an op that rounds. -/
def vecResults (op fn rnd : Nat) (yb : Bool) (xs ys ds : List FVal) : List (FVal × Nat) :=
  if op = 0 then xs.zipIdx.map (fun p =>
    ewV fn rnd p.1 (ys.getD (if yb then 0 else p.2) (.fin false 0 0)) (ds.getD p.2 (.fin false 0 0)))
  else if op = 1 then [redV fn rnd xs]
  else if op = 2 then xs.map (fun x => exactV [x] (some x, 0))
  else xs.map (fun x => exactV [x] (if x.isNan then (some x, 0) else sfnX (sfnOf fn) x))

/-- The 16-bit indices of Y (R213). Log 102 (DEDUCED). -/
def indices (s : State) (v : View) (c base n : Nat) : List Nat :=
  let w := leNat (engRead s v (phys c base) (2 * n))
  (List.range n).map (fun i => streamAt w 16 i)

/-- One element's code put into a stream in memory (R60, R213). -/
def putElem (s : State) (v : View) (c base w i code : Nat) : State × View :=
  let a := base + i * w / 8
  let n := ceilDiv (i * w % 8 + w) 8
  let old := leNat (engRead s v (phys c a) n)
  engWriteNear s v c a (leBytes n (putBits old (i * w % 8) w code))

/-- vx.gth (R213). Log 102 (DEDUCED). -/
def gatherRun (s : State) (e : EngCmd) (f : Fmt) (v : VCmd) : State × View × Nat :=
  let n := tableLen v.fn
  let tab := leNat (engRead s e.view (phys e.ctx v.xbase) (streamLen f n))
  let is := indices s e.view e.ctx v.ybase v.count
  let codes := is.map (fun i => if i < n then streamAt tab f.w i else 0)
  let (s1, v1) := engWriteNear s e.view e.ctx v.dbase (leBytes (streamLen f v.count) (streamOf f.w codes))
  (s1, v1, if is.any (fun i => n ≤ i) then fNV else 0)

/-- vx.sct (R213): in ascending order, a later element wins. Log 102 (DEDUCED). -/
def scatterRun (s : State) (e : EngCmd) (f : Fmt) (v : VCmd) : State × View × Nat :=
  let n := tableLen v.fn
  let xw := leNat (engRead s e.view (phys e.ctx v.xbase) (streamLen f v.count))
  let is := indices s e.view e.ctx v.ybase v.count
  let (s1, v1) := is.zipIdx.foldl (fun (acc : State × View) p =>
    if p.1 < n then putElem acc.1 acc.2 e.ctx v.dbase f.w p.1 (streamAt xw f.w p.2) else acc) (s, e.view)
  (s1, v1, if is.any (fun i => n ≤ i) then fNV else 0)

/-- What a vector command does (R211 to R213): the state, the thread's view and the flags. -/
def vecRun (s : State) (e : EngCmd) : State × View × Nat :=
  let op := e.op - 32
  let v := vcmdOf (e.cmd % 2 ^ 64) (e.cmd / 2 ^ 64)
  let fx := fmtOf (BitVec.ofNat 32 e.fa)
  let fy := fmtOf (BitVec.ofNat 32 e.fb)
  let fd := fmtOf (BitVec.ofNat 32 e.fo)
  let s0 := addEnergy s e.ctx (48 * ceilDiv (vecBytes op fx fy fd v) 64)
  if op = 4 then gatherRun s0 e fx v
  else if op = 5 then scatterRun s0 e fx v
  else
    let xs := operandVals s0 e.view e.ctx fx v.xbase v.count
    let ys := if usesY op v.fn then operandVals s0 e.view e.ctx fy v.ybase (yCount e.yb v) else []
    let ds := if op = 0 && v.fn == 3 then operandVals s0 e.view e.ctx fd v.dbase v.count else []
    let rs := vecResults op v.fn e.rnd e.yb xs ys ds
    let (cs, ks, fl) := resultCodes fd e.rnd e.lfsr rs
    let (s1, v1) := engWriteNear s0 e.view e.ctx v.dbase (leBytes (streamLen fd ks.length) (streamOf fd.w ks))
    let (s2, v2) := if fd.scale
      then engWriteNear s1 v1 e.ctx (v.dbase + scaleOff fd ks.length) (cs.map (BitVec.ofNat 8)) else (s1, v1)
    let seen := if op = 2 then xs.map toF32 else ks.zipIdx.map (fun p => toF32 (codeVal fd cs p.2 p.1))
    (modCtx s2 e.ctx (fun x => amxPut (e.amx.map chanIx) (seen.map Prod.fst) x), v2,
      if e.amx.isSome then fl ||| orFlags (seen.map Prod.snd) else fl)

/-- The ranges a vector command reads; vx.ew mla also reads D. -/
def vecSources (e : EngCmd) : List ERange :=
  let op := e.op - 32
  let v := vcmdOf (e.cmd % 2 ^ 64) (e.cmd / 2 ^ 64)
  let fd := fmtOf (BitVec.ofNat 32 e.fo)
  vecReads op e.yb (fmtOf (BitVec.ofNat 32 e.fa)) (fmtOf (BitVec.ofNat 32 e.fb)) v ++
    (if op = 0 && v.fn == 3 then operandRanges fd v.dbase v.count false else [])

/-- R207: the oldest command begins, when none runs. Names the core. -/
def vectorStartEv (s : State) : State :=
  match (getCore s (argN s 0)).vec with
  | [] => s
  | e :: t =>
    if e.running then s
    else postOnce (modCore s (argN s 0) (fun k => { k with vec := { e with running := true } :: t })) .vectorCommandComplete
      [argN s 0]

def execVectorCommandStart (s : State) : Host.Outcome State Fault Refusal := happens vectorStartEv s

/-- R210: the running command completes and the next may begin. Names the core. -/
def vectorCompleteEv (s : State) : State :=
  match (getCore s (argN s 0)).vec with
  | [] => s
  | e :: t =>
    if e.running then
      let s1 := modCore s (argN s 0) (fun k => { k with vec := t })
      endCmd (if t.isEmpty then s1 else postOnce s1 .vectorCommandStart [argN s 0]) e 1 (vecSources e) vecRun
    else s

def execVectorCommandComplete (s : State) : Host.Outcome State Fault Refusal := happens vectorCompleteEv s

end Sys2Proof.Machine
end

