-- ==== Sys2Proof/Machine/Transit.lean ====
section
/-! DEFINITION. What far orders owe to Transit replay: the digest (R391), retention locks (R392), the ranges of a
declaration (R390) and the shadow area of a run (R394); and the taint lists (R429). -/

namespace Sys2Proof.Machine

/-- One bit of CRC-64/ECMA-182. -/
def crc64Bit (c : Nat) : Nat :=
  if bitAt c 63 then (c * 2 % 2 ^ 64) ^^^ 0x42F0E1EBA9EA3693 else c * 2 % 2 ^ 64

/-- One byte of CRC-64/ECMA-182 (R391). -/
def crc64Byte (c b : Nat) : Nat := (List.range 8).foldl (fun c _ => crc64Bit c) (c ^^^ (b % 256 * 2 ^ 56))

/-- CRC-64/ECMA-182 of bytes (R391). -/
def crc64 (bs : List Byte) : Nat := bs.foldl (fun c b => crc64Byte c b.toNat) 0

/-- The digest term of a committed write line (R391): its line address, the mask of written bytes and the bytes. -/
def lineTerm (va mask : Nat) (d : List Byte) : Nat := crc64 (leBytes 8 va ++ leBytes 8 mask ++ d)

/-- The mask of a piece of a line. -/
def pieceMask (off len : Nat) : Nat := (2 ^ len - 1) * 2 ^ off

/-- A piece of a line among 64 bytes, the others zero. -/
def pieceLine (off : Nat) (bs : List Byte) : List Byte :=
  List.replicate off 0 ++ bs ++ List.replicate (64 - off - bs.length) 0

/-- A committed line counted in the digest of a run of a selected task (R391). -/
def addDigest (s : State) (die : Nat) (e : Entry) (run va mask : Nat) (d : List Byte) : State :=
  if e.transit.phase = 0 || e.transit.phase = 5 then s
  else
    modEnt s die e.order (fun f => { f with transit := { f.transit with
      d := f.transit.d.set run (((f.transit.d.getD run 0) + lineTerm va mask d) % 2 ^ 64) } })

/-- Whether a far access to a line is one that R390 names: a read outside every declared range, a write outside every
output range. Log 26 (DEDUCED). -/
def strayLine (e : Entry) (va : Nat) (write : Bool) : Bool :=
  if write then !outLine e va else !(e.decl.any (fun r => rangeTouches r va))

/-- What a context's far access to a line means for its task: the state, and whether the access goes on (R390, R394). Log 26 (DEDUCED). -/
def transitAccess (s : State) (c va : Nat) (write : Bool) : State × Bool :=
  match entOfCtx s c with
  | none => (s, true)
  | some e =>
    if e.telig && strayLine e va write then (markUnv s c, (getCtx s c).run == 0) else (s, true)

/-- A shadow line of a run (R394). -/
def shadowOf (e : Entry) (va : Nat) : Option ShadowLine := e.transit.shadow.find? (fun l => l.va == va)

/-- The addresses of the shadow lines that a partition's runs have (R394). Log 118 (DESIGN CHOICE). -/
def shadowAddrs (s : State) (part : Nat) : List Nat :=
  s.dies.flatMap (fun d => (d.2.entries.filter (fun e => e.part == part)).flatMap (fun e =>
    (e.transit.shadow ++ e.transit.kept).map ShadowLine.addr))

/-- A free line of a partition's Transit region; none when it is full (R394, R395, R441). Log 118 (DESIGN CHOICE). -/
def freeShadow (s : State) (part : Nat) : Option Nat :=
  match getPart? s part with
  | none => none
  | some p =>
    let used := shadowAddrs s part
    ((List.range (used.length + 1)).map (fun i => p.cfg.transit.1 / 64 * 64 + 64 * i)).find? (fun a =>
      !used.contains a && a + 64 ≤ p.cfg.transit.1 + p.cfg.transit.2)

/-- A shadow line of a run made where it has none, with no byte written: the state and the line's address; none when the Transit region
is full (R395). Log 118 (DESIGN CHOICE). -/
def makeShadow (s : State) (die : Nat) (e : Entry) (va : Nat) : Option (State × Nat) :=
  match shadowOf e va with
  | some l => some (s, l.addr)
  | none => (freeShadow s e.part).map (fun a => (modEnt s die e.order (fun f => { f with transit := { f.transit with
      shadow := ⟨va, a, 0, List.replicate 64 0⟩ :: f.transit.shadow } }), a))

/-- A piece of a shadow line written. -/
def writeShadow (s : State) (die : Nat) (e : Entry) (va off : Nat) (bs : List Byte) : State :=
  let old := (shadowOf e va).getD ⟨va, 0, 0, List.replicate 64 0⟩
  let new : ShadowLine := ⟨va, old.addr, old.mask ||| pieceMask off bs.length,
    old.data.take off ++ bs ++ old.data.drop (off + bs.length)⟩
  modEnt s die e.order (fun f => { f with transit := { f.transit with
    shadow := new :: f.transit.shadow.filter (fun l => l.va != va) } })

/-- Whether a write line is held by a retention lock of a task other than its own (R392). Log 26 (DEDUCED). -/
def lockedLine (s : State) (pa part tag : Nat) : Bool :=
  s.dies.any (fun d => d.2.entries.any (fun e =>
    e.transit.locks.contains (pa / 64) && !(e.tag == tag && e.part == part)))

/-- A tag added to a taint list (R429): the list and its overflow flag. Log 84 (DEDUCED). -/
def taintAdd (l : List Nat) (ovf : Bool) (tag : Nat) : List Nat × Bool :=
  if l.contains tag then (l, ovf) else if l.length < 1024 then (tag :: l, ovf) else (l, true)

/-- The memory core that serves a channel's orders (R428): the other of its pair while its own is scanned or sealed, or once it is
retired. -/
def servedBy (s : State) (ch : Nat) : Nat :=
  let k := getChan s ch
  if k.scanning || k.retired || k.errScan then ch ^^^ 1 else ch

/-- A memory core serves a tag's order at a channel. -/
def taintChan (s : State) (ch tag : Nat) : State :=
  if tag = 0 then s
  else modChan s (servedBy s ch) (fun k => let r := taintAdd k.taint k.taintOvf tag; { k with taint := r.1, taintOvf := r.2 })

/-- A task is placed or restored on a compute core (R429), and so on its die (R430). -/
def taintCore (s : State) (core tag : Nat) : State :=
  modDie (modCore s core (fun k => let r := taintAdd k.taint k.taintOvf tag; { k with taint := r.1, taintOvf := r.2 })) (dieOfCore core)
    (fun d => { d with placed := if d.placed.contains tag then d.placed else tag :: d.placed })

/-- A page of a partition written at its memory channel (R448). -/
def dirtyPage (s : State) (part pa : Nat) : State :=
  modChan s (chanOf pa) (fun k => if k.dirty.contains (part, pa / 4096) then k else { k with dirty := (part, pa / 4096) :: k.dirty })

/-- Bytes written for a partition at a place of device memory outside its tasks' orders: words written whole are no longer poisoned (R426),
and the pages are dirty (R448). -/
def partWrite (s : State) (part pa : Nat) (bs : List Byte) : State :=
  ((List.range (bs.length / 4096 + 2)).map (fun i => min (pa + 4096 * i) (pa + bs.length - 1))).foldl (fun s a => dirtyPage s part a)
    (clearWords (rawWrite s pa bs) pa bs.length)

end Sys2Proof.Machine
end

