-- ==== Sys2Proof/Machine/Copy.lean ====
section
/-! DEFINITION. The copy engine (R215 to R224): chains, the checks and the start of a record, and the events that move its
bytes and end it. -/

namespace Sys2Proof.Machine

/- ---------------------------------------------------------------- chains -/

/-- Whether a copy channel of a core is free for a new chain. -/
def chanIdle (s : State) (core : Nat) (k : Fin 4) : Bool := (getCore s core).chans[k].isNone

/-- A chain that may start at once takes its channel, CAUSE clears and its first record is due (R216, R222). -/
def startChain (s : State) (core : Nat) (k : Fin 4) (ch : Chain) : State :=
  let s1 := modCore s core (fun q => { q with chans := q.chans.set k (some ⟨ch, ch.head, none⟩) })
  postOnce (modCtx s1 ch.ctx (fun x => { x with chcause := x.chcause.set k 0 })) .copyChainStart [core, k.val]

/-- R216: a chain starts or joins the queue, and CHHEAD reads its head. -/
def addChain (s : State) (core : Nat) (k : Fin 4) (ch : Chain) : State :=
  let s1 := modCtx s ch.ctx (fun x => { x with chhead := x.chhead.set k (BitVec.ofNat 32 ch.head) })
  if chanIdle s1 core k then startChain s1 core k ch
  else modCore s1 core (fun q => { q with copyQ := q.copyQ ++ [(k.val, ch)] })

/-- R216 step 5 and R375: no room in the copy queue, or restored chains that go first are still held beside it. -/
def queueFull (s : State) (c : Nat) (k : Fin 4) : Bool :=
  let q := getCore s (coreOf c)
  (!chanIdle s (coreOf c) k && (2 ≤ q.copyQ.length || !q.held.isEmpty)) || q.held.any (fun h => h.2.chain.ctx == c || h.1 == k.val)

/-- R216 for a head on a channel, with a chain token or none: the held fault, the token's counts, the queue, the start. Log 99 (DEDUCED). -/
def goChain (k : Fin 4) (tok : Option TokId) : Body := fun ws s =>
  let c := s.cur
  let head := (src ws 0).toNat
  if head / 2 ^ 32 ≠ 0 then .trap illegal11
  else
    match (cx s).chfault[k] with
    | some h => .trap (heldTrap h 0 true)
    | none =>
      let full := match tok with
        | some t => tokMax < (cx s).tok[t].sfree + 1 || tokMax < (cx s).tok[t].vis + 1
        | none => false
      if full then .trap (Trap.at cTOK_OVERFLOW 0)
      else if queueFull s c k then .wait s
      else
        let s1 := drain s c
        let s2 := match tok with
          | some t => modTok s1 c t (fun q => { q with sfree := q.sfree + 1, vis := q.vis + 1 })
          | none => s1
        let x := getCtx s2 c
        .ok { st := addChain s2 (coreOf c) k ⟨c, x.pc.toNat, tok.map Fin.val, head, x.region, privOf x, x.view⟩ }

def execCpyGo (a : Reg) (t : TokId) (k : Fin 4) (s : State) : Host.Outcome State Fault Refusal :=
  issue { i := .cpyGo a t k, kind := .compute, srcs := [a], ecls := 6 } (goChain k (some t)) s

/-- The effect of an mtc to CHHEADk (R28, R216, R238): a chain with no chain token starts. A memory core has no copy engine: there the
write changes the register only. Log 15 (DESIGN CHOICE). -/
def mtcChheadBody (k : Fin 4) : Body := fun ws s =>
  if isMem s.cur then
    if (src ws 0).toNat / 2 ^ 32 ≠ 0 then .trap illegal11
    else .ok { st := setCur s (fun x => { x with chhead := x.chhead.set k (BitVec.ofNat 32 (src ws 0).toNat) }) }
  else goChain k none ws s

def execMtcChhead (a : Reg) (k : Fin 4) (s : State) : Host.Outcome State Fault Refusal :=
  issue { i := .mtcChhead a k, srcs := [a] } (mtcChheadBody k) s

/-- The word of CHSTATk (R222). Log 112 (DEDUCED). -/
def chstatVal (s : State) (c : Nat) (k : Fin 4) : Nat :=
  let x := getCtx s c
  let q := getCore s (coreOf c)
  let mine := match q.chans[k] with | some r => r.chain.ctx == c | none => false
  bitsAt x.chrec[k] 0 32 + bit mine * 2 ^ 32 +
    min 2 (q.copyQ.filter (fun e => e.1 == k.val && e.2.ctx == c)).length * 2 ^ 33 +
    x.chcause[k] % 256 * 2 ^ 48 + bit x.chfault[k].isSome * 2 ^ 63

/- ---------------------------------------------------------------- the record a channel runs -/

/-- The view of a channel's thread replaced. -/
def setChainView (s : State) (core : Nat) (k : Fin 4) (v : View) : State :=
  modCore s core (fun x => { x with chans := x.chans.set k (x.chans[k].map (fun r => { r with chain := { r.chain with view := v } })) })

/-- Near bytes written by a channel's thread (R333). Log 21 (DEDUCED). -/
def chainWrite (s : State) (core : Nat) (k : Fin 4) (c a : Nat) (bs : List Byte) : State :=
  match (getCore s core).chans[k] with
  | none => s
  | some r => let w := engWriteNear s r.chain.view c a bs; setChainView w.1 core k w.2

/-- A record fault found at a line, kept when no earlier line has one (R224, R320); RECORD_FAULT is due once the lines
before it are done. -/
def lineFault (s : State) (core : Nat) (k : Fin 4) (h : HeldFault) : State :=
  match runOf s core k with
  | none => s
  | some (_, q) =>
    let h1 := match q.fault with
      | some g => if g.lines ≤ h.lines then g else h
      | none => h
    postOnce (sweepWin (modRec s core k (fun q => { q with fault := some h1 })) q.id) .recordFault [core, k.val]

/-- The bytes of a record at its near address (R217), as its thread reads them: eight words. -/
def recWords (s : State) (v : View) (c p : Nat) : List Nat :=
  (List.range 8).map (fun i => leNat (engRead s v (phys c (p + 8 * i)) 8))

/-- The token a record's completion is counted on (R217). -/
def rTok (w : List Nat) : TokId := tokIx (bitsAt (w.getD 0 0) 53 3)

/-- R219 step 2: the header of a record that was read. Log 27 (DEDUCED). -/
def headerOk (w : List Nat) : Bool :=
  let w0 := w.getD 0 0
  bitAt w0 63 && bitsAt w0 32 18 == 0 && bitsAt w0 60 3 ≤ 3 && bitsAt w0 57 3 ≤ 4 &&
    (rTv w || bitsAt w0 53 3 == 0) &&
    (if rEnd w then bitsAt w0 0 32 == 0 else bitsAt w0 0 6 == 0) &&
    w.getD 1 0 < (if bitAt w0 51 then 2 ^ 48 else 2 ^ 32) && w.getD 2 0 < (if bitAt w0 50 then 2 ^ 48 else 2 ^ 32)

/-- Whether LEN0 is in its range. -/
def lenOk (w : List Nat) : Bool := 1 ≤ rLen w && rLen w ≤ 1048576

/-- The loader-table entry a PROGRAM record names (R307); 0 for none. -/
def loaderOf (s : State) (part : Nat) (w : List Nat) : Nat :=
  match getPart? s part with
  | none => 0
  | some p => if bitsAt (w.getD 6 0) 0 16 < 256 then (p.loaders.get? (bitsAt (w.getD 6 0) 0 16)).getD 0 else 0

/-- R219 step 3: the rules of R218 for the record's kind. -/
def kindRules (s : State) (part : Nat) (w : List Nat) : Bool :=
  let w0 := w.getD 0 0
  let sf := bitAt w0 51
  let df := bitAt w0 50
  let w4 := w.getD 4 0
  let w5 := w.getD 5 0
  let w6 := w.getD 6 0
  match bitsAt w0 60 3 with
  | 0 => !(sf && df) && lenOk w && rN1 w == 0 && rN2 w == 0 && w4 == 0 && w5 == 0 && w6 == 0
  | 1 => !(sf && df) && lenOk w && w6 == 0 && 1 ≤ rN1 w && 1 ≤ rN2 w &&
      rLen w ≤ bitsAt w4 0 32 && rLen w ≤ bitsAt w5 0 32 &&
      bitsAt w4 0 32 * rN1 w ≤ bitsAt w4 32 32 && bitsAt w5 0 32 * rN1 w ≤ bitsAt w5 32 32
  | 2 => sf != df && lenOk w && rN1 w == 0 && rN2 w == 0 && w4 == 0 && w5 == 0 && loaderOf s part w != 0
  | _ => !sf && df && w.getD 3 0 == 0 && w4 == 0 && w5 == 0 && w6 < 16

/-- The bytes a record moves. -/
def recBytes (w : List Nat) : Nat := (runsOf w).foldl (fun n r => n + r.2.2) 0

/-- The near ranges of a record (R219). -/
def nearRanges (w : List Nat) : List ERange :=
  let w0 := w.getD 0 0
  if bitsAt w0 60 3 = 3 then [⟨w.getD 1 0, 8, true, .any, w.getD 1 0⟩, ⟨w.getD 1 0 + 8, 8, false, .any, w.getD 1 0 + 8⟩]
  else
    (runsOf w).flatMap (fun r =>
      (if bitAt w0 51 then [] else [⟨r.1, r.2.2, false, .any, r.1⟩]) ++
        (if bitAt w0 50 then [] else [⟨r.2.1, r.2.2, true, .any, r.2.1⟩]))

/-- The first byte of the slice that a record's ranges write (R34 step 3, R304). -/
def slicePut (x : Ctx) (c : Nat) (rs : List ERange) : Option Nat := (rs.filter ERange.write).findSome? (firstSlice x c)

/-- R219 step 4: the cause, the address and whether it is far. Log 22 (DEDUCED). -/
def rangesBad (s : State) (c priv : Nat) (w : List Nat) : Option (Nat × Nat × Bool) :=
  let x := getCtx s c
  let rs := nearRanges w
  let w0 := w.getD 0 0
  let atom := bitsAt w0 60 3 == 3
  let far := w.getD 2 0
  match rs.findSome? (firstUnmapped x c) with
  | some a => some (cADDRESS, a, false)
  | none =>
    if atom && w.getD 1 0 % 8 ≠ 0 then some (cALIGN, w.getD 1 0, false)
    else if atom && far % (if bitAt (w.getD 6 0) 3 then 4 else 8) ≠ 0 then some (cALIGN, far, true)
    else if priv = 0 || !sliceOpen s (coreOf c) then
      (slicePut x c rs).map (fun a => (cREADONLY, a, false))
    else none

/-- R219 step 5: the first near line another party has marked against the record; the bits of the context that started the
chain are excused while the region it started the chain in is open. -/
def recConflict (s : State) (ch : Chain) (rs : List ERange) : Option Nat :=
  let c := ch.ctx
  let party := engParty (coreOf c) 2
  let excused := (getCtx s c).region == ch.region
  rs.findSome? (fun r => (rangeLines c r).findSome? (fun l =>
    if s.marks.any (fun m => m.line == l.2 && m.party != party && !(excused && m.party == partyOf c) && (r.write || m.write))
    then some l.1 else none))

/-- A far run in pieces of one 64-byte line each (R311): far address, near address, bytes left. -/
def farPieces : Nat → Nat → Nat → Nat → List FarLine
  | 0, _, _, _ => []
  | n + 1, far, near, len =>
    if len = 0 then []
    else
      let t := min len (64 - far % 64)
      ⟨far / 64 * 64, far % 64, t, near⟩ :: farPieces n (far + t) (near + t) (len - t)

/-- A near run in pieces of one 128-byte destination line each. -/
def nearPieces : Nat → Nat → Nat → Nat → List FarLine
  | 0, _, _, _ => []
  | n + 1, src, dst, len =>
    if len = 0 then []
    else
      let t := min len (128 - dst % 128)
      ⟨src, 0, t, dst⟩ :: nearPieces n (src + t) (dst + t) (len - t)

/-- The pieces of a record. -/
def piecesOf (w : List Nat) : List FarLine :=
  let w0 := w.getD 0 0
  match bitsAt w0 60 3 with
  | 2 => []
  | 3 => [⟨w.getD 2 0 / 64 * 64, w.getD 2 0 % 64, if bitAt (w.getD 6 0) 3 then 4 else 8, w.getD 1 0⟩]
  | _ => (runsOf w).flatMap (fun r =>
      if bitAt w0 51 then farPieces r.2.2 r.1 r.2.1 r.2.2
      else if bitAt w0 50 then farPieces r.2.2 r.2.1 r.1 r.2.2
      else nearPieces r.2.2 r.1 r.2.1 r.2.2)

/-- The first near byte of a record (R220). -/
def firstNear (w : List Nat) : Nat := if bitAt (w.getD 0 0) 50 then w.getD 1 0 else w.getD 2 0

/-- POS of a write pointer replaced (R220). -/
def setPos (s : State) (c : Nat) (k : Fin 4) (pos : Nat) : State :=
  modCtx s c (fun x => { x with wp := x.wp.set k (w64 (putBits x.wp[k].toNat 0 32 pos)) })

/-- A record's write pointer at its start (R220): RECS rises and POS takes the first near byte. Log 24 (DEDUCED). -/
def startWp (x : Ctx) (k : Fin 4) (pos : Nat) : Ctx :=
  { x with wp := x.wp.set k (w64 (pos % 2 ^ 32 + (wBits x.wp[k] 32 32 + 1) % 2 ^ 32 * 2 ^ 32)) }

/-- A record that a channel has taken and is to fail at a check. Log 27 (DEDUCED). -/
def badRec (p : Nat) (w : List Nat) (id : Nat) : RunRec := ⟨id, p, w, [], 0, [], [], 0, false, false, false, [], none, false, [], []⟩

/-- The marks of a record's near ranges (R219, R221). -/
def markRecord (s : State) (c id : Nat) (w : List Nat) : State :=
  markRanges s c (engParty (coreOf c) 2) id 0 (nearRanges w)

/-- The step that a record's movement begins with: the next far line, or the next near piece. -/
def moveNext (s : State) (core : Nat) (k : Fin 4) (w : List Nat) : State :=
  if bitAt (w.getD 0 0) 51 || bitAt (w.getD 0 0) 50 then postOnce s .lineForward [core, k.val]
  else postOnce s .writePointerAdvance [core, k.val]

/-- R219: a record that has passed its checks starts: it is charged, OPC is written, its lines are marked and WP advances.
Log 22 (DEDUCED). -/
def startRecord (s : State) (core : Nat) (k : Fin 4) (ch : Chain) (p : Nat) (w : List Nat) (id : Nat) : State :=
  let c := ch.ctx
  let wu := 4 + ceilDiv (recBytes w) 256
  let opc := if ch.tok.isSome then ch.opc else 0
  let s1 := modCtx s c (fun x => startWp { x with charge := w64 (x.charge.toNat + wu) } k (firstNear w))
  let s3 := modRec s1 core k (fun q => { q with lines := piecesOf w })
  let s4 := markRecord (chainWrite s3 core k c (p + 0x38) (leBytes 8 opc)) c id w
  moveNext (if bitsAt (w.getD 0 0) 60 3 = 3 then markUnv s4 c else s4) core k w

/-- The next record of a channel is taken and checked (R219). -/
def takeRecord (s : State) (core : Nat) (k : Fin 4) : State :=
  match (getCore s core).chans[k] with
  | none => s
  | some r =>
    let ch := r.chain
    let c := ch.ctx
    let x := getCtx s c
    let p := r.next
    let located := (List.range 64).all (fun i => match areaFor c (p + i) with | .own o => inWindow x o | _ => false)
    let (id, s0) := fresh (modCtx s c (fun x => { x with chrec := x.chrec.set k p }))
    let w := if located && p % 64 == 0 then recWords s0 ch.view c p else []
    let s1 := modCore s0 core (fun q => { q with chans := q.chans.set k (some { r with running := some (badRec p w id) }) })
    let fail (cause addr : Nat) (far : Bool) : State := lineFault s1 core k ⟨cause, 0, addr, far, 0, 0, 0, 0⟩
    if !located then fail cADDRESS p false
    else if p % 64 ≠ 0 then fail cALIGN p false
    else
      match poisonTrap s0 c p 64 with
      | some t => containCtx s1 c t.spec0 t.addr false true
      | none =>
        if !headerOk w || !kindRules s1 ((partOf s c).getD 0) w then fail cILLEGAL 0 false
        else
          match rangesBad s1 c ch.priv w with
          | some (cause, a, far) => fail cause a far
          | none =>
            match recConflict s1 ch (nearRanges w) with
            | some a => fail cCONFLICT a false
            | none =>
              if overBudget x c (4 + ceilDiv (recBytes w) 256) then fail cBUDGET 0 false
              else startRecord s1 core k ch p w id

/-- Whether a context's chains go on: it holds a task and neither a stop (R371, R380; of one that has halted the Whistle's) nor the
reading back of its save (R375) is under way. -/
def chainActive (s : State) (c : Nat) : Bool :=
  let m := (getCtx s c).mode
  !stopped m && m != .loading && m != .free && !(m == .halted && whistleHolds s c)

/-- A chain held after a restore enters the copy queue if an entry is free and it heads the held ones (R216, R375). Log 99 (DEDUCED). -/
def fillOne (s : State) (core : Nat) : State :=
  let q := getCore s core
  match q.held with
  | [] => s
  | (k, r) :: t =>
    if r.running.isNone && q.copyQ.length < 2 && chainActive s r.chain.ctx then
      putCore s core { q with held := t, copyQ := q.copyQ ++ [(k, { r.chain with head := r.next })] }
    else s

/-- Held chains enter the copy queue as its two entries are free, and a queued chain whose channel is idle is due (R216, R375).
Log 99 (DEDUCED). -/
def fillQueue (s : State) (core : Nat) : State :=
  let s1 := fillOne (fillOne s core) core
  (getCore s1 core).copyQ.foldl (fun s e =>
    if chanIdle s core (chanIx e.1) && chainActive s e.2.ctx then postOnce s .copyChainStart [core, e.1] else s) s1

/-- The marks of a suspended record's remaining near ranges set again (R375): those its unfinished pieces touch. -/
def remainRanges (q : RunRec) : List ERange :=
  if recKind q ≥ 2 then nearRanges q.words
  else
    (q.lines.drop q.moved).flatMap (fun l =>
      if recSfar q then [⟨l.near, l.len, true, .any, l.near⟩]
      else if recDfar q then [⟨l.near, l.len, false, .any, l.near⟩]
      else [⟨l.va, l.len, false, .any, l.va⟩, ⟨l.near, l.len, true, .any, l.near⟩])

/-- A suspended record goes on at its next line, after steps 4 and 5 of R219 for what remains (R375); a PROGRAM record from
its first byte (R371). Log 99 (DEDUCED). -/
def resumeRecord (s : State) (core : Nat) (k : Fin 4) : State :=
  match runOf s core k with
  | none => s
  | some (r, q) =>
    let c := r.chain.ctx
    let x := getCtx s c
    let rs := remainRanges q
    let fail (cause addr : Nat) : State := lineFault s core k ⟨cause, 0, addr, false, 0, 0, 0, q.fwd⟩
    match rs.findSome? (firstUnmapped x c) with
    | some a => fail cADDRESS a
    | none =>
      match (if r.chain.priv == 0 || !sliceOpen s core then slicePut x c rs else none) with
      | some a => fail cREADONLY a
      | none =>
        match recConflict s r.chain rs with
        | some a => fail cCONFLICT a
        | none =>
          let s1 := markRanges s c (engParty core 2) q.id 0 rs
          let q1 : RunRec := if q.restart then { q with suspended := false, restart := false, fwd := 0, done := [], pushes := [] }
            else { q with suspended := false }
          moveNext (modRec s1 core k (fun _ => q1)) core k q.words

/-- The next chain of a channel that is idle: a held suspended record resumes, else the first queued chain starts (R216,
R375), in either case of a context whose chains go on (R371, R380). Log 99 (DEDUCED). -/
def nextChain (s : State) (core : Nat) (k : Fin 4) : State :=
  let q := getCore s core
  if !chanIdle s core k then fillQueue s core
  else
    match q.held.find? (fun h => h.1 == k.val && h.2.running.isSome) with
    | some (_, r) =>
      if !chainActive s r.chain.ctx then fillQueue s core
      else fillQueue (resumeRecord (putCore s core { q with
        held := q.held.eraseP (fun h => h.1 == k.val && h.2.running.isSome), chans := q.chans.set k (some r) }) core k) core
    | none =>
      match q.copyQ.find? (fun e => e.1 == k.val && chainActive s e.2.ctx) with
      | none => fillQueue s core
      | some (_, ch) =>
        fillQueue (startChain (putCore s core { q with
          copyQ := q.copyQ.eraseP (fun e => e.1 == k.val && chainActive s e.2.ctx) }) core k ch) core

/-- A chain's channel becomes idle and the next chain on it may start. -/
def endChain (s : State) (core : Nat) (k : Fin 4) : State :=
  let s1 := modCore s core (fun q => { q with chans := q.chans.set k none })
  let s2 := nextChain s1 core k
  match (getCore s core).chans[k] with
  | some r => settle s2 r.chain.ctx
  | none => s2

/-- R216: the first record of a chain that holds its channel is taken. Names the core and the channel. -/
def chainStartEv (s : State) : State :=
  let core := argN s 0
  let k := chanIx (argN s 1)
  match (getCore s core).chans[k] with
  | none => nextChain s core k
  | some r => if r.running.isSome || !chainActive s r.chain.ctx then s else takeRecord s core k

def execCopyChainStart (s : State) : Host.Outcome State Fault Refusal := happens chainStartEv s

/- ---------------------------------------------------------------- moving bytes -/

/-- What stands in a program's pushes from the order's first byte (R139): the length of the contiguous prefix, over at most
`n` ranges. -/
def pushPrefix (ps : List (Nat × Nat)) : Nat → Nat → Nat
  | 0, p => p
  | n + 1, p =>
    match ps.find? (fun r => r.1 ≤ p && p < r.1 + r.2) with
    | some r => pushPrefix ps n (r.1 + r.2)
    | none => p

/-- The contiguous prefix of a PROGRAM record's near side. -/
def recPrefix (q : RunRec) : Nat := min (rLen q.words) (pushPrefix q.pushes q.pushes.length 0)

/-- Bytes that the write pointer has passed are joined for every party (R221, R333): no earlier store of them can be read
any more. -/
def joinBytes (s : State) (a n : Nat) : State :=
  { s with past := s.past.filter (fun p => !(a ≤ p.addr && p.addr < a + n)) }

/-- The near lines of pieces. -/
def pieceLines (c : Nat) (rs : List ERange) : List Nat := rs.flatMap (fun r => (rangeLines c r).map Prod.snd)

/-- R221: write marks of lines that POS has reached the end of, and read marks of source lines that no piece still to move
touches. `rest` the source ranges still to be read. -/
def releaseMarks (s : State) (c id : Nat) (w : List Nat) (pos : Nat) (rest : List ERange) : State :=
  let passed := (nearRanges w).flatMap (fun r =>
    if r.write then ((rangeLines c r).filter (fun l => l.1 + 128 ≤ pos)).map Prod.snd else [])
  let keep := pieceLines c rest
  { s with marks := s.marks.filter (fun m => !(m.op == id && (if m.write then passed.contains m.line else !keep.contains m.line))) }

/-- The source ranges that a record has still to read. Log 23 (DEDUCED). -/
def restReads (q : RunRec) : List ERange :=
  if recKind q = 2 then (if recDfar q && !q.readDone then nearRanges q.words else [])
  else if recKind q = 3 then (if q.fwd = 0 then nearRanges q.words else [])
  else if recDfar q then (q.lines.drop q.fwd).map (fun l => ⟨l.near, l.len, false, .any, l.near⟩)
  else if recSfar q then []
  else (q.lines.drop q.moved).map (fun l => ⟨l.va, l.len, false, .any, l.va⟩)

/-- Marks released and POS set for the record a channel runs. -/
def advance (s : State) (core : Nat) (k : Fin 4) (pos : Nat) : State :=
  match runOf s core k with
  | none => s
  | some (r, q) => releaseMarks (setPos s r.chain.ctx k pos) r.chain.ctx q.id q.words pos (restReads q)

/-- Bytes moved one after the other from a near source to a near destination: what the destination then holds. Log 23 (DEDUCED). -/
def moveBytes (m : Memory) (src dst n : Nat) : List Byte :=
  memRead ((List.range n).foldl (fun m i => memSet m (dst + i) (memGet m (src + i))) m) dst n

/-- The poisoned word of a source piece, as the number of bytes before it (R426). -/
def cleanBytes (s : State) (a n : Nat) : Nat :=
  match ((List.range n).find? (fun i => s.poison.contains ((a + i) / 8))) with
  | some i => i
  | none => n

/-- Whether a near address lies in the weight-stack slice. -/
def sliceByte (c a : Nat) : Bool := match areaFor c a with | .wstack _ => true | _ => false

/-- Bytes cut at the 16-byte units of near memory; `n` bounds the cuts. -/
def unitRuns : Nat → Nat → List Byte → List (Nat × List Byte)
  | 0, _, _ => []
  | n + 1, a, bs =>
    if bs.isEmpty then [] else (a, bs.take (16 - a % 16)) :: unitRuns n (a + (16 - a % 16)) (bs.drop (16 - a % 16))

/-- Bytes for near address `a` as the runs that are staged one by one: in the slice cut at its units (R305). -/
def stageRuns (c a : Nat) (bs : List Byte) : List (Nat × List Byte) :=
  if sliceByte c a || sliceByte c (a + bs.length - 1) then unitRuns bs.length a bs else [(a, bs)]

/-- Whether the slice's unit that a run of bytes lies in is also written by a piece behind the one that moves now. -/
def unitOpen (c : Nat) (q : RunRec) (r : Nat × List Byte) : Bool :=
  sliceByte c r.1 && (q.lines.drop (q.moved + 1)).any (fun l => l.near < r.1 / 16 * 16 + 16 && r.1 / 16 * 16 < l.near + l.len)

/-- What a record's pending runs and the bytes of its present piece come to (R305): the runs that are written now, and those that wait for
the rest of their unit, so that each unit of the slice is staged whole. -/
def stageNow (c : Nat) (q : RunRec) (a : Nat) (bs : List Byte) : List (Nat × List Byte) × List (Nat × List Byte) :=
  (q.tail ++ stageRuns c a bs).partition (fun r => !unitOpen c q r)

/-- Runs of bytes written at their near addresses by a channel's thread and joined for every party (R221, R333). -/
def writeRuns (s : State) (core : Nat) (k : Fin 4) (c : Nat) (rs : List (Nat × List Byte)) : State :=
  rs.foldl (fun s r => joinBytes (chainWrite s core k c r.1 r.2) (phys c r.1) r.2.length) s

/-- Where the write pointer stands when a piece up to near address `e` has moved (R220): at the first byte that still waits. -/
def posAfter (later : List (Nat × List Byte)) (e : Nat) : Nat := match later with | r :: _ => r.1 | [] => e

/-- Near memory as a record's own pending runs leave it for the bytes that it reads. -/
def withTail (m : Memory) (c : Nat) (q : RunRec) : Memory := q.tail.foldl (fun m r => memWrite m (phys c r.1) r.2) m

/-- R220 for a record between near ranges: the next piece moves. Log 23 (DEDUCED). -/
def advanceNear (s : State) (core : Nat) (k : Fin 4) (r : ChainRun) (q : RunRec) : State :=
  let c := r.chain.ctx
  match q.lines[q.moved]? with
  | none => s
  | some l =>
    let n := cleanBytes s (phys c l.va) l.len
    let bs := if s.choices.isEmpty || !q.tail.isEmpty then moveBytes (withTail s.mem c q) (phys c l.va) (phys c l.near) n
      else engRead s r.chain.view (phys c l.va) n
    if n < l.len then
      let s2 := modRec (writeRuns s core k c (q.tail ++ [(l.near, bs)])) core k (fun q => { q with poisoned := true, tail := [] })
      match poisonTrap s c l.va l.len with
      | some t => containCtx s2 c t.spec0 t.addr false (t.spec1 == 1)
      | none => s2
    else
      let st := stageNow c q l.near bs
      let s1 := modRec (writeRuns s core k c st.1) core k (fun q => { q with moved := q.moved + 1, tail := st.2 })
      let s2 := advance s1 core k (posAfter st.2 (l.near + l.len))
      if q.moved + 1 = q.lines.length then
        postOnce (postOnce s2 .recordFinishedReading [core, k.val]) .transferRecordComplete [core, k.val]
      else postOnce s2 .writePointerAdvance [core, k.val]

/-- R220 for a record whose far lines arrive: the next piece of the contiguous prefix performs, but for the last bytes of a unit of the
slice that is not whole (R305). A line that arrives short has met a poisoned word: nothing of that word or of any later one is
written (R426). Log 24 (DEDUCED). -/
def advanceLoad (s : State) (core : Nat) (k : Fin 4) (r : ChainRun) (q : RunRec) : State :=
  let c := r.chain.ctx
  match q.lines[q.moved]?, q.data.find? (fun d => d.1 == q.moved) with
  | some l, some (_, new) =>
    let want := if recKind q = 3 then 8 else l.len
    let short := decide (new.length < want)
    if short then
      containCtx (modRec (writeRuns s core k c (q.tail ++ [(l.near, new)])) core k (fun q => { q with poisoned := true, data := [], tail := [] }))
        c 5 (l.va + l.off + new.length) true false
    else
      let st := stageNow c q l.near new
      let s1 := modRec (writeRuns s core k c st.1) core k (fun q => { q with
        moved := q.moved + 1, data := q.data.filter (fun d => d.1 != q.moved), tail := st.2 })
      let s2 := advance s1 core k (posAfter st.2 (l.near + want))
      let s3 := if q.fault.isSome then postOnce s2 .recordFault [core, k.val] else s2
      if q.moved + 1 = q.lines.length then postOnce s3 .transferRecordComplete [core, k.val]
      else if q.data.any (fun d => d.1 == q.moved + 1) then postOnce s3 .writePointerAdvance [core, k.val]
      else settle s3 c
  | _, _ => s

/-- How far a program's pushes have filled its record's near range (R139): in the slice to the last unit that is whole (R305). -/
def programPos (c : Nat) (q : RunRec) : Nat :=
  let e := firstNear q.words + recPrefix q
  if recPrefix q < rLen q.words && sliceByte c (e - 1) then max (firstNear q.words) (e / 16 * 16) else e

/-- R220, R139: POS advances over the finished near prefix of the record a channel runs. Log 24 (DEDUCED). -/
def advancePtr (s : State) (core : Nat) (k : Fin 4) : State :=
  match runOf s core k with
  | none => s
  | some (r, q) =>
    if q.poisoned then s
    else if recKind q = 2 then
      let e := programPos r.chain.ctx q
      let s1 := advance (joinBytes s (phys r.chain.ctx (firstNear q.words)) (e - firstNear q.words)) core k e
      if rLen q.words ≤ recPrefix q then postOnce s1 .recordFinishedReading [core, k.val] else s1
    else if recStores q then
      match q.lines[q.fwd - 1]? with
      | some l => if q.fwd = 0 then s else advance s core k (l.near + l.len)
      | none => s
    else if recSfar q || recKind q = 3 then advanceLoad s core k r q
    else if q.suspended || q.fault.isSome then s
    else advanceNear s core k r q

/-- R220. Names the core and the channel. Log 24 (DEDUCED). -/
def writePointerEv (s : State) : State := advancePtr s (argN s 0) (chanIx (argN s 1))

def execWritePointerAdvance (s : State) : Host.Outcome State Fault Refusal := happens writePointerEv s

/-- The lines of a record that are complete (R231): committed or arrived, of a loader's record those of its prefix. -/
def linesDone (q : RunRec) : Nat :=
  if recKind q = 2 && recSfar q then recPrefix q / 64 else if recSfar q || recDfar q then q.done.length else q.moved

/-- The held fault of a drop below zero (R206, R231). -/
def overflowHeld (r : ChainRun) (q : RunRec) (k : Fin 4) : HeldFault :=
  ⟨cTOK_OVERFLOW, r.chain.opc, 0, false, q.addr, k.val, 1, linesDone q⟩

/-- R223: the source-free counts drop, of the record's token and, for the last record, of the chain token. -/
def finishReading (s : State) (core : Nat) (k : Fin 4) : State :=
  match runOf s core k with
  | none => s
  | some (r, q) =>
    if q.readDone then s
    else
      let c := r.chain.ctx
      let h := some (overflowHeld r q k)
      let s1 := modRec s core k (fun q => { q with readDone := true })
      let s2 := if rTv q.words then tokenDrop s1 c (rTok q.words) 1 0 h else s1
      let s3 := match r.chain.tok with
        | some t => if rEnd q.words then tokenDrop s2 c (tokIx t) 1 0 h else s2
        | none => s2
      advance s3 core k (wBits (getCtx s3 c).wp[k] 0 32)

/-- Whether a record has read its whole source (R223). Log 28 (DEDUCED). -/
def readAll (s : State) (core : Nat) (k : Fin 4) (q : RunRec) : Bool :=
  if recKind q = 2 then
    (if recSfar q then rLen q.words ≤ recPrefix q
     else (servingOf s core k.val).any (fun m => ((getCtx s m).serving.map Serving.halted).getD false))
  else if recDfar q then q.fwd == q.lines.length
  else if recSfar q then q.done.length == q.lines.length
  else q.moved == q.lines.length

/-- R223. Names the core and the channel. Log 28 (DEDUCED). -/
def finishedReadingEv (s : State) : State :=
  let core := argN s 0
  let k := chanIx (argN s 1)
  match runOf s core k with
  | none => s
  | some (_, q) => if readAll s core k q && q.fault.isNone then finishReading s core k else s

def execRecordFinishedReading (s : State) : Host.Outcome State Fault Refusal := happens finishedReadingEv s

/-- Every mark of a record released (R221). -/
def dropRecMarks (s : State) (id : Nat) : State := { s with marks := s.marks.filter (fun m => m.op != id) }

/-- The token a record's stores are joined by (R227, R333): its own, else its chain's, else none, which 8 stands for. -/
def recToken (r : ChainRun) (q : RunRec) : Nat := if rTv q.words then (rTok q.words).val else r.chain.tok.getD 8

/-- One of the lines of host memory that a record has written becomes visible, the one that the next choice names (R335).
Log 136 (DEDUCED). -/
def showHost (s : State) (core : Nat) (k : Fin 4) (q : RunRec) : State :=
  let i := s.choices.headD 0 % q.hostOut.length
  match q.hostOut[i]? with
  | none => s
  | some w =>
    modRec (useChoice (clearWords (rawWrite s w.1 w.2) w.1 w.2.length)) core k (fun q => { q with hostOut := q.hostOut.eraseIdx i })

/-- What a completed record does (R219, R223, R459): its energy is counted, OWN clears, STATUS is 0,
marks go, VIS drops, and the next record is taken unless END is 1 or the context has stopped. Log 11 (DEDUCED), 21 (DEDUCED). -/
def completeRecord (s : State) (core : Nat) (k : Fin 4) (r : ChainRun) (q : RunRec) : State :=
  let c := r.chain.ctx
  let w0 := q.words.getD 0 0
  let last := (runsOf q.words).getLastD (0, 0, 0)
  let endPos := (if recDfar q then last.1 else last.2.1) + last.2.2
  let s0 := addEnergy s c (120 * ceilDiv (recBytes q.words) 256)
  let s1 := setPos (finishReading s0 core k) c k endPos
  let s2 := chainWrite s1 core k c q.addr (leBytes 8 (putBits w0 63 1 0))
  let s3 := chainWrite s2 core k c (q.addr + 0x3E) (leBytes 2 0)
  let s4 := sweepWin (dropRecMarks s3 q.id) q.id
  let v := match (getCore s4 core).chans[k] with | some r => r.chain.view | none => []
  let h := some (overflowHeld r q k)
  let s4 := addThread s4 c 2 (recToken r q) v
  let s5 := if rTv q.words then tokenDrop s4 c (rTok q.words) 0 1 h else s4
  if rEnd q.words then
    let s6 := match r.chain.tok with
      | some t => tokenDrop (addThread s5 c 2 t v) c (tokIx t) 0 1 h
      | none => s5
    endChain s6 core k
  else
    let s6 := modCore s5 core (fun x => { x with
      chans := x.chans.set k (x.chans[k].map (fun r => { r with running := none, next := bitsAt w0 0 32 })) })
    if chainActive s6 c then takeRecord s6 core k else settle s6 c

/-- Whether a served program has halted with every push delivered and every fst performed (R309). -/
def programDone (s : State) (core : Nat) (k : Fin 4) (q : RunRec) : Bool :=
  outstanding q == 0 && (servingOf s core k.val).any (fun m => match (getCtx s m).serving with
    | some v => v.halted && v.pushed.isEmpty
    | none => false)

/-- R219, R309, R335: the record a channel runs completes once everything of it has moved and its host lines are visible. -/
def tryComplete (s : State) (core : Nat) (k : Fin 4) : State :=
  match runOf s core k with
  | none => s
  | some (r, q) =>
    if q.fault.isSome then s
    else if recKind q = 2 then
      if programDone s core k q && (recDfar q || rLen q.words ≤ recPrefix q) then
        completeRecord ((servingOf s core k.val).foldl freeMem s) core k r q
      else s
    else if allDone q then
      if q.hostOut.isEmpty then completeRecord s core k r q
      else postOnce (showHost s core k q) .transferRecordComplete [core, k.val]
    else s

/-- R219. Names the core and the channel. -/
def transferCompleteEv (s : State) : State := tryComplete s (argN s 0) (chanIx (argN s 1))

def execTransferRecordComplete (s : State) : Host.Outcome State Fault Refusal := happens transferCompleteEv s

/-- A fault held by a token unless it already holds one (R224). -/
def holdTok (s : State) (c : Nat) (t : TokId) (h : HeldFault) : State :=
  modTok s c t (fun k => { k with fault := if k.fault.isNone then some h else k.fault })

/-- R224: who holds a record's fault: its token, else the chain token, else CHSTAT. Log 27 (DEDUCED), 113 (DEDUCED). -/
def holdFault (s : State) (c : Nat) (k : Fin 4) (r : ChainRun) (q : RunRec) (h : HeldFault) : State :=
  if rTv q.words then holdTok s c (rTok q.words) h
  else
    match r.chain.tok with
    | some t => holdTok s c (tokIx t) h
    | none => modCtx s c (fun x => { x with chfault := x.chfault.set k (some h) })

/-- R351: a BUDGET fault of a record after its task's halt: the record to the supervisor's queue, and the graph aborted.
Log 27 (DEDUCED). -/
def faultAfterHalt (s : State) (c : Nat) (r : ChainRun) (q : RunRec) (h : HeldFault) : State :=
  let t := if rTv q.words then (rTok q.words).val else r.chain.tok.getD 0
  let chs := !rTv q.words && r.chain.tok.isNone
  let rec' := mkRec s c (heldTrap h t chs) 0
  let s1 := enqueueFault s ((partOf s c).getD 0) (dieOf c) (rec'.bytes ++ zero64)
  match entOfCtx s1 c with
  | some e => if e.transit.runCtx == some c then failRun s1 c else abortGraph s1 (dieOf c) e.graph
  | none => s1

/-- The channel's orders of a record that never commit. Log 88 (DEDUCED). -/
def dropOrders (s : State) (core : Nat) (k : Fin 4) (rid : Nat) : State :=
  { s with chans := s.chans.map (fun p => (p.1, { p.2 with
      orders := p.2.orders.filter (fun o => !(o.rid == rid && o.core == core && o.k == k.val && o.stage < 2)) })) }

/-- What a record that stops at a fault has moved stands: the finished prefix of a loader's record (R309) and the bytes that waited for the
rest of their unit. -/
def keepMoved (s : State) (core : Nat) (k : Fin 4) (r : ChainRun) (q : RunRec) : State :=
  let c := r.chain.ctx
  let s1 := writeRuns s core k c q.tail
  if recKind q = 2 && recSfar q then
    advance (joinBytes s1 (phys c (firstNear q.words)) (recPrefix q)) core k (firstNear q.words + recPrefix q)
  else if q.tail.isEmpty then s1
  else
    match q.lines[q.moved]? with
    | some l => advance s1 core k l.near
    | none => s1

/-- R224: a record fault takes effect; the stores of its thread are joined by its token, and by the chain token, whose last count it drops,
as those of a completed record (R333). Log 21 (DEDUCED). -/
def recordFaultNow (s0 : State) (core : Nat) (k : Fin 4) (r : ChainRun) (q : RunRec) (f : HeldFault) : State :=
  let c := r.chain.ctx
  let s := keepMoved s0 core k r q
  let lines := if recKind q = 2 then linesDone q else f.lines
  let h : HeldFault := { f with opc := r.chain.opc, recAddr := q.addr, chan := k.val, lines := lines }
  let s1 := if q.words.isEmpty then s else chainWrite s core k c (q.addr + 0x3E) (leBytes 2 f.cause)
  let s2 := sweepAll (dropOrders (dropRecMarks s1 q.id) core k q.id)
  let s3 := modCtx ((servingOf s2 core k.val).foldl freeMem s2) c (fun x => { x with chcause := x.chcause.set k f.cause })
  let v := match (getCore s3 core).chans[k] with | some r => r.chain.view | none => []
  let sj := match r.chain.tok with
    | some t => if rTv q.words then addThread s3 c 2 t v else s3
    | none => s3
  let s4 := holdFault (addThread sj c 2 (recToken r q) v) c k r q h
  let o := some (overflowHeld r q k)
  let sf := if q.readDone then 0 else 1
  let s5 := if rTv q.words then tokenDrop s4 c (rTok q.words) sf 1 o else s4
  let s6 := match r.chain.tok with
    | some t => tokenDrop s5 c (tokIx t) (if rEnd q.words then sf else 1) 1 o
    | none => s5
  let s7 := endChain s6 core k
  if f.cause = cBUDGET && (getCtx s7 c).mode == .halted then faultAfterHalt s7 c r q h else s7

/-- R224: the fault of the running record, once the lines before it are done. Names the core and the channel. Log 27 (DEDUCED). -/
def recordFaultEv (s : State) : State :=
  let core := argN s 0
  let k := chanIx (argN s 1)
  match runOf s core k with
  | none => s
  | some (r, q) =>
    match q.fault with
    | none => s
    | some f =>
      if outstanding q ≠ 0 || q.data.any (fun d => d.1 == q.moved && d.1 < f.lines) then s
      else if !q.hostOut.isEmpty then postOnce (showHost s core k q) .recordFault [core, k.val]
      else recordFaultNow s core k r q f

def execRecordFault (s : State) : Host.Outcome State Fault Refusal := happens recordFaultEv s

end Sys2Proof.Machine
end

