-- ==== Sys2Proof/Machine/Mem.lean ====
section
/-! DEFINITION. Near loads and stores, scoped and ordered accesses, fences and atomics (R114 to R124), and the windows of
root mode (R260). -/

namespace Sys2Proof.Machine

/-- A loaded value extended to 64 bits (R115). -/
def extendLoad (z : LdSize) (bs : List Byte) : Word :=
  if z.signed then wInt (signedBits (leNat bs) z.width.bits) else w64 (leNat bs)

/-- The checks of a near access in order: R34, then a poisoned word that it would read (R426). -/
def nearCheck (s : State) (c ea n : Nat) (k : Acc) : Option Trap :=
  match checkNear s c ea n k with
  | some t => some t
  | none => if k == .store then none else poisonOwn s c ea n

/-- A plain near load of `n` bytes at `ea`, the bytes handed to the rest of the effect (R115, R330). -/
def loadThen (s : State) (ea n : Nat) (f : List Byte → State → Res Out) : Res Out :=
  match nearCheck s s.cur ea n .load with
  | some t => .trap t
  | none => let (bs, s1) := nearLoad s s.cur ea n; f bs s1

/-- A plain near store of bytes at `ea` (R115, R329). -/
def storeThen (s : State) (ea : Nat) (bs : List Byte) : Res Out :=
  match nearCheck s s.cur ea bs.length .store with
  | some t => .trap t
  | none => .ok { st := nearStore s s.cur ea bs }

/-- The address of an E-form access (R69, R115). -/
def eaE (base : Word) (o n : Nat) : Nat := effAddr base (sx 13 o * n)

/-- The bytes of a register that a store of a width writes. -/
def regBytes (z : Width) (v : Word) : List Byte := leBytes z.bytes (lowBits v.toNat z.bits)

/-- The effect of ld. -/
def ldBody (z : LdSize) (o : Nat) : Body := fun ws s =>
  loadThen s (eaE (src ws 0) o z.width.bytes) z.width.bytes (fun bs s1 => result s1 (extendLoad z bs))

/-- The effect of st: the base is served first, then the data (R115). -/
def stBody (z : Width) (o : Nat) : Body := fun ws s =>
  storeThen s (eaE (src ws 0) o z.bytes) (regBytes z (src ws 1))

def execLd (d b : Reg) (z : LdSize) (o : Fin 8192) (s : State) : Host.Outcome State Fault Refusal :=
  issue { i := .ld d b z o, srcs := [b], dst := some d, ecls := 3 } (ldBody z o.val) s

def execSt (d b : Reg) (z : Width) (o : Fin 8192) (s : State) : Host.Outcome State Fault Refusal :=
  issue { i := .st d b z o, srcs := [b, d], ecls := 3 } (stBody z o.val) s

/-- The effect of ld.v. -/
def ldVBody (v : VReg) (o : Nat) : Body := fun ws s =>
  loadThen s (eaE (src ws 0) o 16) 16
    (fun bs s1 => .ok { st := setCur s1 (fun x => setV x v (BitVec.ofNat 128 (leNat bs))) })

/-- The effect of st.v. -/
def stVBody (v : VReg) (o : Nat) : Body := fun ws s =>
  storeThen s (eaE (src ws 0) o 16) (leBytes 16 (getV (cx s) v).toNat)

def execLdV (v : VReg) (b : Reg) (o : Fin 8192) (s : State) : Host.Outcome State Fault Refusal :=
  issue { i := .ldV v b o, kind := .compute, srcs := [b], ecls := 3 } (ldVBody v o.val) s

def execStV (v : VReg) (b : Reg) (o : Fin 8192) (s : State) : Host.Outcome State Fault Refusal :=
  issue { i := .stV v b o, kind := .compute, srcs := [b], ecls := 3 } (stVBody v o.val) s

/-- The code of a scope (R71). -/
def scopeCode : Scope → Nat
  | .core => 0 | .cluster => 1 | .die => 2 | .device => 3 | .system => 4

/-- Whether an order acquires, and whether it releases (R120). -/
def acquires (o : Order) : Bool := o == .acq || o == .sc
def releases (o : Order) : Bool := o == .rel || o == .sc

/-- Whether a near address lies where other parties reach it with coherence lists. -/
def shared (c ea : Nat) : Bool :=
  match areaFor c ea with
  | .own _ => true
  | .cluster _ => true
  | .sibling _ _ => true
  | .wstack _ => true
  | _ => false

/-- A marked load after its checks (R122, R330, R331): the newest bytes, the view moved to them, and the views of the
releases it reads when it acquires. Log 116 (DEDUCED). -/
def markedLoad (s : State) (c ea n scope : Nat) (o : Order) : List Byte × State :=
  if !shared c ea then nearLoad s c ea n
  else
    let s0 := if o == .sc then drain s c else s
    let a := phys c ea
    let bs := (List.range n).map (fun i => seenByte s0 c (a + i))
    let s1 := modCtx s0 c (fun x => { x with view := moveView x.view a n s0.stamp })
    (bs, if acquires o then acquireAt s1 c a n scope else s1)

/-- A store with order rel or sc after its checks (R329, R331): every earlier store performs, then this one with the view
that it carries: as it retires, or, with order rel where the next choice says so, at a later step (R338, L4). Log 116 (DEDUCED). -/
def releaseStore (s : State) (c ea scope : Nat) (o : Order) (bs : List Byte) : State :=
  if !shared c ea then nearStore s c ea bs
  else
    let s1 := drain s c
    let e : StoreEnt := ⟨phys c ea, bs, [⟨scope, coreOf c, []⟩]⟩
    let s2 := modCtx s1 c (fun x => { x with stq := x.stq ++ [e] })
    if o == .sc then drain s2 c else if s.choices.headD 0 = 0 then useChoice (drain s2 c)
    else post (useChoice s2) .storePerform [c]

/-- The effect of a load of major 0x18 (R119): b is an offset in units of the size. Log 125 (DESIGN CHOICE). -/
def ldScopedBody (z : LdSize) (off : Nat) (sc : Scope) (o : Order) : Body := fun ws s =>
  let n := z.width.bytes
  let ea := effAddr (src ws 0) (off * n : Nat)
  if o == .plain then loadThen s ea n (fun bs s1 => result s1 (extendLoad z bs))
  else
    match nearCheck s s.cur ea n .load with
    | some t => .trap t
    | none =>
      let (bs, s1) := markedLoad s s.cur ea n (scopeCode sc) o
      .ok { st := s1, val := some (extendLoad z bs), sync := true }

/-- The effect of a store of major 0x18. -/
def stScopedBody (z : Width) (off : Nat) (sc : Scope) (o : Order) : Body := fun ws s =>
  let n := z.bytes
  let ea := effAddr (src ws 0) (off * n : Nat)
  let bs := regBytes z (src ws 1)
  if o == .plain then storeThen s ea bs
  else
    match nearCheck s s.cur ea n .store with
    | some t => .trap t
    | none => .ok { st := releaseStore s s.cur ea (scopeCode sc) o bs, sync := true }

def execLdScoped (d a : Reg) (b : Fin 32) (z : LdSize) (sc : Scope) (o : Order) (s : State) :
    Host.Outcome State Fault Refusal :=
  issue { i := .ldScoped d a b z sc o, srcs := [a], dst := some d, ecls := 3 } (ldScopedBody z b.val sc o) s

def execStScoped (d a : Reg) (b : Fin 32) (z : Width) (sc : Scope) (o : Order) (s : State) :
    Host.Outcome State Fault Refusal :=
  issue { i := .stScoped d a b z sc o, srcs := [a, d], ecls := 3 } (stScopedBody z b.val sc o) s

/-- The acquiring half of a fence (R331): the views of releases that earlier plain loads read are merged where each scope
includes both. -/
def fenceAcquire (scope core : Nat) (x : Ctx) : Ctx :=
  let both (k : Carried) : Bool := scopeHas k.scope k.core core && scopeHas scope core k.core
  { x with
    view := (x.acqPend.filter both).foldl (fun v k => mergeView v k.view) x.view
    acqPend := x.acqPend.filter (fun k => !both k) }

/-- The releasing half of a fence (R329, R331): the stores that perform after those before the fence carry the context's view at its
scope too. Log 121 (DEDUCED). -/
def fenceRelease (s : State) (c scope : Nat) : State :=
  let x := getCtx s c
  let k : Carried := ⟨scope, coreOf c, []⟩
  if x.stq.isEmpty then putCtx s c { x with fence := addFence x.fence k }
  else post (putCtx s c { x with stq := x.stq ++ [⟨0, [], [k]⟩] }) .storePerform [c]

/-- The effect of fence (R119, R120). -/
def fenceBody (sc : Scope) (o : Order) : Body := fun _ s =>
  let c := s.cur
  let s0 := if o == .sc then drain s c else s
  let s1 := if acquires o then modCtx s0 c (fenceAcquire (scopeCode sc) (coreOf c)) else s0
  .ok { st := if releases o then fenceRelease s1 c (scopeCode sc) else s1, sync := true }

def execFence (sc : Scope) (o : Order) (s : State) : Host.Outcome State Fault Refusal :=
  issue { i := .fence sc o } (fenceBody sc o) s

/-- The operations of R124. -/
inductive AmoOp where
  | add | min | max | and | or | xor | swp | cas
  deriving DecidableEq, Repr

/-- The new value of an atomic (R124): `w` bits, the old value, the operand and the comparand. -/
def amoNew (op : AmoOp) (w old b cmp : Nat) : Nat :=
  match op with
  | .add => (old + b) % 2 ^ w
  | .min => if signedBits old w ≤ signedBits b w then old else b % 2 ^ w
  | .max => if signedBits b w ≤ signedBits old w then old else b % 2 ^ w
  | .and => old &&& (b % 2 ^ w)
  | .or => old ||| (b % 2 ^ w)
  | .xor => old ^^^ (b % 2 ^ w)
  | .swp => b % 2 ^ w
  | .cas => if old = cmp % 2 ^ w then b % 2 ^ w else old

/-- Whether an atomic writes (R124): cas only when it succeeds. -/
def amoWrites (op : AmoOp) (w old cmp : Nat) : Bool := op != .cas || old == cmp % 2 ^ w

/-- The write step of an atomic: it performs at once; releases standing at its bytes stay (a chain of atomics, R331). -/
def atomicWrite (s : State) (c a scope : Nat) (o : Order) (bs : List Byte) : State :=
  let s1 := listBytes s a bs
  let x := getCtx s1 c
  let v := moveView x.view a bs.length s1.stamp
  let ks := carriesOf (if releases o then [⟨scope, coreOf c, []⟩] else []) x.fence v
  putCtx { s1 with released := s1.released ++ releasesOf a bs.length s1.stamp ks } c { x with view := v }

/-- The stores that perform before an atomic reads and writes (R329): with order rel or sc every earlier one; else those that the atomic
follows in program order at its own bytes or in cluster memory (R116, R117), and fences whose scopes its store is to carry.
Log 122 (DEDUCED). -/
def amoDrain (s : State) (c a n : Nat) (o : Order) : State :=
  if releases o then drain s c
  else drainTo (fun e => e.bytes.isEmpty || (e.addr < a + n && a < e.addr + e.bytes.length) ||
    (inClusterMem a && inClusterMem e.addr)) s c

/-- The effect of an atomic (R124): ports are served a, b, then the comparand. -/
def amoBody (op : AmoOp) (w32 : Bool) (sc : Scope) (o : Order) : Body := fun ws s =>
  let c := s.cur
  let n := if w32 then 4 else 8
  let ea := (src ws 0).toNat
  match nearCheck s c ea n .atomic with
  | some t => .trap t
  | none =>
    let a := phys c ea
    if !shared c ea then
      let old := memNat s.mem a n
      let s1 := if amoWrites op (8 * n) old (src ws 2).toNat
        then rawWrite s a (leBytes n (amoNew op (8 * n) old (src ws 1).toNat (src ws 2).toNat)) else s
      .ok { st := s1, val := some (wInt (signedBits old (8 * n))), sync := true }
    else
      let s0 := amoDrain s c a n o
      let old := memNat s0.mem a n
      let s1 := modCtx s0 c (fun x => { x with view := moveView x.view a n s0.stamp })
      let s2 := if acquires o then acquireAt s1 c a n (scopeCode sc) else s1
      let s3 := if amoWrites op (8 * n) old (src ws 2).toNat
        then atomicWrite s2 c a (scopeCode sc) o (leBytes n (amoNew op (8 * n) old (src ws 1).toNat (src ws 2).toNat)) else s2
      .ok { st := s3, val := some (wInt (signedBits old (8 * n))), sync := true }

/-- What issue needs to know of an atomic. -/
def amoSpec (i : Instr) (d a b : Reg) (cas : Bool) : Spec :=
  { i := i, wu := some 2, kind := .compute, srcs := if cas then [a, b, d] else [a, b], dst := some d, ecls := 3 }

def execAmoAdd (d a b : Reg) (w32 : Bool) (sc : Scope) (o : Order) (s : State) : Host.Outcome State Fault Refusal :=
  issue (amoSpec (.amoAdd d a b w32 sc o) d a b false) (amoBody .add w32 sc o) s

def execAmoMin (d a b : Reg) (w32 : Bool) (sc : Scope) (o : Order) (s : State) : Host.Outcome State Fault Refusal :=
  issue (amoSpec (.amoMin d a b w32 sc o) d a b false) (amoBody .min w32 sc o) s

def execAmoMax (d a b : Reg) (w32 : Bool) (sc : Scope) (o : Order) (s : State) : Host.Outcome State Fault Refusal :=
  issue (amoSpec (.amoMax d a b w32 sc o) d a b false) (amoBody .max w32 sc o) s

def execAmoAnd (d a b : Reg) (w32 : Bool) (sc : Scope) (o : Order) (s : State) : Host.Outcome State Fault Refusal :=
  issue (amoSpec (.amoAnd d a b w32 sc o) d a b false) (amoBody .and w32 sc o) s

def execAmoOr (d a b : Reg) (w32 : Bool) (sc : Scope) (o : Order) (s : State) : Host.Outcome State Fault Refusal :=
  issue (amoSpec (.amoOr d a b w32 sc o) d a b false) (amoBody .or w32 sc o) s

def execAmoXor (d a b : Reg) (w32 : Bool) (sc : Scope) (o : Order) (s : State) : Host.Outcome State Fault Refusal :=
  issue (amoSpec (.amoXor d a b w32 sc o) d a b false) (amoBody .xor w32 sc o) s

def execAmoSwp (d a b : Reg) (w32 : Bool) (sc : Scope) (o : Order) (s : State) : Host.Outcome State Fault Refusal :=
  issue (amoSpec (.amoSwp d a b w32 sc o) d a b false) (amoBody .swp w32 sc o) s

def execAmoCas (d a b : Reg) (w32 : Bool) (sc : Scope) (o : Order) (s : State) : Host.Outcome State Fault Refusal :=
  issue (amoSpec (.amoCas d a b w32 sc o) d a b true) (amoBody .cas w32 sc o) s

/-- R329: a retired store performs. Names the context. -/
def storePerformEv (s : State) : State :=
  let c := argN s 0
  if (getCtx s c).stq.isEmpty then s else performHead s c

def execStorePerform (s : State) : Host.Outcome State Fault Refusal := happens storePerformEv s

end Sys2Proof.Machine
end

