-- ==== Sys2Proof/Machine/Orders.lean ====
section
/-! DEFINITION. Far orders (R311, R313, R318 to R320, R334, R335): forwarding, the head of a channel's queue, commits and
arrivals; memory-core programs with fld, fst, push and pull (R137 to R139, R306 to R309). -/

namespace Sys2Proof.Machine

/- ---------------------------------------------------------------- queues of a channel -/

/-- The order of a number in a channel's queue. -/
def findOrder (s : State) (ch id : Nat) : Option FarOrder := (getChan s ch).orders.find? (fun o => o.id == id)

/-- One order of a channel changed. -/
def modOrder (s : State) (ch id : Nat) (f : FarOrder → FarOrder) : State :=
  modChan s ch (fun k => { k with orders := k.orders.map (fun o => if o.id = id then f o else o) })

/-- One order of a channel taken out of its queue. -/
def dropOrder (s : State) (ch id : Nat) : State :=
  modChan s ch (fun k => { k with orders := k.orders.filter (fun o => o.id != id) })

/-- Whether an order joins the window: host lines and reads do not; a shadow write does under its shadow line's address (R319, R335,
R394). Log 25 (DEDUCED). -/
def windowed (o : FarOrder) : Bool := !o.host && (o.kind == .write || o.kind == .atomic)

/-- An order joins the queue of its channel; its turn at the head is due. -/
def addOrder (s : State) (ch : Nat) (o : FarOrder) : State :=
  postOnce (modChan s ch (fun k => { k with orders := k.orders ++ [o] })) .orderAtHead [ch, o.id]

/-- The orders before one in its queue. -/
def ordersBefore (s : State) (ch id : Nat) : List FarOrder := (getChan s ch).orders.takeWhile (fun o => o.id != id)

/-- Whether an earlier line order of the same party has still to reach a stage (R318). -/
def partyBehind (s : State) (ch : Nat) (o : FarOrder) (stage : Nat) : Bool :=
  (ordersBefore s ch o.id).any (fun p => p.party == o.party && p.stage < stage && p.kind != .program && p.kind != .card)

/-- Whether a window entry is that of a line's own order. -/
def ownEnt (o : FarOrder) (e : WinEnt) : Bool := e.party == o.party && e.win == o.win

/-- Whether a line of an order meets an entry of another party that covers it, among those that stood in the window when the order
arrived at the head (R319): all of them for an order that has no place there yet. Log 25 (DEDUCED). -/
def windowHit (s : State) (ch : Nat) (o : FarOrder) : Bool :=
  ((getChan s ch).win.takeWhile (fun e => !ownEnt o e)).any (fun e => e.party != o.party && e.lines.contains (o.pa / 64))

/-- The lines that an order has in its channel from this line on (R319): those queued there and, of a copy record, those it has
still to forward there. Log 25 (DEDUCED). -/
def recLines (s : State) (ch : Nat) (o : FarOrder) : List Nat :=
  (((getChan s ch).orders.filter (fun p => p.party == o.party && p.win == o.win && p.stage < 2)).map (fun p => p.pa / 64)) ++
    (match o.party with | .copy core k => recLeft s ch core (chanIx k) o.win | _ => [])

/-- The window with a place for an order (R319): a write's entry covers its lines in the channel and needs room among the 64; a read's
place covers nothing. None where there is no room. Log 25 (DEDUCED). -/
def enterWindow (win : List WinEnt) (o : FarOrder) (lines : List Nat) : Option (List WinEnt) :=
  if win.any (ownEnt o) then
    some (if windowed o then win.map (fun e => if ownEnt o e && !e.lines.contains (o.pa / 64)
      then { e with lines := o.pa / 64 :: e.lines } else e) else win)
  else if !windowed o then some (win ++ [⟨o.party, o.win, true, []⟩])
  else if (win.filter (fun e => !e.rd)).length < 64 then some (win ++ [⟨o.party, o.win, false, o.pa / 64 :: lines⟩])
  else none

/- ---------------------------------------------------------------- forwarding -/

/-- The order of a line of a running record. Log 46 (DEDUCED). -/
def lineOrder (s : State) (core : Nat) (k : Fin 4) (q : RunRec) (c id : Nat) (l : FarLine) (pa : Nat) (host : Bool)
    (data : List Byte) : FarOrder :=
  { id := id, party := .copy core k.val
    kind := if recKind q = 3 then .atomic else if recDfar q then .write else .read
    part := (partOf s c).getD 0, pid := pidOf s c, rid := q.id, core := core, k := k.val, line := q.fwd, va := l.va, pa := pa
    host := host, off := l.off, len := l.len, near := l.near, data := data, tag := (getCtx s c).tag.toNat
    run := (getCtx s c).run, shadow := shadowLine s c l.va, stage := 0, win := q.id }

/-- What follows a record's forwarding of a line: the next line, what it has read, its pointer. Log 25 (DEDUCED). -/
def forwarded (s : State) (core : Nat) (k : Fin 4) (q : RunRec) (stores : Bool) : State :=
  let s1 := if stores then postOnce s .writePointerAdvance [core, k.val] else s
  if q.fwd < q.lines.length then postOnce s1 .lineForward [core, k.val]
  else
    let s2 := if recDfar q then postOnce s1 .recordFinishedReading [core, k.val] else s1
    sweepWin s2 q.id

/-- Where a far line of a context goes: a run's write to an output line to its shadow line (R394), every other line to its own place.
None when the Transit region is full, which ends the comparison (R395). -/
def routeLine (s : State) (c va pa : Nat) (host write : Bool) : Except State (State × Nat × Bool) :=
  if !(write && shadowLine s c va) then .ok (s, pa, host)
  else
    match entOfCtx s c with
    | none => .ok (s, pa, host)
    | some e =>
      match makeShadow s (homeDie s c) e va with
      | some (s1, a) => .ok (s1, a, false)
      | none => .error (postOnce (modEnt s (homeDie s c) e.order (fun f => { f with transit := { f.transit with full := true } }))
          .retentionLockAge [homeDie s c, e.tag])

/-- A copy record stops at a poisoned word (R426): it moves nothing more, and the error is contained. -/
def poisonRec (s : State) (core : Nat) (k : Fin 4) (c kind addr : Nat) (far own : Bool) : State :=
  containCtx (modRec s core k (fun q => { q with poisoned := true })) c kind addr far own

/-- A translation of a record that fails (R224, R313): a fault at its line, or a poisoned entry of the tables (R426). -/
def walkFail (s : State) (core : Nat) (k : Fin 4) (c va e sub line : Nat) (kd : Kind) : State :=
  if e = cUNCORRECTABLE then
    poisonRec s core k c 5 ((poisonedFar s (dieOfCore core) ((partOf s c).getD 0) (pidOf s c) va 1 kd).getD va) true false
  else lineFault s core k ⟨e, 0, va, true, 0, 0, sub, line⟩

/-- A line of a running record translated and sent to its channel (R311). -/
def sendLine (s : State) (core : Nat) (k : Fin 4) (r : ChainRun) (q : RunRec) (l : FarLine) : State :=
  let c := r.chain.ctx
  let die := dieOfCore core
  match translate s die ((partOf s c).getD 0) (pidOf s c) (l.va + l.off) (lineKind q) with
  | .error e => walkFail s core k c (l.va + l.off) e 0 q.fwd (lineKind q)
  | .ok (s0, pa0, host0) =>
    match routeLine s0 c l.va pa0 host0 (recDfar q), (if recKind q = 3 then poisonTrap s0 c l.near 16 else none) with
    | .error s1, _ => s1
    | .ok _, some t => poisonRec s0 core k c t.spec0 t.addr false (t.spec1 == 1)
    | .ok (s1, pa, host), none =>
    let (s2, go) := transitAccess s1 c l.va (recDfar q)
    if !go then s2
    else
      let n := if recStores q then cleanBytes s2 (phys c l.near) l.len else l.len
      let data := if recKind q = 3 then engRead s2 r.chain.view (phys c l.near) 16
        else if recDfar q then engRead s2 r.chain.view (phys c l.near) n else []
      let base := pa / 64 * 64
      let (id, s3) := fresh s2
      let q1 : RunRec := { q with fwd := q.fwd + 1, moved := if recStores q then q.fwd + 1 else q.moved }
      let o := lineOrder s3 core k q c id { l with len := n } base host data
      let s5 := if n = 0 then s3 else addOrder (modRec s3 core k (fun _ => q1)) (lineChan die base host) o
      if n < l.len then
        match poisonTrap s5 c l.near l.len with
        | some t => poisonRec s5 core k c t.spec0 t.addr false (t.spec1 == 1)
        | none => s5
      else forwarded s5 core k q1 (recStores q)

/-- The contexts that a partition has on the memory core that serves a channel (R306, R428). -/
def mcShareAt (s : State) (ch part : Nat) : Nat :=
  match getPart? s part with | some p => p.cfg.shareOn (servedBy s ch) | none => 0

/-- A PROGRAM record's order sent to the memory core that runs its program (R308): with no share there, ENGINE (R306). Log 28 (DEDUCED). -/
def sendProgram (s : State) (core : Nat) (k : Fin 4) (r : ChainRun) (q : RunRec) : State :=
  let c := r.chain.ctx
  let die := dieOfCore core
  let part := (partOf s c).getD 0
  let far := if recSfar q then q.words.getD 1 0 else q.words.getD 2 0
  match translate s die part (pidOf s c) far (if recSfar q then .read else .write) with
  | .error e => walkFail s core k c far e 0 0 (if recSfar q then .read else .write)
  | .ok (s1, pa, host) =>
    let ch := lineChan die pa host
    if mcShareAt s1 ch part = 0 then lineFault s1 core k ⟨cENGINE, 0, far, true, 0, 0, 3, 0⟩
    else
      let (id, s2) := fresh s1
      let o : FarOrder :=
        { id := id, party := .copy core k.val, kind := .program, part := part, pid := pidOf s c, rid := q.id, core := core
          k := k.val, line := 0, va := far, pa := pa, host := host, off := 0, len := rLen q.words, near := firstNear q.words
          data := [], tag := (getCtx s c).tag.toNat, run := (getCtx s c).run, shadow := false, stage := 0, win := q.id }
      postOnce (modChan s2 ch (fun x => { x with orders := x.orders ++ [o] })) .programOrderStart [ch, id]

/-- The number of a kind of access, and back. -/
def kindCode : Kind → Nat
  | .read => 0 | .write => 1 | .fetch => 2 | .atomic => 3
def kindOf (n : Nat) : Kind := if n = 0 then .read else if n = 1 then .write else if n = 2 then .fetch else .atomic

/-- A forwarding that misses the translation cache waits for a walker, then goes on (R314). Log 56 (DEDUCED). -/
def awaitWalk (s : State) (core : Nat) (k : Fin 4) (c va : Nat) (kd : Kind) : State :=
  post (post s .translationWalk [dieOfCore core, (partOf s c).getD 0, pidOf s c, va, kindCode kd]) .lineForward [core, k.val, 1]

/-- R311: the channel translates and forwards the next line of its record. Names the core, the channel and, third, 1 once a
walk for the line has been made. -/
def lineForwardEv (s : State) : State :=
  let core := argN s 0
  let k := chanIx (argN s 1)
  match runOf s core k with
  | none => s
  | some (r, q) =>
    let c := r.chain.ctx
    if q.suspended || q.poisoned || q.fault.isSome || 64 ≤ outstanding q then s
    else if recKind q = 2 then
      (if (servingOf s core k.val).isEmpty && !(s.chans.any (fun p => p.2.orders.any (fun o => o.kind == .program && o.rid == q.id)))
       then sendProgram s core k r q else s)
    else
      match q.lines[q.fwd]? with
      | none => s
      | some l =>
        let hit := (tlbHit s (dieOfCore core) ((partOf s c).getD 0) (pidOf s c) (l.va + l.off)).isSome
        if hit || argN s 2 = 1 then sendLine s core k r q l
        else awaitWalk s core k c (l.va + l.off) (lineKind q)

def execLineForward (s : State) : Host.Outcome State Fault Refusal := happens lineForwardEv s

/-- R313: a walk for a far address; a failure leaves no trace but its requester's. Names the die, partition, PID, address and
kind of access. -/
def translationWalkEv (s : State) : State :=
  match translate s (argN s 0) (argN s 1) (argN s 2) (argN s 3) (kindOf (argN s 4)) with
  | .ok (s1, _, _) => s1
  | .error _ => s

def execTranslationWalk (s : State) : Host.Outcome State Fault Refusal := happens translationWalkEv s

/- ---------------------------------------------------------------- the channel -/

/-- R319, R320: a line meets another party's entry: the record's later lines that no channel has committed never commit, and
the record takes CONFLICT; an fst or fld ends its program (R309); of a host write what is left is marked and reports no completion.
Log 88 (DEDUCED). -/
def conflictStop (s : State) (ch : Nat) (o : FarOrder) : State :=
  match o.party with
  | .copy core k =>
    let kk := chanIx k
    match runOf s core kk with
    | none => sweepAll (dropOrder s ch o.id)
    | some (_, q) =>
      let h : HeldFault := ⟨cCONFLICT, 0, o.va + o.off, true, 0, 0, 0, o.line⟩
      let later (e : FarOrder) : Bool := e.rid == o.rid && e.stage < 2 &&
        (if recKind q = 2 then o.id ≤ e.id else o.line ≤ e.line)
      let s1 := { s with chans := s.chans.map (fun p => (p.1, { p.2 with orders := p.2.orders.filter (fun e => !later e) })) }
      let left := s1.chans.foldl (fun n p => n + (p.2.orders.filter (fun e => e.rid == o.rid)).length) 0
      let s2 := (servingOf s1 core k).foldl (fun s m => modCtx s m (fun x => { x with
        serving := x.serving.map (fun v => { v with fault := some h }) })) s1
      sweepAll (lineFault (modRec s2 core kk (fun q => { q with fwd := q.done.length + left })) core kk h)
  | .mem _ => sweepAll (dropOrder s ch o.id)
  | .host _ _ =>
    let later (e : FarOrder) : Bool := e.rid == o.rid && e.stage < 2 && o.line ≤ e.line
    let rest := s.chans.map (fun p => (p.1, { p.2 with orders := (p.2.orders.filter (fun e => !later e)).map (fun e =>
      if e.rid = o.rid then { e with run := 1 } else e) }))
    sweepAll { s with chans := rest }

/-- R319: an order at the head of its channel's queue: a locked write waits (R392), a write with no room in the window waits,
a line another party's entry covers stops. Names the channel and the order. Log 56 (DEDUCED). -/
def orderAtHeadEv (s : State) : State :=
  let ch := argN s 0
  match findOrder s ch (argN s 1) with
  | none => s
  | some o =>
    let again := postOnce s .orderAtHead [ch, o.id]
    let letIn (s : State) : State := postOnce (modOrder s ch o.id (fun o => { o with stage := 1 })) .lineCommit [ch, o.id]
    if o.stage ≠ 0 || o.kind == .program || o.kind == .card then s
    else if partyBehind s ch o 1 then again
    else if o.host || (o.shadow && !windowed o) then letIn s
    else if windowed o && !o.shadow && lockedLine s o.pa o.part o.tag then again
    else if windowHit s ch o then conflictStop s ch o
    else
      match enterWindow (getChan s ch).win o (recLines s ch o) with
      | none => again
      | some w => letIn (modChan s ch (fun k => { k with win := w }))

def execOrderAtHead (s : State) : Host.Outcome State Fault Refusal := happens orderAtHeadEv s

/-- The entry of the task an order belongs to. -/
def orderEnt (s : State) (o : FarOrder) : Option (Nat × Entry) :=
  s.dies.findSome? (fun d => (d.2.entries.find? (fun e => e.tag == o.tag && e.part == o.part && e.card.isNone && o.tag != 0)).map
    (fun e => (d.1, e)))

/-- Whether an order is a line of host memory of a copy record, which becomes visible when its record completes (R335). -/
def hostLine (s : State) (o : FarOrder) : Bool :=
  o.host && o.kind == .write && (match o.party with
    | .copy core k => (match runOf s core (chanIx k) with | some (_, q) => q.id == o.rid && recKind q != 2 | none => false)
    | _ => false)

/-- A committed write line: its bytes, the digest of a selected task's run, the dirty page (R334, R335, R391, R448). Log 46 (DEDUCED). -/
def commitBytes (s : State) (o : FarOrder) (bs : List Byte) : State :=
  let a := farAddr o.pa o.host + o.off
  let s1 := if o.shadow then
      (match orderEnt s o with | some (die, e) => writeShadow s die e o.va o.off bs | none => s)
    else if hostLine s o then modRec s o.core (chanIx o.k) (fun q => { q with hostOut := q.hostOut ++ [(a, bs)] })
    else
      let s0 := clearWords (rawWrite s a bs) a bs.length
      if o.host then s0 else dirtyPage s0 o.part o.pa
  match orderEnt s1 o with
  | some (die, e) => addDigest s1 die e o.run o.va (pieceMask o.off bs.length) (pieceLine o.off bs)
  | none => s1

/-- The bytes of a piece of a far line as an order reads them (R334), a run's output lines from its shadow (R394), and how
many stand before a poisoned word. -/
def readBytes (s : State) (o : FarOrder) : List Byte :=
  let a := farAddr o.pa o.host + o.off
  if o.shadow then
    match orderEnt s o with
    | some (_, e) => (match shadowOf e o.va with | some l => (l.data.drop o.off).take o.len | none => List.replicate o.len 0)
    | none => List.replicate o.len 0
  else memRead s.mem a (cleanBytes s a o.len)

/-- A record's line has committed or arrived: its count, its energy (R459), and what is due next (R219, R224, R311, R371).
Log 11 (DEDUCED), 24 (DEDUCED). -/
def lineDone (s : State) (core : Nat) (k : Fin 4) (rid line : Nat) : State :=
  match runOf s core k with
  | none => s
  | some (r, q) =>
    if q.id ≠ rid then s
    else
      let q1 : RunRec := { q with done := line :: q.done }
      let s0 := sweepWin (modRec s core k (fun _ => q1)) rid
      let s1 := if recKind q = 2 then s0 else addEnergy s0 r.chain.ctx 640
      let s2 := if q1.fault.isSome then postOnce s1 .recordFault [core, k.val] else s1
      let s3 := if allDone q1 || recKind q = 2 then postOnce s2 .transferRecordComplete [core, k.val]
        else if q1.fwd < q1.lines.length && !q1.suspended then postOnce s2 .lineForward [core, k.val] else s2
      settle s3 r.chain.ctx

/-- The answer of an fld handed to the memory-core context that waits for it. -/
def answerLoad (s : State) (m va : Nat) (bs : List Byte) : State :=
  modCtx s m (fun x => { x with serving := x.serving.map (fun v => { v with
    pending := v.pending.map (fun p => if p.1 = va then (va, bs) else p) }) })

/-- R124, R218: what an ATOMIC record's line does at its channel: the old value, and the new value where it writes. Log 22 (DEDUCED). -/
def atomicAt (s : State) (o : FarOrder) (w6 : Nat) : Nat × Option Nat :=
  let w := 8 * o.len
  let a := farAddr o.pa o.host + o.off
  let old := if o.shadow then leNat (readBytes s o) else memNat s.mem a o.len
  let b := leNat (o.data.take 8)
  let cmp := leNat (o.data.drop 8)
  let op : AmoOp := match bitsAt w6 0 3 with
    | 0 => .add | 1 => .min | 2 => .max | 3 => .and | 4 => .or | 5 => .xor | 6 => .swp | _ => .cas
  (old, if amoWrites op w old cmp then some (amoNew op w old b cmp) else none)

/-- Whether a device line's transfer over its channel's vertical bus is still being resent (R437, R438). -/
def resending (s : State) (ch : Nat) (o : FarOrder) : Bool :=
  !o.host && !o.shadow && (match (getChan s ch).resend with | some (l, _, _) => l == o.pa / 64 | none => false)

/-- Whether an atomic's line holds a poisoned word among its bytes (R426). -/
def atomicPoisoned (s : State) (o : FarOrder) : Bool :=
  !o.shadow && (poisonedIn s (farAddr o.pa o.host + o.off) o.len).isSome

/-- R335: the last line of a host write has committed: its completion goes to the ring. Log 88 (DEDUCED). -/
def hostDone (s : State) (o : FarOrder) : State :=
  match o.party with
  | .host part q =>
    if o.run = 0 && !(s.chans.any (fun p => p.2.orders.any (fun e => e.rid == o.rid && e.party == o.party)))
    then completeLaunch s (some ⟨part, q, o.core, o.near⟩) 0 0 0 else s
  | _ => s

/-- R334: an inbound line that has been read, or an atomic's old value, reaches its record. -/
def arriveLine (s : State) (ch id : Nat) : State :=
  match findOrder s ch id with
  | none => s
  | some o =>
    let kk := chanIx o.k
    let s1 := dropOrder s ch o.id
    match runOf s1 o.core kk with
    | none => s1
    | some (_, q) =>
      if q.id ≠ o.rid then s1
      else
        let s2 := modRec s1 o.core kk (fun q => if q.poisoned then q else { q with data := q.data ++ [(o.line, o.data)] })
        let s3 := postOnce s2 .writePointerAdvance [o.core, kk.val]
        let s4 := lineDone s3 o.core kk o.rid o.line
        if recSfar q && q.done.length + 1 = q.lines.length then postOnce s4 .recordFinishedReading [o.core, kk.val] else s4

/-- R319, R334: an admitted line commits or is read, after the party's earlier lines; a write goes to the array once its transfer has
passed (R437). An atomic on a host page completes its record as its line becomes visible (R335). Names the channel and the order. -/
def lineCommitEv (s : State) : State :=
  let ch := argN s 0
  match findOrder s ch (argN s 1) with
  | none => s
  | some o =>
    let kk := chanIx o.k
    if o.stage ≠ 1 then s
    else if partyBehind s ch o 2 || (resending s ch o && o.kind != .read) then postOnce s .lineCommit [ch, o.id]
    else
      let s0 := taintChan s ch o.tag
      match o.kind with
      | .write => hostDone (sweepWin (lineDone (dropOrder (commitBytes s0 o o.data) ch o.id) o.core kk o.rid o.line) o.win) o
      | .load => sweepWin (dropOrder (answerLoad s0 o.near (o.va + o.off) (readBytes s0 o)) ch o.id) o.win
      | .atomic =>
        if atomicPoisoned s0 o then
          postOnce (modOrder s0 ch o.id (fun o => { o with stage := 2, data := [] })) .farLineArrival [ch, o.id]
        else
        let w6 := match runOf s o.core kk with | some (_, q) => q.words.getD 6 0 | none => 0
        let (old, new) := atomicAt s0 o w6
        let s1 := match new with | some n => commitBytes s0 o (leBytes o.len n) | none => s0
        let s2 := modOrder s1 ch o.id (fun o => { o with stage := 2, data := leBytes 8 (wInt (signedBits old (8 * o.len))).toNat })
        if o.host then tryComplete (advancePtr (arriveLine s2 ch o.id) o.core kk) o.core kk
        else postOnce s2 .farLineArrival [ch, o.id]
      | _ =>
        postOnce (modOrder s0 ch o.id (fun p => { p with stage := 2, data := readBytes s0 o })) .farLineArrival [ch, o.id]

def execLineCommit (s : State) : Host.Outcome State Fault Refusal := happens lineCommitEv s

/-- R334: an inbound line reaches its record; its bytes perform as the write pointer passes them. Names the channel and the
order. -/
def farLineArrivalEv (s : State) : State :=
  let ch := argN s 0
  match findOrder s ch (argN s 1) with
  | none => s
  | some o =>
    if o.stage ≠ 2 then s
    else if resending s ch o then postOnce s .farLineArrival [ch, o.id]
    else arriveLine s ch o.id

def execFarLineArrival (s : State) : Host.Outcome State Fault Refusal := happens farLineArrivalEv s

/- ---------------------------------------------------------------- programs -/

/-- The memory-core contexts of a channel. -/
def memCtxs (ch : Nat) : List Nat := (List.range 16).map (fun i => memBase + ch * 16 + i)

/-- A free context for a partition's order at a channel, on the memory core that serves it (R428): one is free, and the partition
uses fewer than its share (R306). Log 82 (DEDUCED). -/
def freeMemCtx (s : State) (ch part : Nat) : Option Nat :=
  let share := mcShareAt s ch part
  let ms := memCtxs (servedBy s ch)
  let used := (ms.filter (fun m => match (getCtx s m).serving with | some v => v.part == part | none => false)).length
  if used < share then ms.find? (fun m => (getCtx s m).mode == .free && (getCtx s m).serving.isNone) else none

/-- The registers with which a loader or storer starts (R308). -/
def programCtx (q : RunRec) (v : Serving) (entry : Nat) : Ctx :=
  let g : Vector Word 28 := (((Ctx.reset.g.set 4 (w64 (q.words.getD 6 0 / 2 ^ 16))).set 5 (w64 v.len)).set 6 (w64 v.far)).set 7
    (w64 (bit v.store))
  { Ctx.reset with g := g, pc := pc48 entry, pid := BitVec.ofNat 16 v.pid, serving := some v, mode := .running }

/-- R303: the record copy of a context that begins to serve, as the engine took it with OPC. -/
def placeCopy (s : State) (m : Nat) (q : RunRec) (opc : Nat) : State :=
  let s1 := { s with mem := memZero s.mem (stagingBase m) 16384 }
  rawWrite s1 (recCopyBase m) (((q.words.take 7).flatMap (leBytes 8)) ++ leBytes 8 opc)

/-- R308: a PROGRAM order gets a context and its program starts. Names the channel and the order. Log 28 (DEDUCED). -/
def programStartEv (s : State) : State :=
  let ch := argN s 0
  match findOrder s ch (argN s 1) with
  | none => s
  | some o =>
    let kk := chanIx o.k
    if o.kind != .program then s
    else
      match runOf s o.core kk, freeMemCtx s ch o.part with
      | some (r, q), some m =>
        if q.id ≠ o.rid then dropOrder s ch o.id
        else
          let v : Serving := ⟨o.core, o.k, o.part, o.pid, o.tag, recDfar q, o.va, o.near, o.len, 0, [], [], false, none⟩
          let opc := if r.chain.tok.isSome then r.chain.opc else 0
          taintChan (placeCopy (putCtx (dropOrder s ch o.id) m (programCtx q v (loaderOf s o.part q.words))) m q opc) ch o.tag
      | some _, none => postOnce s .programOrderStart [ch, o.id]
      | none, _ => dropOrder s ch o.id

def execProgramOrderStart (s : State) : Host.Outcome State Fault Refusal := happens programStartEv s

/-- A served order ends with a record fault (R309). Log 30 (DEDUCED). -/
def programFault (s : State) (m : Nat) (v : Serving) (cause sub : Nat) : State :=
  freeMem (lineFault s v.core (chanIx v.k) ⟨cause, 0, 0, false, 0, 0, sub, 0⟩) m

/-- R309: the program has retired its last allowed instruction without a halt. Names the context. Log 30 (DEDUCED), 106 (DEDUCED). -/
def programLimitEv (s : State) : State :=
  let m := argN s 0
  match (getCtx s m).serving with
  | none => s
  | some v => if v.halted || v.retired < programLimit v then s else programFault s m v cENGINE 2

def execProgramInstructionLimit (s : State) : Host.Outcome State Fault Refusal := happens programLimitEv s

/-- The end of a program that has halted with its pushes delivered (R309). -/
def programEnd (s : State) (m : Nat) (v : Serving) : State :=
  let k := chanIx v.k
  match runOf s v.core k with
  | none => freeMem s m
  | some (_, q) =>
    if !v.store && recPrefix q < rLen q.words then programFault s m v cENGINE 1
    else postOnce (postOnce s .recordFinishedReading [v.core, k.val]) .transferRecordComplete [v.core, k.val]

/-- Whether pushes have delivered every byte of a loader's record that lies in a run's unit of the slice (R305); elsewhere no byte waits. -/
def unitPushed (c : Nat) (q : RunRec) (r : Nat × List Byte) : Bool :=
  !sliceByte c r.1 || (List.range 16).all (fun i =>
    let a := r.1 / 16 * 16 + i
    a < firstNear q.words || firstNear q.words + rLen q.words ≤ a ||
      q.pushes.any (fun p => firstNear q.words + p.1 ≤ a && a < firstNear q.words + p.1 + p.2))

/-- A push's bytes reach a loader's record: those of a unit of the slice that is not whole wait (R305). -/
def takePush (s : State) (core : Nat) (k : Fin 4) (c off : Nat) (bs : List Byte) : State :=
  match runOf s core k with
  | none => s
  | some (_, q) =>
    let q1 : RunRec := { q with pushes := q.pushes ++ [(off, bs.length)] }
    let st := (q.tail ++ stageRuns c (firstNear q.words + off) bs).partition (unitPushed c q1)
    modRec (st.1.foldl (fun s r => chainWrite s core k c r.1 r.2) s) core k (fun _ => { q1 with tail := st.2 })

/-- R139: the oldest push reaches the near destination; the end of a program follows its last. Names the context. -/
def pushDeliveryEv (s : State) : State :=
  let m := argN s 0
  match (getCtx s m).serving with
  | none => s
  | some v =>
    let k := chanIx v.k
    match v.pushed with
    | [] => if v.halted then programEnd s m v else s
    | (off, bs) :: rest =>
      let s1 := modCtx s m (fun x => { x with serving := some { v with pushed := rest } })
      match runOf s1 v.core k with
      | none => s1
      | some (r, _) =>
        let s3 := takePush s1 v.core k r.chain.ctx off bs
        let s4 := postOnce s3 .writePointerAdvance [v.core, k.val]
        if rest.isEmpty && !v.halted then s4 else postOnce s4 .pushDelivery [m]

def execPushDelivery (s : State) : Host.Outcome State Fault Refusal := happens pushDeliveryEv s

/-- The far address of an fld or fst (R138). -/
def eaF (base : Word) (o n : Nat) : Nat := effAddr base (sx 12 o * n)

/-- A far trap of a memory-core context. -/
def farTrap (cause ea : Nat) : Trap := ⟨cause, ea, true, if cause = cUNCORRECTABLE then 5 else 0, 0, none⟩

/-- R138 steps 1 and 2. -/
def farCheck (ea n : Nat) : Option Trap :=
  if 2 ^ 48 ≤ ea then some (farTrap cADDRESS ea) else if ea % n ≠ 0 then some (farTrap cALIGN ea) else none

/-- Partition, PID and what a memory-core context serves; outside an order its own. Log 82 (DEDUCED). -/
def servedPart (s : State) (m : Nat) : Nat := (partOf s m).getD 0

/-- The party of an fld or fst (R318). Log 82 (DEDUCED). -/
def servedParty (x : Ctx) (m : Nat) : Party := match x.serving with | some v => .copy v.core v.k | none => .mem m

/-- The order of an fld or fst. -/
def memOrder (s : State) (m id : Nat) (kind : OrderKind) (ea n pa : Nat) (host : Bool) (data : List Byte) : FarOrder :=
  let x := getCtx s m
  let v := x.serving
  let core := (v.map Serving.core).getD 0
  let k := (v.map Serving.k).getD 0
  let rid := match runOf s core (chanIx k) with | some (_, q) => if v.isSome then q.id else 0 | none => 0
  let owner := (ownerOf s m).getD m
  { id := id, party := servedParty x m, kind := kind, part := servedPart s m, pid := pidOf s m, rid := rid, core := core, k := k
    line := 0, va := ea / 64 * 64, pa := pa / 64 * 64, host := host, off := ea % 64, len := n, near := m, data := data
    tag := (v.map Serving.tag).getD 0, run := if v.isSome then (getCtx s owner).run else 0
    shadow := v.isSome && shadowLine s owner (ea / 64 * 64), stage := 0, win := id }

/-- What a far access of a program means for the task it serves (R390). -/
def servedAccess (s : State) (m va : Nat) (write : Bool) : State × Bool :=
  match ownerOf s m with
  | some o => transitAccess s o va write
  | none => (s, true)

/-- An fld's line sent to its channel; the instruction waits for it. -/
def sendLoad (s : State) (m ea n : Nat) : Res Out :=
  match translate s (dieOf m) (servedPart s m) (pidOf s m) ea .read with
  | .error e => .trap (farTrap e ea)
  | .ok (s1, pa, host) =>
    let (s2, go) := servedAccess s1 m (ea / 64 * 64) false
    if !go then .wait s2
    else
      let (id, s3) := fresh s2
      let s4 := modCtx s3 m (fun x => { x with serving := x.serving.map (fun v => { v with pending := [(ea, [])] }) })
      .wait (addOrder s4 (lineChan (dieOf m) pa host) (memOrder s3 m id .load ea n pa host []))

/-- The effect of fld (R138): it waits until its line has been read. A context that serves no order reads at once. -/
def fldBody (z : LdSize) (off : Nat) : Body := fun ws s =>
  let m := s.cur
  let n := z.width.bytes
  let ea := eaF (src ws 0) off n
  match farCheck ea n with
  | some t => .trap t
  | none =>
    match (cx s).serving with
    | none =>
      (match farPiece s (dieOf m) (servedPart s m) (pidOf s m) ea n .read with
       | .error e => .trap (farTrap e ea)
       | .ok (s1, bs) => result s1 (extendLoad z bs))
    | some v =>
      match v.pending.find? (fun p => p.1 == ea) with
      | none => sendLoad s m ea n
      | some (_, []) =>
        if s.chans.any (fun c => c.2.orders.any (fun o => o.kind == .load && o.near == m)) then .wait s
        else .trap ⟨cUNCORRECTABLE, ea, true, 5, 0, none⟩
      | some (_, bs) =>
        if bs.length < n then .trap ⟨cUNCORRECTABLE, ea + bs.length, true, 5, 0, none⟩
        else result (setCur s (fun x => { x with serving := some { v with pending := [] } })) (extendLoad z bs)

def execFld (d b : Reg) (z : LdSize) (o : Fin 4096) (s : State) : Host.Outcome State Fault Refusal :=
  issue { i := .fld d b z o, kind := .mem, srcs := [b], dst := some d } (fldBody z o.val) s

/-- The effect of fst (R138): a far write order of one access; to host memory it is visible when it retires (R335). -/
def fstBody (z : Width) (off : Nat) : Body := fun ws s =>
  let m := s.cur
  let n := z.bytes
  let ea := eaF (src ws 0) off n
  match farCheck ea n with
  | some t => .trap t
  | none =>
    match translate s (dieOf m) (servedPart s m) (pidOf s m) ea .write with
    | .error e => .trap (farTrap e ea)
    | .ok (s0, pa0, host0) =>
      match routeLine s0 ((ownerOf s0 m).getD m) (ea / 64 * 64) pa0 host0 (cx s).serving.isSome with
      | .error s1 => .wait s1
      | .ok (s1, pa, host) =>
      let (s2, go) := servedAccess s1 m (ea / 64 * 64) true
      if !go then .ok { st := s2 }
      else
        let (id, s3) := fresh s2
        let o := memOrder s3 m id .write ea n pa host (regBytes z (src ws 1))
        if host then .ok { st := taintChan (commitBytes s3 o o.data) (lineChan (dieOf m) pa host) o.tag }
        else
        let s4 := match (getCtx s3 m).serving with
          | some v => modRec s3 v.core (chanIx v.k) (fun q => { q with fwd := q.fwd + 1 })
          | none => s3
        .ok { st := addOrder s4 (lineChan (dieOf m) pa host) o }

def execFst (d b : Reg) (z : Width) (o : Fin 4096) (s : State) : Host.Outcome State Fault Refusal :=
  issue { i := .fst d b z o, kind := .mem, srcs := [b, d] } (fstBody z o.val) s

/-- The checks of push and pull (R139, R308), `store` the direction of the order they belong to. Log 30 (DEDUCED). -/
def orderCheck (x : Ctx) (a b n : Nat) (store : Bool) : Option Trap :=
  match x.serving with
  | none => some illegal11
  | some v =>
    if n < 8 || 4096 < n || n % 8 ≠ 0 || v.store != store then some illegal11
    else if v.len < a + n then some (Trap.at cADDRESS a)
    else if 0x4000 < b + n then some (Trap.at cADDRESS b)
    else if a % 8 ≠ 0 then some (Trap.at cALIGN a)
    else if b % 8 ≠ 0 then some (Trap.at cALIGN b)
    else none

/-- The effect of push: staged bytes are accepted for the order's destination. -/
def pushBody : Body := fun ws s =>
  let m := s.cur
  let a := (src ws 0).toNat
  let b := (src ws 1).toNat
  let n := (src ws 2).toNat
  match orderCheck (cx s) a b n false with
  | some t => .trap t
  | none =>
    match poisonedIn s (stagingBase m + b) n with
    | some w => .trap ⟨cUNCORRECTABLE, w * 8 - stagingBase m, false, 1, 1, none⟩
    | none =>
    let p := (a, memRead s.mem (stagingBase m + b) n)
    let s1 := setCur s (fun x => { x with serving := x.serving.map (fun v => { v with pushed := v.pushed ++ [p] }) })
    .ok { st := postOnce s1 .pushDelivery [m] }

def execPush (n a b : Reg) (s : State) : Host.Outcome State Fault Refusal :=
  issue { i := .push n a b, kind := .mem, srcs := [a, b, n] } pushBody s

/-- The effect of pull: inbound bytes of the order's near source into staging. -/
def pullBody : Body := fun ws s =>
  let m := s.cur
  let a := (src ws 0).toNat
  let b := (src ws 1).toNat
  let n := (src ws 2).toNat
  match orderCheck (cx s) a b n true, (cx s).serving with
  | some t, _ => .trap t
  | none, none => .trap illegal11
  | none, some v =>
    match runOf s v.core (chanIx v.k) with
    | none => .ok { st := s }
    | some (r, _) =>
      let p := phys r.chain.ctx (v.near + a)
      match poisonTrap s r.chain.ctx (v.near + a) n with
      | some t => .trap { t with spec1 := 0 }
      | none => .ok { st := clearWords (rawWrite s (stagingBase m + b) (engRead s r.chain.view p n)) (stagingBase m + b) n }

def execPull (n a b : Reg) (s : State) : Host.Outcome State Fault Refusal :=
  issue { i := .pull n a b, kind := .mem, srcs := [a, b, n] } pullBody s

end Sys2Proof.Machine
end

