-- ==== Sys2Proof/Machine/Tasks.lean ====
section
/-! DEFINITION. Tasks (R233, R284 to R295, R343 to R346): records, cards and declarations, the admission test, the decisions
of the Drover, dependence counters, and task.spawn and task.card. -/

namespace Sys2Proof.Machine

/- ---------------------------------------------------------------- records -/

/-- The fields of record word +0x10 (R284). -/
def wWait (w : Nat) : Nat := bitsAt w 48 16
def wCount (w : Nat) : Nat := bitsAt w 40 8
def wLen (w : Nat) : Nat := bitsAt w 29 11 * 128
def wBase (w : Nat) : Nat := bitsAt w 18 11 * 128
def wFrame (w : Nat) : Nat := bitsAt w 0 18

/-- The fields of record word +0x18 (R284). -/
def pFlw (w : Nat) : Nat := bitsAt w 36 2
def pUnv (w : Nat) : Bool := bitAt w 35
def pTelig (w : Nat) : Bool := bitAt w 34
def pPin (w : Nat) : Bool := bitAt w 33
def pRetain (w : Nat) : Bool := bitAt w 32
def pCln (w : Nat) : Nat := bitsAt w 16 9
def pCl0 (w : Nat) : Nat := bitsAt w 8 8
def pCore (w : Nat) : Nat := bitsAt w 0 8

/-- The number of contexts of a flock-width code (R284); 1 outside a flock. -/
def flockWidth (flw : Nat) : Nat := 2 ^ flw

/-- Whether a core mask holds a whole aligned group of a width (R285). -/
def groupIn (mask w : Nat) : Bool :=
  (List.range (8 / w)).any (fun g => (List.range w).all (fun i => bitAt mask (g * w + i)))

/-- R285 for a record's WIN and PLACE words. -/
def windowWordsOk (win place : Nat) : Bool :=
  wLen win != 0 && wBase win + wLen win ≤ 1536 * 128 && wFrame win % 8 == 0 &&
    wBase win ≤ wFrame win && wFrame win < wBase win + wLen win &&
    pCln place != 0 && pCl0 place + pCln place ≤ 256 && pCore place != 0 &&
    (pFlw place == 0 || (groupIn (pCore place) (flockWidth (pFlw place)) && !pTelig place)) &&
    bitsAt place 38 26 == 0 && bitsAt place 25 7 == 0

/-- R285 for the four words of a continuation record. -/
def recordOk (w : List Nat) : Bool :=
  let w0 := w.getD 0 0
  let w2 := w.getD 2 0
  w0 % 4 == 0 && windowWordsOk w2 (w.getD 3 0) &&
    (wWait w2 != 0 || wCount w2 == 0) && (wWait w2 == 0 || wWait w2 != bitsAt w0 48 16)

/-- The ranges of a declaration's eight words (R389). -/
def declOf (w : List Nat) : List DeclRange :=
  (List.range 4).map (fun n => ⟨bitsAt (w.getD (2 * n) 0) 0 48, bitAt (w.getD (2 * n + 1) 0) 32, bitsAt (w.getD (2 * n + 1) 0) 0 32⟩)

/-- Whether two used ranges overlap. -/
def rangesMeet (a b : DeclRange) : Bool := a.len != 0 && b.len != 0 && a.base < b.base + b.len && b.base < a.base + a.len

/-- R389: a legal declaration. -/
def declOk (w : List Nat) : Bool :=
  let rs := declOf w
  (List.range 4).all (fun n => bitsAt (w.getD (2 * n) 0) 48 16 == 0 && bitsAt (w.getD (2 * n + 1) 0) 33 31 == 0) &&
    rs.all (fun r => r.base + r.len ≤ 2 ^ 48) && rs.any (fun r => r.out && r.len != 0) &&
    (List.range 4).all (fun i => (List.range 4).all (fun j =>
      i == j || (match rs[i]?, rs[j]? with
        | some a, some b => !(a.out && rangesMeet a b)
        | _, _ => true)))

/- ---------------------------------------------------------------- cores and demand -/

/-- Whether a core is usable for a partition (R286): its own, and neither sealed nor retired. -/
def usableCore (s : State) (part core : Nat) : Bool :=
  (getCluster s (clusterOfCore core)).part == some part && !coreSealed s core

/-- The clusters of a partition on a die. -/
def partClusters (s : State) (part die : Nat) : List Nat :=
  match getPart? s part with
  | none => []
  | some p => p.cfg.clusters.filter (fun c => c / 256 == die)

/-- The usable cores of a partition in a placement range (R286): clusters PCL0 to PCL0 + PCLN − 1, cores of the mask. -/
def rangeCores (s : State) (part die pcl0 pcln mask : Nat) : List Nat :=
  ((partClusters s part die).filter (fun c => pcl0 ≤ c % 256 && c % 256 < pcl0 + pcln)).flatMap (fun c =>
    (coresOf c).filter (fun core => bitAt mask (core % 8) && usableCore s part core))

/-- The usable cores of an entry's range. -/
def entCores (s : State) (die : Nat) (e : Entry) : List Nat := rangeCores s e.part die e.pcl0 e.pcln e.pcore

/-- The aligned groups of a width all of whose cores are listed, each by its first core (R298). -/
def groupsOf (cores : List Nat) (w : Nat) : List Nat :=
  cores.filter (fun c => c % w == 0 && (List.range w).all (fun i => cores.contains (c + i)))

/-- The usable cores of a partition on a die. -/
def partCores (s : State) (part die : Nat) : List Nat := rangeCores s part die 0 256 255

/-- What remains of a context's budget. -/
def remCtx (x : Ctx) : Nat := x.budget.toNat - x.charge.toNat

/-- The remaining demand of an entry (R345). -/
def remaining (s : State) (e : Entry) : Nat :=
  match e.card with
  | some k => k.budRec * k.remaining
  | none =>
    if e.state == .waiting then 0
    else if e.state == .placed || e.state == .asked || e.state == .saving then
      e.members.foldl (fun n c => n + remCtx (getCtx s c)) 0
    else if e.saved.isEmpty then flockWidth e.flw * e.budget
    else e.saved.foldl (fun n v => n + remCtx v.ctx) 0

/-- The deadline of an entry: that of its context where it has one, which a supervisor can move (R342). Log 61 (DEDUCED). -/
def entDeadline (s : State) (e : Entry) : Nat :=
  match e.members, e.saved with
  | c :: _, _ => (getCtx s c).deadline.toNat
  | [], v :: _ => v.ctx.deadline.toNat
  | [], [] => e.deadline

/-- Whether an entry holds a place of the ready table (R294): a card does until its last chunk is dealt. Log 55 (DEDUCED). -/
def holdsPlace (e : Entry) : Bool := match e.card with | some k => k.remaining != 0 | none => true

/-- A candidate or entry of the admission test: deadline, order and demand. -/
structure Demand where
  deadline : Nat
  order : Nat
  rem : Nat
  deriving DecidableEq, Repr

/-- Insertion in deadline order, equal deadlines in order of admission. -/
def insDemand (d : Demand) : List Demand → List Demand
  | [] => [d]
  | e :: t => if d.deadline < e.deadline || (d.deadline == e.deadline && d.order < e.order) then d :: e :: t else e :: insDemand d t

/-- The demands of a partition on a die in deadline order, without the entry of one order. Log 55 (DEDUCED). -/
def demands (s : State) (die part skip : Nat) : List Demand :=
  ((getDie s die).entries.filter (fun e => e.part == part && e.order != skip && holdsPlace e)).foldl
    (fun l e => insDemand ⟨entDeadline s e, e.order, remaining s e⟩ l) []

/-- The sums of R345: `floor` the deadline from which sums are tested. Log 68 (DEDUCED). -/
def sumsFail (now k floor : Nat) : List Demand → Nat → Bool
  | [], _ => false
  | d :: t, sum =>
    if d.deadline ≤ now then sumsFail now k floor t sum
    else
      let sum1 := sum + d.rem
      let same := match t with | e :: _ => e.deadline == d.deadline | [] => false
      (!same && floor ≤ d.deadline && k * (d.deadline - now) < sum1) || sumsFail now k floor t sum1

/-- R345: the code of the test for a candidate. Log 57 (DEDUCED). -/
def admitTest (l : List Demand) (cand : Demand) (k now : Nat) : Nat :=
  if k = 0 then 5
  else if cand.deadline ≤ now + 1024 then 3
  else if sumsFail now k cand.deadline (insDemand cand l) 0 then 1
  else 0

/-- The guaranteed minimum of a partition in force on a die (R344, R352). -/
def minimumOf (p : PartSt) (die : Nat) : Nat := (p.minG.get? die).getD (p.cfg.onDie die).minG

/-- K of R344 for a range on a die. Log 57 (DEDUCED). -/
def capacity (s : State) (part die : Nat) (cores : List Nat) : Nat :=
  match getPart? s part with
  | none => 0
  | some p => min (minimumOf p die) cores.length

/- ---------------------------------------------------------------- counters -/

/-- Whether a counter field lies outside a partition's range on a die (R287); 0 is none. -/
def ctrOut (s : State) (die part n : Nat) : Bool :=
  n != 0 && (match getPart? s part with
    | none => true
    | some p => !p.cfg.ownsCtr die n)

/-- A task becomes ready (R288, R356): it may be placed. -/
def makeReady (s : State) (die tag : Nat) (v : View) : State :=
  match entByTag s die tag with
  | none => s
  | some e => postOnce (modEnt s die e.order (fun e => { e with state := .ready, startView := mergeView e.startView v }))
      .taskPlacement [die, tag]

/-- R288, spawn: WCOUNT is added and the task is ready or parked. -/
def waitOn (s : State) (die tag n count : Nat) : State :=
  if n = 0 then makeReady s die tag []
  else
    let k := getCtr s die n
    let k0 : Counter := if k.value = 0 && k.parked.isEmpty && count != 0 then { k with rev := false, abt := false, lost := false } else k
    let v := k0.value + count
    if v = 0 then makeReady (putCtr s die n { k0 with value := v }) die tag k0.view
    else putCtr s die n { k0 with value := v, parked := k0.parked ++ [tag] }

/-- R288, signal. Log 44 (DEDUCED). -/
def counterStep (k : Counter) (g : Signal) : Counter :=
  if k.value = -(2 ^ 23) then { k with lost := true }
  else { k with value := k.value - 1, abt := k.abt || g.abt, rev := k.rev || g.rev, view := mergeView k.view g.view }

/-- R288: the oldest signal on its way to a counter arrives. Names the die and the counter. Log 44 (DEDUCED). -/
def counterSignalEv (s : State) : State :=
  let die := argN s 0
  let n := argN s 1
  match (getDie s die).signals.find? (fun g => g.ctr == n) with
  | none => s
  | some g =>
    let s1 := modDie s die (fun d => { d with signals := d.signals.erase g })
    let k := counterStep (getCtr s1 die n) g
    if k.value = 0 then
      k.parked.foldl (fun s t => makeReady s die t k.view) (putCtr s1 die n { k with parked := [] })
    else putCtr s1 die n k

def execCounterSignal (s : State) : Host.Outcome State Fault Refusal := happens counterSignalEv s

/- ---------------------------------------------------------------- entries -/

/-- The tag of the next task of a die (R286): the sequence skips 0 and values of live tasks. Log 79 (DEDUCED). -/
def nextTag : Nat → List Nat → Nat → Nat
  | 0, _, q => q
  | n + 1, live, q => if q % 2 ^ 29 = 0 || live.contains (q % 2 ^ 29) then nextTag n live (q + 1) else q % 2 ^ 29

/-- A new tag for a task of a partition, and the state after the sequence has advanced. Log 79 (DEDUCED). -/
def takeTag (s : State) (die part : Nat) : Nat × State :=
  let d := getDie s die
  let live := (d.entries.filter (fun e => e.card.isNone)).map (fun e => e.tag % 2 ^ 29)
  let q := nextTag (live.length + 2) live d.tagSeq
  (die * 2 ^ 29 + q, modDie s die (fun d => { d with tagSeq := q + 1, tagParts := d.tagParts.put (die * 2 ^ 29 + q) part }))

/-- An entry with a record's WIN and PLACE words and nothing else. -/
def blankEntry (part pid graph win place : Nat) : Entry :=
  { tag := 0, part := part, pid := pid, graph := graph, state := .parked, order := 0, counter := 0, wait := 0, code := 0
    frame := wFrame win, wbase := wBase win, wlen := wLen win, budget := 0, slack := 0, deadline := 0
    flw := pFlw place, runv := pUnv place, unv := pUnv place, telig := pTelig place, pin := pPin place, retain := pRetain place
    pcl0 := pCl0 place, pcln := pCln place, pcore := pCore place, cluster := none, members := [], g2 := wFrame win, g4 := 0, g5 := 0
    card := none, parent := none, argSrc := 0, argLen := 0, launch := none, decl := [], transit := Transit.none, saved := []
    paged := false, pageAsked := false, missed := none, restarted := false, rootReq := none, victimFor := none, heldFor := [], ecnt := 0
    startView := [] }

/-- An entry put into the table at its place in the order of admission. -/
def addEntry (s : State) (die : Nat) (e : Entry) : State :=
  modDie s die (fun d => { d with entries := d.entries ++ [{ e with order := d.nextOrder }], nextOrder := d.nextOrder + 1 })

/-- R388: the test of selection for a tag and a fraction. -/
def isSelected (tag frac : Nat) : Bool := tag * 0x9E3779B1 % 2 ^ 32 / 2 ^ 16 < frac

/-- The 64-byte lines of a range. -/
def rangeLines64 (r : DeclRange) : List Nat :=
  if r.len = 0 then [] else (List.range ((r.base + r.len - 1) / 64 - r.base / 64 + 1)).map (fun i => (r.base / 64 + i) * 64)

/-- R392: the retention locks of the input ranges, as physical lines, with whether one lies on a host page; and the state after
the translations. -/
def lockLines (s : State) (die part pid : Nat) : List Nat → State × List Nat × Bool
  | [] => (s, [], false)
  | va :: t =>
    match translate s die part pid va .read with
    | .error _ => lockLines s die part pid t
    | .ok (s1, pa, host) =>
      let (s2, l, h) := lockLines s1 die part pid t
      if host then (s2, l, true) else (s2, pa / 64 :: l, h)

/-- R388, R392: an admitted eligible task is selected or not; a selected one gets its locks, or is abandoned at once when an
input line lies on a host page or its record marks it unverifiable. -/
def transitAdmit (s : State) (die : Nat) (e : Entry) : State :=
  match getPart? s e.part with
  | none => s
  | some p =>
    if !(e.telig && isSelected e.tag p.frac) then s
    else
      let lines := (e.decl.filter (fun r => !r.out)).flatMap rangeLines64
      let (s1, locks, host) := lockLines s die e.part e.pid lines
      let tr : Transit := { Transit.none with phase := 1, conf := p.conf, frac := p.frac, admitted := (getDie s die).counter }
      if host || e.unv then countUnverified (modEnt s1 die e.order (fun f => { f with transit := { tr with phase := 5 } })) e.part
      else modEnt s1 die e.order (fun f => { f with transit := { tr with locks := locks } })

/-- R286: an admitted task gets its tag and deadline, its entry, and its wait. -/
def admitTask (s : State) (die : Nat) (e : Entry) (wcount : Nat) : State × Nat :=
  let (tag, s1) := takeTag s die e.part
  let now := (getDie s1 die).counter
  let e1 := { e with tag := tag, deadline := now + e.slack, order := (getDie s1 die).nextOrder }
  let s2 := transitAdmit (addEntry s1 die e1) die e1
  (waitOn s2 die tag e1.wait wcount, tag)

/-- The places a die's table and a partition's quota hold (R294, R343). Log 55 (DEDUCED). -/
def tableFull (s : State) (die : Nat) : Bool := 4096 ≤ ((getDie s die).entries.filter holdsPlace).length
def quotaFull (s : State) (die part : Nat) : Bool :=
  match getPart? s part with
  | none => true
  | some p => (p.cfg.onDie die).entq ≤ ((getDie s die).entries.filter (fun e => e.part == part && holdsPlace e)).length

/-- R285: whether the range of an entry holds a usable core, or for a flock a usable group. -/
def rangeUsable (s : State) (die : Nat) (e : Entry) : Bool :=
  !(groupsOf (entCores s die e) (flockWidth e.flw)).isEmpty

/-- R343 for a task: `bad` a launched record that breaks R285 or R389. Log 57 (DEDUCED), 75 (DEDUCED). -/
def decideTask (s : State) (die : Nat) (e : Entry) (wcount : Nat) (bad : Bool) : Nat :=
  let now := (getDie s die).counter
  if e.budget = 0 || e.slack = 0 then 4
  else if ctrOut s die e.part e.counter || ctrOut s die e.part e.wait || quotaFull s die e.part then 8
  else if bad || !rangeUsable s die e then 7
  else if tableFull s die || (e.wait != 0 && (2 ^ 23 - 1 : Int) < (getCtr s die e.wait).value + wcount) then 2
  else
    admitTest (demands s die e.part (2 ^ 64)) ⟨now + e.slack, 2 ^ 64, flockWidth e.flw * e.budget⟩
      (capacity s e.part die (entCores s die e)) now

/-- The entry of a continuation record's words (R284). -/
def recordEntry (part pid graph : Nat) (w : List Nat) : Entry :=
  let w0 := w.getD 0 0
  let w1 := w.getD 1 0
  { blankEntry part pid graph (w.getD 2 0) (w.getD 3 0) with
    counter := bitsAt w0 48 16, code := bitsAt w0 0 48, budget := bitsAt w1 32 32, slack := bitsAt w1 0 32
    wait := wWait (w.getD 2 0) }

/-- The entry of a card's words (R291, R292), with what stands for a zero WIN or PLACE. -/
def cardEntry (part pid graph win place id : Nat) (w : List Nat) : Entry :=
  let w0 := w.getD 0 0
  let w1 := w.getD 1 0
  let w2 := w.getD 2 0
  let w3 := w.getD 3 0
  { blankEntry part pid graph (if w.getD 4 0 = 0 then win else w.getD 4 0) (if w.getD 5 0 = 0 then place else w.getD 5 0) with
    counter := bitsAt w0 48 16, code := bitsAt w0 0 48, state := .ready, slack := bitsAt w3 0 32
    card := some ⟨bitsAt w1 0 48, bitsAt w1 48 16, bitsAt w2 32 16, bitsAt w3 32 32, 0, bitsAt w2 0 32, 0, id, []⟩ }

/-- R291, R292: whether a card's words are in order, its WIN and PLACE as they stand for zero ones included. -/
def cardOk (w : List Nat) (e : Entry) : Bool :=
  let w1 := w.getD 1 0
  let w2 := w.getD 2 0
  let rs := bitsAt w1 48 16
  let win := if w.getD 4 0 = 0 then e.frame + e.wbase / 128 * 2 ^ 18 + e.wlen / 128 * 2 ^ 29 else w.getD 4 0
  let place := if w.getD 5 0 = 0 then
      e.pcore + e.pcl0 * 2 ^ 8 + e.pcln * 2 ^ 16 + bit e.telig * 2 ^ 34 + e.flw * 2 ^ 36
    else w.getD 5 0
  w.getD 0 0 % 4 == 0 && 8 ≤ rs && rs ≤ 4096 && rs % 8 == 0 && w1 % 8 == 0 && bitsAt w2 48 16 == 0 &&
    bitsAt w2 32 16 != 0 && bitsAt w2 0 32 != 0 && w.getD 6 0 == 0 && w.getD 7 0 == 0 &&
    bitsAt win 40 24 == 0 && !pRetain place && windowWordsOk win place

/-- CAPREC of a card (R292). -/
def capRec (e : Entry) (rsize : Nat) : Nat := (e.wbase + e.wlen - e.frame) / rsize

/-- R292, R343 for a card. -/
def decideCard (s : State) (die : Nat) (e : Entry) (k : CardSt) (bad : Bool) : Nat :=
  let now := (getDie s die).counter
  if k.budRec = 0 || e.slack = 0 then 4
  else if ctrOut s die e.part e.counter || quotaFull s die e.part then 8
  else if bad || !rangeUsable s die e then 7
  else if tableFull s die then 2
  else if capRec e k.rsize < k.minChunk then 5
  else
    admitTest (demands s die e.part (2 ^ 64)) ⟨now + e.slack * k.remaining, 2 ^ 64, k.budRec * k.remaining⟩
      (capacity s e.part die (entCores s die e)) now

/-- R292: an admitted card's entry; its chunks are dealt from then on. -/
def admitCard (s : State) (die : Nat) (e : Entry) (k : CardSt) : State :=
  let now := (getDie s die).counter
  postOnce (addEntry s die { e with deadline := now + e.slack * k.remaining }) .chunkDeal [die, k.id]

/- ---------------------------------------------------------------- decisions -/

/-- A request joins those of its die. Log 54 (DEDUCED). -/
def addReq (s : State) (die : Nat) (r : DReq) : State :=
  postDecision (modDie s die (fun d => { d with reqs := d.reqs ++ [r] })) die

/-- The oldest request leaves and the next is due. -/
def dropReq (s : State) (die : Nat) : State :=
  postDecision (modDie s die (fun d => { d with reqs := d.reqs.tail })) die

/-- R233: the result word at RES, and the token's VIS drops. -/
def writeRes (s : State) (r : DReq) (code tag : Nat) : State :=
  let (s1, v) := engWriteNear s r.view r.ctx r.res (leBytes 8 (code + tag * 2 ^ 32))
  settle (tokenDrop (addThread s1 r.ctx 3 r.tok v) r.ctx (tokIx r.tok) 0 1 none) r.ctx

/-- R285, R286, R343: the oldest request, a spawn, is decided. Names the die. -/
def spawnDecisionEv (s : State) : State :=
  let die := argN s 0
  match (getDie s die).reqs with
  | [] => s
  | r :: _ =>
    if r.kind ≠ 0 then s
    else
      let e := { recordEntry r.part r.pid r.graph r.words with decl := r.decl, startView := r.view }
      let n := wCount (r.words.getD 2 0)
      let code := decideTask s die e n false
      let (s1, tag) := if code = 0 then admitTask s die e n else (s, 0)
      dropReq (writeRes s1 r code tag) die

def execSpawnDecision (s : State) : Host.Outcome State Fault Refusal := happens spawnDecisionEv s

/-- A card read that fails: the fault is held on the token of its task.card (R233, R224); a poisoned word is contained (R432).
Log 29 (DEDUCED), 131 (DESIGN CHOICE). -/
def cardFault (s : State) (die : Nat) (r : DReq) (cause addr sub : Nat) : State :=
  if cause = cUNCORRECTABLE then containCtx (dropReq s die) r.ctx 5 addr true false
  else
  let s1 := holdTok s r.ctx (tokIx r.tok) ⟨cause, r.opc, addr, true, 0, 0, sub, 0⟩
  dropReq (settle (tokenDrop s1 r.ctx (tokIx r.tok) 0 1 none) r.ctx) die

/-- What a card's far words read as (R233, R306): the words, the need to wait for a context, or the fault with its subcode. -/
inductive CardRead where
  | words (s : State) (w : List Nat)
  | wait
  | fault (cause addr sub : Nat)

/-- Reading `n` 64-byte lines of a card from `va` through memory cores, which serve the task of a tag (R233, R306, R319, R429).
Log 29 (DEDUCED). -/
def readCard (s : State) (die part pid tag va : Nat) : Nat → CardRead
  | 0 => .words s []
  | n + 1 =>
    match translate s die part pid va .read with
    | .error c => .fault c (if c = cUNCORRECTABLE then (poisonedFar s die part pid va 64 .read).getD va else va) 0
    | .ok (s1, pa, host) =>
      let ch := lineChan die pa host
      let bad := poisonedIn s1 (farAddr pa host) 64
      if mcShareAt s1 ch part = 0 then .fault cENGINE va 3
      else if bad.isSome then .fault cUNCORRECTABLE (va + bad.getD 0 * 8 - farAddr pa host) 0
      else if !host && (getChan s1 ch).win.any (fun e => e.lines.contains (pa / 64)) then .fault cCONFLICT va 0
      else if (freeMemCtx s1 ch part).isNone then .wait
      else
        match readCard (taintChan s1 ch tag) die part pid tag (va + 64) n with
        | .words s2 w => .words s2 ((List.range 8).map (fun i => memNat s1.mem (farAddr pa host + 8 * i) 8) ++ w)
        | x => x

/-- R292, R343: the oldest request, a card, is read and decided. Names the die. -/
def cardDecisionEv (s : State) : State :=
  let die := argN s 0
  match (getDie s die).reqs with
  | [] => s
  | r :: _ =>
    if r.kind ≠ 1 then s
    else
      match readCard s die r.part r.pid (getCtx s r.ctx).tag.toNat r.far 1 with
      | .wait => postOnce s .cardDecision [die]
      | .fault c a sub => cardFault s die r c a sub
      | .words s1 w =>
        let (id, s2) := fresh s1
        let e := { cardEntry r.part r.pid r.graph r.win r.place id w with startView := r.view }
        match (if e.telig then readCard s2 die r.part r.pid (getCtx s r.ctx).tag.toNat (r.far + 64) 1 else .words s2 []) with
        | .wait => postOnce s .cardDecision [die]
        | .fault c a sub => cardFault s die r c a sub
        | .words s3 dw =>
          match e.card with
          | none => s
          | some k =>
            let code := decideCard s3 die e k (!cardOk w e || (e.telig && !declOk dw))
            let s4 := if code = 0 then admitCard s3 die { e with decl := if e.telig then declOf dw else [] } k else s3
            dropReq (writeRes s4 r code 0) die

def execCardDecision (s : State) : Host.Outcome State Fault Refusal := happens cardDecisionEv s

/-- R244, R345: the oldest request, a budx, is decided. Names the die. Log 20 (DEDUCED). -/
def budxDecisionEv (s : State) : State :=
  let die := argN s 0
  match (getDie s die).reqs with
  | [] => s
  | r :: _ =>
    if r.kind ≠ 2 then s
    else
      let now := (getDie s die).counter
      let code := match entOfCtx s r.ctx with
        | none => 5
        | some e =>
          admitTest (demands s die r.part e.order) ⟨entDeadline s e, e.order, remaining s e + r.n⟩
            (capacity s r.part die (entCores s die e)) now
      dropReq (settle (modCtx s r.ctx (fun x => { x with budx := some (r.n, some code) })) r.ctx) die

def execBudgetExtensionDecision (s : State) : Host.Outcome State Fault Refusal := happens budxDecisionEv s

/-- R343, R452, R453: the oldest request, a launch command, is decided. Names the die. -/
def launchDecisionEv (s : State) : State :=
  let die := argN s 0
  match (getDie s die).reqs with
  | [] => s
  | r :: _ =>
    if r.kind ≠ 3 then s
    else if r.n = 1 then
      let e := { recordEntry r.part r.pid r.graph r.words with decl := r.decl, launch := r.launch }
      let n := wCount (r.words.getD 2 0)
      let code := decideTask s die e n (!recordOk r.words || (e.telig && !r.declOk))
      let s1 := if code = 0 then (admitTask s die e n).1 else completeLaunch s r.launch 0 code 0
      dropReq s1 die
    else
      let (id, s0) := fresh s
      let e := { cardEntry r.part r.pid r.graph r.win r.place id r.words with decl := r.decl, launch := r.launch }
      match e.card with
      | none => s
      | some k =>
        let code := decideCard s0 die e k (!cardOk r.words e || (e.telig && !r.declOk))
        let s1 := if code = 0 then admitCard s0 die e k else completeLaunch s0 r.launch 0 code 0
        dropReq s1 die

def execLaunchDecision (s : State) : Host.Outcome State Fault Refusal := happens launchDecisionEv s

/- ---------------------------------------------------------------- task.spawn and task.card -/

/-- R34 steps 1 to 3 and R434 over the near ranges of a Drover command, with their alignments; then marks of other parties. -/
def droverRanges (s : State) (c lo hi : Nat) (rs : List (ERange × Nat)) : Option Trap :=
  let x := getCtx s c
  let note (t : Trap) : Trap := { t with spec0 := lo, spec1 := hi }
  match rs.findSome? (fun r => firstUnmapped x c r.1) with
  | some a => some (note (Trap.at cADDRESS a))
  | none =>
    match rs.find? (fun r => r.1.base % r.2 != 0) with
    | some r => some (note (Trap.at cALIGN r.1.base))
    | none =>
      match (if privOf x == 0 || !sliceOpen s (coreOf c) then slicePut x c (rs.map Prod.fst) else none) with
      | some a => some (note (Trap.at cREADONLY a))
      | none =>
        match rs.findSome? (fun r => (lostPeer s c r.1.base).map (fun core => (⟨cPEER_LOST, r.1.base, false, core, 0, none⟩ : Trap))) with
        | some t => some t
        | none => issueConflict s c (partyOf c) (rs.map Prod.fst)

/-- Whether the Drover's queue of the die has no room for a command (R233): two wait behind the request that it decides.
Log 54 (DEDUCED). -/
def droverFull (s : State) (die : Nat) : Bool := 2 ≤ ((getDie s die).reqs.tail.filter (fun r => r.kind ≤ 1)).length

/-- The graph of what a context spawns (R290): a new one in supervisor or hypervisor mode, else its task's. -/
def spawnGraph (s : State) (c : Nat) : Nat × State :=
  match entOfCtx s c with
  | some e => if 1 ≤ privOf (getCtx s c) then fresh s else (e.graph, s)
  | none => fresh s

/-- R291: what stands for a zero WIN of a card: the issuing task's window with FRAME at its base. -/
def defaultWin (x : Ctx) : Nat := winBase x + winBase x / 128 * 2 ^ 18 + winLen x / 128 * 2 ^ 29

/-- R291: what stands for a zero PLACE of a card: the issuing task's range and its flags, and of a context with no task every core of the
part. Log 133 (DESIGN CHOICE). -/
def defaultPlace (s : State) (c : Nat) : Nat :=
  match entOfCtx s c with
  | some e => e.pcore + e.pcl0 * 2 ^ 8 + e.pcln * 2 ^ 16 + bit e.telig * 2 ^ 34 + bit e.runv * 2 ^ 35 + e.flw * 2 ^ 36
  | none => 255 + 256 * 2 ^ 16

/-- Steps 6 to 8 of R180 for a Drover command: the token, the budget, the release and the request (R289). -/
def issueDrover (s : State) (t : TokId) (wu : Nat) (r : DReq) : Res Out :=
  let c := s.cur
  if tokMax < (cx s).tok[t].vis + 1 then .trap (Trap.at cTOK_OVERFLOW 0)
  else
    match budgetCheck (cx s) c wu with
    | some f => .trap f
    | none =>
      let s1 := drain s c
      let (g, s2) := spawnGraph s1 c
      let x := getCtx s2 c
      let r1 := { r with
        ctx := c, part := (partOf s2 c).getD 0, pid := x.pid.toNat, graph := g, opc := x.pc.toNat, tok := t.val, view := x.view
        win := defaultWin x, place := defaultPlace s2 c }
      .ok { st := addReq (modTok s2 c t (fun q => { q with vis := q.vis + 1 })) (dieOf c) r1, wu := wu, sync := true, unv := true }

/-- A request with nothing but its kind. -/
def bareReq (kind : Nat) : DReq :=
  { kind := kind, ctx := 0, part := 0, pid := 0, words := [], decl := [], declOk := true, res := 0, tok := 0, far := 0, opc := 0
    win := 0, place := 0, n := 0, graph := 0, launch := none, view := [] }

/-- Words of near memory as a command reads them. -/
def nearWords (s : State) (c a n : Nat) : List Nat := (List.range n).map (fun i => leNat (engRead s (getCtx s c).view (phys c (a + 8 * i)) 8))

/-- The effect of task.spawn (R233, R285, R389). -/
def taskSpawnBody (t : TokId) : Body := fun ws s =>
  let c := s.cur
  let lo := (src ws 0).toNat
  let hi := (src ws 1).toNat
  let rec' := lo % 2 ^ 32
  let res := lo / 2 ^ 32
  if droverFull s (dieOf c) then .wait s
  else if hi ≠ 0 then .trap illegal11
  else
    match droverRanges s c lo hi [(⟨rec', 32, false, .any, rec'⟩, 32), (⟨res, 8, true, .any, res⟩, 8)] with
    | some f => .trap f
    | none =>
      let s0 := drain s c
      match poisonTrap s0 c rec' 32 with
      | some f => .trap f
      | none =>
        let w := nearWords s0 c rec' 4
        let telig := pTelig (w.getD 3 0)
        match (if telig then (droverRanges s c lo hi [(⟨rec' + 32, 64, false, .any, rec' + 32⟩, 1)]).orElse
            (fun _ => poisonTrap s0 c (rec' + 32) 64) else none) with
        | some f => .trap f
        | none =>
          let dw := if telig then nearWords s0 c (rec' + 32) 8 else []
          if !recordOk w || (telig && !declOk dw) then .trap illegal11
          else issueDrover s t 4 { bareReq 0 with words := w, decl := if telig then declOf dw else [], res := res }

def execTaskSpawn (a b : Reg) (t : TokId) (s : State) : Host.Outcome State Fault Refusal :=
  issue { i := .taskSpawn a b t, wu := none, kind := .compute, leadOnly := true, srcs := [a, b] } (taskSpawnBody t) s

/-- The effect of task.card (R233). -/
def taskCardBody (t : TokId) : Body := fun ws s =>
  let c := s.cur
  let lo := (src ws 0).toNat
  let hi := (src ws 1).toNat
  if droverFull s (dieOf c) then .wait s
  else if lo / 2 ^ 48 ≠ 0 || hi / 2 ^ 32 ≠ 0 then .trap illegal11
  else if lo % 64 ≠ 0 then .trap ⟨cALIGN, lo, true, 0, 0, none⟩
  else
    match droverRanges s c lo hi [(⟨hi, 8, true, .any, hi⟩, 8)] with
    | some f => .trap f
    | none => issueDrover s t 8 { bareReq 1 with far := lo, res := hi }

def execTaskCard (a b : Reg) (t : TokId) (s : State) : Host.Outcome State Fault Refusal :=
  issue { i := .taskCard a b t, wu := none, kind := .compute, leadOnly := true, srcs := [a, b] } (taskCardBody t) s

end Sys2Proof.Machine
end

