-- ==== Sys2Proof/Machine/Place.lean ====
section
/-! DEFINITION. Placement (R295, R297 to R299, R359, R376): free contexts and windows, the choice of cores, the state a context
starts with (R13, R36), and what happens to windows kept for a successor. -/

namespace Sys2Proof.Machine

/-- A window as its first byte and the byte after its last. -/
abbrev Win := Nat × Nat

/-- Whether two windows overlap. -/
def winMeet (a b : Win) : Bool := a.1 < b.2 && b.1 < a.2

/-- The window of an entry. -/
def entWin (e : Entry) : Win := (e.wbase, e.wbase + e.wlen)

/-- The window of a context that holds a task. -/
def ctxWin (x : Ctx) : Win := (winBase x, winBase x + winLen x)

/-- The contexts of a core that are free for the entry of an order: those held for another task are not (R358). -/
def freeCtxs (s : State) (order core : Nat) : List Nat :=
  (ctxsOf core).filter (fun c => (getCtx s c).mode == .free &&
    !((getDie s (dieOfCore core)).entries.any (fun e => e.order != order && e.heldFor.contains c)))

/-- Whether a window overlaps no live window of a core, those of the contexts in `skip` left out. -/
def liveClear (s : State) (core : Nat) (w : Win) (skip : List Nat) : Bool :=
  (ctxsOf core).all (fun c =>
    let x := getCtx s c
    x.mode == .free || skip.contains c || !winMeet (ctxWin x) w)

/-- Whether a window overlaps no retained window of a core. -/
def retainedClear (s : State) (core : Nat) (w : Win) : Bool :=
  (getDie s (dieOfCore core)).retained.all (fun r => r.core != core || !winMeet (r.base, r.base + r.len) w)

/-- Whether a task of a window fits on a core (R295 step 2), the contexts in `skip` counted as free. -/
def coreFits (s : State) (order core : Nat) (w : Win) (skip : List Nat) : Bool :=
  (!(freeCtxs s order core).isEmpty || skip.any (fun c => coreOf c == core)) &&
    liveClear s core w skip && retainedClear s core w

/-- Whether a save binds its task to the core it was saved on: a port is bound, or it holds queue words (R14, R376). Log 98 (DEDUCED). -/
def savedBound (v : SavedCtx) : Bool := v.ctx.bound || v.words.any (fun q => !q.2.isEmpty)

/-- Whether a saved task restores only on the core it was saved from (R376). -/
def coreBound (e : Entry) : Bool := e.saved.any savedBound

/-- Whether a saved task is a member of a barrier of the cluster it was saved from (R359). -/
def barrierMember (s : State) (e : Entry) : Bool :=
  e.saved.any (fun v => (getCluster s (clusterOfCore v.core)).objs.any (fun o =>
    o.2.words.getD 0 0 % 256 == 1 && bitAt (o.2.words.getD 1 0 / 2 ^ 32) v.ctx.barIdx))

/-- Whether a saved task restores only in its cluster (R359). -/
def clusterBound (s : State) (e : Entry) : Bool := e.pin || 1 < flockWidth e.flw || barrierMember s e

/-- The cores an entry may take: usable, in its range, outside a cluster that the scan rotation has taken, and where a pin or
a save limits it (R298, R359, R376, R427). -/
def allowedCores (s : State) (die : Nat) (e : Entry) : List Nat :=
  (entCores s die e).filter (fun core =>
    !(getCluster s (clusterOfCore core)).rotating &&
    (match e.cluster with | some c => clusterOfCore core == c | none => true) &&
    (match e.saved with
     | [] => true
     | v :: _ =>
       if coreBound e then e.saved.any (fun u => u.core == core)
       else if clusterBound s e then clusterOfCore core == clusterOfCore v.core
       else true))

/-- The cores of a group by its first core. -/
def groupCores (w first : Nat) : List Nat := (List.range w).map (first + ·)

/-- The fewest free contexts of a group's cores. Log 134 (DESIGN CHOICE). -/
def groupFree (s : State) (order w first : Nat) : Nat :=
  ((groupCores w first).map (fun c => (freeCtxs s order c).length)).min?.getD 0

/-- Of two groups with their free contexts, whether the first is taken before the second: it has more, or as many and a lower first
core (R295). -/
def groupBefore (a b : Nat × Nat) : Bool := b.2 < a.2 || (a.2 == b.2 && a.1 < b.1)

/-- Of groups with their free contexts the one that is taken (R295). -/
def bestGroup (l : List (Nat × Nat)) : Option Nat :=
  (l.foldl (fun m p => match m with
    | none => some p
    | some q => some (if groupBefore p q then p else q)) none).map Prod.fst

/-- The group an entry is placed on by steps 1 and 2 of R295, by its first core. Log 134 (DESIGN CHOICE). -/
def findGroup (s : State) (die : Nat) (e : Entry) : Option Nat :=
  let w := flockWidth e.flw
  let gs := groupsOf (allowedCores s die e) w
  let kept := (getDie s die).retained.filter (fun r => r.succ == e.tag && e.card.isNone)
  match (gs.filter (fun g => kept.any (fun r => (groupCores w g).contains r.core) &&
      (groupCores w g).all (fun c => !(freeCtxs s e.order c).isEmpty && liveClear s c (entWin e) []))).min? with
  | some g => some g
  | none =>
    bestGroup ((gs.filter (fun g => (groupCores w g).all (fun c => coreFits s e.order c (entWin e) []))).map
      (fun g => (g, groupFree s e.order w g)))

/-- Whether a partition is stopped by the Whistle; nothing of it is placed then. -/
def isWhistled (s : State) (part : Nat) : Bool := match getPart? s part with | some p => p.whistled | none => false

/-- Whether an entry waits for placement: a ready or saved task, or a card with records to deal (R295). Log 54 (DEDUCED). -/
def waitsPlace (e : Entry) : Bool :=
  match e.card with
  | some k => k.remaining != 0
  | none => e.state == .ready || e.state == .saved

/-- Whether entry `f` comes before `e` in the order of service (R295). -/
def servedBefore (s : State) (f e : Entry) : Bool :=
  entDeadline s f < entDeadline s e || (entDeadline s f == entDeadline s e && f.order < e.order)

/-- The size of the next chunk of a card (R293), `p` the usable cores of its placement. -/
def chunkSize (e : Entry) (k : CardSt) (p : Nat) : Nat :=
  min k.remaining (min (capRec e k.rsize) (max k.minChunk (ceilDiv k.remaining (2 * p))))

/-- Whether the ready table has no place for the next chunk of a card: in a full one only the last chunk is dealt, whose place its card
gives up (R294). -/
def noPlace (s : State) (die : Nat) (e : Entry) : Bool :=
  match e.card with
  | some k => tableFull s die && chunkSize e k (entCores s die e).length < k.remaining
  | none => false

/-- The entries of a die that wait and come before one and that some context can take (R295, R301). -/
def earlierReady (s : State) (die : Nat) (e : Entry) : List Entry :=
  (getDie s die).entries.filter (fun f =>
    waitsPlace f && !isWhistled s f.part && servedBefore s f e && !noPlace s die f && (findGroup s die f).isSome)

/-- The event that places an entry. -/
def postPlace (s : State) (die : Nat) (e : Entry) : State :=
  match e.card with
  | some k => postOnce s .chunkDeal [die, k.id]
  | none => postOnce s .taskPlacement [die, e.tag]

/- ---------------------------------------------------------------- windows -/

/-- Bytes of a core's local memory from `lo` up to `hi` zeroed. -/
def zeroSpan (s : State) (core lo hi : Nat) : State := if lo < hi then zeroWindow s core lo (hi - lo) else s

/-- A span of local memory zeroed but for the part of it that lies in a window. -/
def zeroOutside (s : State) (core : Nat) (span keep : Win) : State :=
  zeroSpan (zeroSpan s core span.1 (min span.2 keep.1)) core (max span.1 keep.2) span.2

/-- A span of local memory zeroed but for the parts of it that lie in some of the windows. -/
def zeroGaps (s : State) (core : Nat) (span : Win) : List Win → State
  | [] => zeroSpan s core span.1 span.2
  | k :: t => zeroGaps (zeroGaps s core (span.1, min span.2 k.1) t) core (max span.1 k.2, span.2) t

/-- R297 at a placement on a core: the windows retained there for the task keep the bytes they share with its window,
every other byte of those windows is zeroed, and other retained windows that overlap are zeroed and given up. -/
def takeWindow (s : State) (core tag : Nat) (w : Win) : State :=
  let die := dieOfCore core
  let rs := (getDie s die).retained
  let lost := rs.filter (fun r => r.core == core && r.succ != tag && winMeet (r.base, r.base + r.len) w)
  let s1 := lost.foldl (fun s r => zeroWindow s core r.base r.len) s
  let s2 := modDie s1 die (fun d => { d with retained := d.retained.filter (fun r => !lost.contains r) })
  let kept := (rs.filter (fun r => r.core == core && r.succ == tag)).map (fun r => (r.base, r.base + r.len))
  kept.foldl (fun s k => zeroOutside s core k w) (zeroGaps s2 core w kept)

/-- R297: the retained windows of a task that has been placed: those on other cores are zeroed. -/
def dropTaken (s : State) (die tag : Nat) (cores : List Nat) : State :=
  let rs := (getDie s die).retained.filter (fun r => r.succ == tag)
  let s1 := (rs.filter (fun r => !cores.contains r.core)).foldl (fun s r => zeroWindow s r.core r.base r.len) s
  if rs.isEmpty then s1
  else modDie s1 die (fun d => { d with retained := d.retained.filter (fun r => r.succ != tag) })

/- ---------------------------------------------------------------- starting a context -/

/-- The mode in which a context of a partition starts: a stopped partition's context waits for the release (R380). Log 63 (DEDUCED). -/
def runMode (s : State) (part : Nat) : RunMode :=
  match getPart? s part with
  | some p => if p.whistled then .whistled else .running
  | none => .running

/-- The registers of a context at task start (R13, R28, R30, R31, R36, R132): member `i` of `w`, in mode `m` unless its records
are to be pushed first or a translator run is to begin. -/
def startCtx (c : Nat) (e : Entry) (i w : Nat) (m : RunMode) (old : Ctx) : Ctx :=
  { Ctx.reset with
    g := (((Ctx.reset.g.set 2 (w64 e.g2)).set 4 (w64 e.g4)).set 5 (w64 e.g5)).set 6 (w64 e.tag)
    pc := pc48 e.code
    st := if 1 < w then w64 (2 ^ 19) else 0
    tag := BitVec.ofNat 32 e.tag
    pid := BitVec.ofNat 16 e.pid
    budget := w64 e.budget
    deadline := w64 e.deadline
    lwin := w64 (e.wbase + e.wlen * 2 ^ 32)
    flock := w64 (w + i * 16)
    seed := BitVec.ofNat 32 e.tag
    lfsr := if e.tag % 2 ^ 32 = 0 then 1 else BitVec.ofNat 32 e.tag
    barIdx := c % 32
    view := mergeView old.view e.startView
    region := old.region + 1
    follower := i != 0
    mode := if e.argLen = 0 && e.rootReq.isNone then m else .loading }

/-- A context kept for a task: its window and deadline are there while its save is read back (R375). Log 64 (DESIGN CHOICE). -/
def keptCtx (v : SavedCtx) (old : Ctx) : Ctx :=
  { Ctx.reset with
    lwin := v.ctx.lwin, deadline := v.ctx.deadline, budget := v.ctx.budget, charge := v.ctx.charge, tag := v.ctx.tag
    pid := v.ctx.pid, run := v.ctx.run, view := old.view, region := old.region + 1, mode := .loading }

/-- The chains of a save held beside the queue of a core from the restore's beginning on (R375), with the region that ended at the
save. Log 64 (DESIGN CHOICE), 99 (DEDUCED). -/
def holdChains (s : State) (c : Nat) (v : SavedCtx) : State :=
  let region := (getCtx s c).region
  modCore s (coreOf c) (fun k => { k with
    held := k.held ++ v.chains.map (fun h => (h.1, { h.2 with chain := { h.2.chain with ctx := c, region := region } })) })

/-- A context kept for a save that is read back, its chains held from now on (R375). Log 64 (DESIGN CHOICE). -/
def beginRestore (s : State) (c : Nat) (v : SavedCtx) : State := holdChains (modCtx s c (keptCtx v)) c v

/-- Whether a group's cluster is gated (R459); its island is woken before a task is placed there. -/
def gatedGroup (s : State) (first : Nat) : Bool := (getCluster s (clusterOfCore first)).gated

/-- The island of a cluster is ON (R459). Log 98 (DEDUCED). -/
def ungate (s : State) (cl : Nat) : State :=
  [cl / 2 * 2, cl / 2 * 2 + 1].foldl (fun s c => modCluster s c (fun k => { k with gated := false })) s

/-- The island of a cluster asked to wake (R459). -/
def wakeIsland (s : State) (core : Nat) : State :=
  postOnce s .islandWake [dieOfCore core, core / 16 % 128]

end Sys2Proof.Machine
end

