-- ==== Sys2Proof/Machine/Replay.lean ====
section
/-! DEFINITION. Transit replay and the Fold (R394 to R400, R403 to R406): replay and third runs, their outcomes, the scores and
the entry into the Fold. -/

namespace Sys2Proof.Machine

/- ---------------------------------------------------------------- scores and the Fold -/

/-- R398, SERVICE to DRAIN: the core is sealed as by seal, its armed fault disarms, its tasks give way, and the revocation test
of its partition is due. -/
def enterFold (s : State) (core : Nat) : State :=
  let s1 := clearCore (modCore s core (fun k => { k with fold := .drain, armed := none })) core
  let s2 := match (getCluster s1 (clusterOfCore core)).part with
    | some p => postOnce s1 .revocationTest [dieOfCore core, p]
    | none => s1
  postOnce s2 .foldScanStart [core]

/-- The threshold of the partition a core belongs to (R399). -/
def foldThreshold (s : State) (core : Nat) : Nat :=
  match (getCluster s (clusterOfCore core)).part.bind (getPart? s) with
  | some p => if p.thresh = 0 then 1024 else p.thresh
  | none => 1024

/-- R397, R398: a core's score rises; at the threshold a core in service enters the Fold. -/
def raiseScore (s : State) (core n : Nat) : State :=
  let s1 := modCore s core (fun k => { k with score := min 65535 (k.score + n) })
  if (getCore s1 core).fold == .service && foldThreshold s1 core ≤ (getCore s1 core).score then enterFold s1 core else s1

/-- R397: a confirmation; every 4,096th lowers the score by 1. -/
def confirmCore (s : State) (core : Nat) : State :=
  modCore s core (fun k => { k with
    confirms := k.confirms + 1, score := if (k.confirms + 1) % 4096 = 0 then k.score - 1 else k.score })

/-- R398, DRAIN to SCAN: with all four contexts free the stored patterns run. Names the core. -/
def foldScanStartEv (s : State) : State :=
  let core := argN s 0
  if (getCore s core).fold != .drain then s
  else if (ctxsOf core).all (fun c => (getCtx s c).mode == .free) then
    postOnce (modCore (ungate s (clusterOfCore core)) core (fun k => { k with fold := .scan, scan := 1 })) .scanPatternsEnd [core, 0]
  else postOnce s .foldScanStart [core]

def execFoldScanStart (s : State) : Host.Outcome State Fault Refusal := happens foldScanStartEv s

/- ---------------------------------------------------------------- outcomes -/

/-- R400: a REPLAY_MISMATCH entry with its outcome code. -/
def mismatchEntry (s : State) (e : Entry) (outcome : Nat) : List Byte :=
  let t := e.transit
  let id (i : Nat) : Nat := t.cores.getD i 0x3FFF
  let score (i : Nat) : Nat := match t.cores[i]? with | some c => (getCore s c).score | none => 0
  leBytes 2 cREPLAY_MISMATCH ++ leBytes 2 0 ++ leBytes 4 t.thread ++ leBytes 4 e.tag ++ leBytes 4 outcome ++
    leBytes 8 (id 0 + id 1 * 2 ^ 16 + id 2 * 2 ^ 32) ++
    leBytes 8 (bit t.conf + 2 * bit (t.failed.getD 1 false) + 4 * bit (t.failed.getD 2 false)) ++
    leBytes 8 (t.d.getD 0 0) ++ leBytes 8 (t.d.getD 1 0) ++ leBytes 8 (if t.cores.length < 3 then 0 else t.d.getD 2 0) ++
    leBytes 8 0 ++ leBytes 8 (score 0 + score 1 * 2 ^ 16 + score 2 * 2 ^ 32) ++ List.replicate 56 0

/-- A mismatch entry queued for the supervisor on the task's die. -/
def reportMismatch (s : State) (die : Nat) (e : Entry) (outcome : Nat) : State :=
  enqueueFault s e.part die (mismatchEntry s e outcome)

/-- A selected task released (R395, R396): its entry and locks go; in confirm mode its counter is signalled now. -/
def releaseTask (s : State) (die : Nat) (e : Entry) (abt : Bool) : State :=
  let s1 := delEnt s die e.order
  wakeReady (if e.transit.conf then announce s1 die e abt false e.startView else s1) die

/-- The bytes of a line written where the mask says so. -/
def maskedLine (old new : List Byte) (mask : Nat) : List Byte :=
  (List.range 64).map (fun i => if bitAt mask i then new.getD i 0 else old.getD i 0)

/-- R395: the replay's shadow lines copied over the output lines with their byte masks. -/
def copyBack (s : State) (die part pid : Nat) : List ShadowLine → State
  | [] => s
  | l :: t =>
    match translate s die part pid l.va .write with
    | .error _ => copyBack s die part pid t
    | .ok (s1, pa, host) =>
      let a := farAddr (pa / 64 * 64) host
      let s2 := (List.range 8).foldl (fun s i => if bitsAt l.mask (8 * i) 8 = 255 then clearWords s (a + 8 * i) 8 else s)
        (rawWrite s1 a (maskedLine (memRead s1.mem a 64) l.data l.mask))
      copyBack (if host then s2 else dirtyPage s2 part pa) die part pid t

/-- A count of a partition raised (R399). -/
def countConfirmed (s : State) (part : Nat) : State := modPart s part (fun p => { p with confirmed := p.confirmed + 1 })
def countMismatch (s : State) (part : Nat) : State := modPart s part (fun p => { p with mismatch := p.mismatch + 1 })

/-- The core of a run: 0 the original. -/
def runCore (e : Entry) (i : Nat) : Nat := e.transit.cores.getD i 0

/-- R395, REPLAY: the replay has ended. -/
def replayOutcome (s : State) (die : Nat) (e : Entry) : State :=
  let t := e.transit
  if !t.failed.getD 1 false && t.d.getD 1 0 == t.d.getD 0 0 then
    releaseTask (countConfirmed (confirmCore (confirmCore s (runCore e 0)) (runCore e 1)) e.part) die e false
  else
    let (n, s1) := fresh s
    postOnce (modEnt s1 die e.order (fun f => { f with transit := { f.transit with phase := 6, kept := f.transit.shadow, shadow := [], seq := n } }))
      .replayPlacement [die, e.tag]

/-- R395, THIRD: the third run has ended. -/
def thirdOutcome (s : State) (die : Nat) (e : Entry) : State :=
  let t := e.transit
  let s0 := countMismatch s e.part
  let d3 := t.d.getD 2 0
  if !t.failed.getD 2 false && d3 == t.d.getD 0 0 then
    let s1 := raiseScore (confirmCore (confirmCore s0 (runCore e 0)) (runCore e 2)) (runCore e 1) 256
    releaseTask (reportMismatch s1 die e 1) die e false
  else if !t.failed.getD 2 false && !t.failed.getD 1 false && d3 == t.d.getD 1 0 then
    let s1 := raiseScore (confirmCore (confirmCore s0 (runCore e 1)) (runCore e 2)) (runCore e 0) 256
    let s2 := if t.conf then copyBack s1 die e.part e.pid t.kept else s1
    releaseTask (reportMismatch s2 die e 2) die e false
  else
    let s1 := t.cores.foldl (fun s c => raiseScore s c 128) s0
    releaseTask (reportMismatch s1 die e 3) die e true

/-- The end of a replay or third run whose engine work is done: its context is freed and the comparison goes on (R395). A run
that has reached its deadline has failed (R394). -/
def runEnd (s : State) (c : Nat) : State :=
  let x := getCtx s c
  let die := homeDie s c
  let late := x.mode == .halted && x.deadline.toNat ≤ dieCounter s c
  let e? := entOfCtx s c
  let s1 := wakeReady (freeCtx (drain s c) c false) (dieOf c)
  match e? with
  | none => s1
  | some e =>
    if e.transit.runCtx != some c then s1
    else
      let t := { e.transit with runCtx := none, failed := if late then e.transit.failed.set x.run true else e.transit.failed }
      let e1 := { e with transit := t }
      let s2 := modEnt s1 die e.order (fun _ => e1)
      if t.phase = 3 then replayOutcome s2 die e1 else if t.phase = 4 then thirdOutcome s2 die e1 else s2

/- ---------------------------------------------------------------- placement of runs -/

/-- The cores that qualify for a run (R394): usable cores of the partition on any die, in no cluster of an earlier run, with a
free context and window; while a saved run is restored, the core it ran on counts among them unless it is sealed, and is the only one
where the run is bound to it (R376). -/
def runCores (s : State) (e : Entry) (back : Bool) : List Nat :=
  let used := ((if back then e.transit.cores.dropLast else e.transit.cores).map clusterOfCore)
  match getPart? s e.part with
  | none => []
  | some p =>
    ((p.cfg.clusters.filter (fun c => !used.contains c && !(getCluster s c).rotating)).flatMap coresOf).filter (fun core =>
      usableCore s e.part core && coreFits s (2 ^ 64) core (entWin e) [] &&
        (!coreBound e || e.saved.any (fun v => v.core == core)))

/-- R403: the core a run is placed on: another die than the original's first, then most free contexts, then the lowest id.
Log 59 (DEDUCED). -/
def runChoice (s : State) (e : Entry) (back : Bool) : Option Nat :=
  let cs := runCores s e back
  let far := cs.filter (fun c => dieOfCore c != dieOfCore (runCore e 0))
  bestGroup ((if far.isEmpty then cs else far).map (fun c => (c, (freeCtxs s (2 ^ 64) c).length)))

/-- A run started on a core (R394): BUDGET is the original's final CHARGE + 64, DEADLINE the die counter plus the record's
SLACK; its records are pushed again first. -/
def startRun (s : State) (die : Nat) (e : Entry) (run core : Nat) : State :=
  match freeCtxs s (2 ^ 64) core with
  | [] => s
  | c :: _ =>
    let now := (getDie s (dieOfCore core)).counter
    let s1 := taintCore (takeWindow s core (2 ^ 64) (entWin e)) core e.tag
    let e1 := { e with budget := e.transit.finalCharge + 64, deadline := now + e.slack }
    let s2 := modCtx s1 c (fun old => { startCtx c e1 0 1 (runMode s e.part) old with run := run })
    let s3 := modEnt s2 die e.order (fun f => { f with transit := { f.transit with
      phase := run + 2, cores := f.transit.cores ++ [core], d := f.transit.d.set run 0
      failed := f.transit.failed.set run false, shadow := [], runCtx := some c } })
    if e.argLen = 0 then s3 else postOnce s3 .argumentPushComplete [die, e.tag]

/-- A pre-empted run given a context again (R375, R407); its save is read back before it goes on. -/
def restoreRun (s : State) (die : Nat) (e : Entry) (core : Nat) : State :=
  match freeCtxs s (2 ^ 64) core, e.saved with
  | c :: _, v :: _ =>
    let s1 := taintCore (takeWindow s core (2 ^ 64) (entWin e)) core e.tag
    let s2 := modEnt (beginRestore s1 c v) die e.order (fun f => { f with transit := { f.transit with
      cores := f.transit.cores.dropLast ++ [core], runCtx := some c } })
    postOnce s2 .restoreComplete [c]
  | _, _ => s

/-- Whether a task waits for its replay (2), its third run (6), or for a pre-empted run to go on. Log 59 (DEDUCED). -/
def runWaits (e : Entry) : Bool :=
  e.transit.phase == 2 || e.transit.phase == 6 ||
    ((e.transit.phase == 3 || e.transit.phase == 4) && e.transit.runCtx.isNone && !e.saved.isEmpty)

/-- R394, R395, R403: a replay or a third run is placed when a core qualifies and no task of its kind reached its state before
it. Names the die and the tag. Log 59 (DEDUCED). -/
def replayPlacementEv (s : State) : State :=
  let die := argN s 0
  match entByTag s die (argN s 1) with
  | none => s
  | some e =>
    let p := e.transit.phase
    let before := (getDie s die).entries.find? (fun f => runWaits f && f.transit.phase == p && f.saved.isEmpty && f.transit.seq < e.transit.seq)
    if !runWaits e || isWhistled s e.part then s
    else if e.saved.isEmpty && before.isSome then s
    else
      match runChoice s e (!e.saved.isEmpty) with
      | none => s
      | some core =>
        if gatedGroup s core then postOnce (wakeIsland s core) .replayPlacement [die, e.tag]
        else if e.saved.isEmpty then wakeReady (startRun s die e (if p = 2 then 1 else 2) core) die
        else restoreRun s die e core

def execReplayPlacement (s : State) : Host.Outcome State Fault Refusal := happens replayPlacementEv s

/- ---------------------------------------------------------------- abandoning -/

/-- R395, a comparison dropped after the original has ended: counted, its run stopped, an entry with outcome 4 in THIRD, and the
task released as at a match. -/
def abandonLater (s : State) (die : Nat) (e : Entry) : State :=
  let s1 := match e.transit.runCtx with | some c => stopCtx s c | none => s
  let s2 := countUnverified s1 e.part
  let s3 := if e.transit.phase = 4 || e.transit.phase = 6 then reportMismatch s2 die e 4 else s2
  releaseTask s3 die e false

/-- R392, R395: the retention locks of a task reach their age, or a run of it has met a full Transit region. Names the die and the tag. -/
def retentionLockAgeEv (s : State) : State :=
  let die := argN s 0
  match entByTag s die (argN s 1) with
  | none => s
  | some e =>
    let full := e.transit.full && 2 ≤ e.transit.phase
    if (!full && (getDie s die).counter < e.transit.admitted + Config.lockAge) || e.transit.phase = 0 || e.transit.phase = 5 then s
    else if e.transit.phase = 1 then abandonOriginal s die e
    else abandonLater s die e

def execRetentionLockAge (s : State) : Host.Outcome State Fault Refusal := happens retentionLockAgeEv s

end Sys2Proof.Machine
end

