-- ==== Sys2Proof/Machine/Drover.lean ====
section
/-! DEFINITION. The Drover (R293, R295, R298, R345 to R359): placing tasks, choosing victims, dealing chunks and pushing their
records, the end of a task (R236), missed deadlines and revocation. -/

namespace Sys2Proof.Machine

/- ---------------------------------------------------------------- victims -/

/-- Whether an entry is a candidate to give way to `e` (R357): placed, a later deadline, on allowed cores, and in a
cluster where no other request is under way (R372). Log 58 (DEDUCED). -/
def victimOk (s : State) (die : Nat) (e f : Entry) : Bool :=
  let cores := allowedCores s die e
  let busy := ((getDie s die).entries.filter (fun h => h.state == .asked || h.state == .saving)).flatMap (fun h => h.members.map clusterOf)
  f.state == .placed && !f.members.isEmpty && entDeadline s e < entDeadline s f &&
    f.members.all (fun c => cores.contains (coreOf c) && !busy.contains (clusterOf c))

/-- Whether `e` could be placed where `f` is once the contexts of `f` are free (R357), under step 1 or step 2 of R295. -/
def fitsAfter (s : State) (die : Nat) (e f : Entry) : Bool :=
  let w := flockWidth e.flw
  let kept := (getDie s die).retained.filter (fun r => r.succ == e.tag && e.card.isNone)
  (groupsOf (allowedCores s die e) w).any (fun g =>
    (groupCores w g).all (fun c => coreFits s e.order c (entWin e) f.members) ||
      (kept.any (fun r => (groupCores w g).contains r.core) && (groupCores w g).all (fun c =>
        (!(freeCtxs s e.order c).isEmpty || f.members.any (fun m => coreOf m == c)) && liveClear s c (entWin e) f.members)))

/-- Of two candidates the one with the later deadline, the higher tag on a tie (R357). Log 58 (DEDUCED). -/
def laterVictim (s : State) (best : Option Entry) (f : Entry) : Option Entry :=
  match best with
  | none => some f
  | some b =>
    if entDeadline s b < entDeadline s f || (entDeadline s b == entDeadline s f && b.tag < f.tag) then some f else some b

/-- The victim chosen for a ready or saved task (R357). Log 58 (DEDUCED). -/
def chooseVictim (s : State) (die : Nat) (e : Entry) : Option Entry :=
  ((getDie s die).entries.filter (fun f => victimOk s die e f && fitsAfter s die e f)).foldl (laterVictim s) none

/-- R295 step 3: a victim is asked, unless one has been for this task. Log 58 (DEDUCED). -/
def askVictim (s : State) (die : Nat) (e : Entry) : State :=
  if (getDie s die).entries.any (fun f => f.victimFor == some e.order) then s
  else
    match chooseVictim s die e with
    | none => s
    | some f => askEnt s die f (some e.order)

/- ---------------------------------------------------------------- placing -/

/-- The lowest-numbered free context of each core of a group (R295). -/
def groupCtxs (s : State) (order w first : Nat) : List Nat :=
  (groupCores w first).filterMap (fun core => (freeCtxs s order core).head?)

/-- The cluster a task is pinned to from its first placement (R284, R298). -/
def pinned (e : Entry) (first : Nat) : Option Nat :=
  if e.pin || 1 < flockWidth e.flw then some (e.cluster.getD (clusterOfCore first)) else none

/-- An entry placed on a group (R295, R297, R298, R375): windows are settled, requests made for it are withdrawn, each member's
context takes its start state or is kept for its save, and each core is tainted (R429). -/
def placeOn (s : State) (die : Nat) (e : Entry) (first : Nat) : State :=
  let w := flockWidth e.flw
  let cores := groupCores w first
  let ms := groupCtxs s e.order w first
  let s1 := dropTaken (cores.foldl (fun s c => takeWindow s c e.tag (entWin e)) s) die e.tag cores
  let s2 := cores.foldl (fun s c => taintCore s c e.tag) (withdrawFor s1 die e.order)
  let e1 := { e with members := ms, cluster := pinned e first, heldFor := [], victimFor := none }
  match e.saved with
  | [] =>
    let s3 := ms.zipIdx.foldl (fun s p => modCtx s p.1 (startCtx p.1 e p.2 w (runMode s e.part))) s2
    let st := if e.argLen = 0 && e.rootReq.isNone then EntSt.placed else EntSt.pushing
    let s4 := modEnt s3 die e.order (fun _ => { e1 with state := st })
    match e.rootReq with
    | some id => postOnce s4 .translatorRunStart [id]
    | none => if e.argLen = 0 then s4 else postOnce s4 .argumentPushComplete [die, e.tag]
  | vs =>
    let s3 := (ms.zip vs).foldl (fun s p => beginRestore s p.1 p.2) s2
    postOnce (modEnt s3 die e.order (fun _ => { e1 with state := .restoring })) .restoreComplete [ms.headD 0]

/-- The requests made for a waiting entry are withdrawn once room for it has been freed (R358): it comes before every other entry that
some context can take. -/
def roomMade (s : State) (die order : Nat) : State :=
  match (getDie s die).entries.find? (fun f => f.order == order) with
  | some f =>
    if waitsPlace f && (findGroup s die f).isSome && (earlierReady s die f).isEmpty then withdrawFor s die order else s
  | none => s

/-- Room has been freed on a die: requests that are no longer needed are withdrawn (R358), and what waits is tried again (R295, R301). -/
def roomFreed (s : State) (die : Nat) : State :=
  wakeReady (((getDie s die).entries.filterMap Entry.victimFor).eraseDups.foldl (fun s o => roomMade s die o) s) die

/-- An entry placed on a group; where retained windows are given up, or contexts held for it that it does not take, what waits is tried
again. -/
def placeEnt (s : State) (die : Nat) (e : Entry) (first : Nat) : State :=
  let s1 := placeOn s die e first
  if (getDie s1 die).retained == (getDie s die).retained && e.heldFor.isEmpty then s1 else roomFreed s1 die

/-- R295 for one entry that waits: an earlier one that some context can take is placed first; a paged task is paged in (R447); a
gated island is woken; with no core a victim may be asked. -/
def tryPlace (s : State) (die : Nat) (e : Entry) : State :=
  match earlierReady s die e with
  | f :: _ => postPlace (postPlace s die f) die e
  | [] =>
    match findGroup s die e with
    | some g =>
      if e.paged then postPlace (askPageIn s die e) die e
      else if gatedGroup s g then postPlace (wakeIsland s g) die e
      else placeEnt s die e g
    | none => askVictim s die e

/-- R295, R357, R359: a ready or saved task is placed. Names the die and the tag. -/
def taskPlacementEv (s : State) : State :=
  let die := argN s 0
  match entByTag s die (argN s 1) with
  | none => s
  | some e => if waitsPlace e && !isWhistled s e.part then tryPlace s die e else s

def execTaskPlacement (s : State) : Host.Outcome State Fault Refusal := happens taskPlacementEv s

/- ---------------------------------------------------------------- chunks -/

/-- The chunk task of a card (R293). -/
def chunkEntry (e : Entry) (k : CardSt) (n tag order : Nat) : Entry :=
  { e with
    tag := tag, order := order, counter := 0, wait := 0, state := .ready, budget := k.budRec * n, g2 := e.frame, g4 := k.first, g5 := n
    card := none, parent := some e.order, argSrc := k.args + k.first * k.rsize, argLen := n * k.rsize, launch := none, ecnt := 0 }

/-- R293: the next chunk of a card is dealt: a task with its own tag, placed once its records are pushed, and with a place in the table:
in a full one only the last chunk is dealt, whose place its card gives up (R294). Names the die and the card. -/
def chunkDealEv (s : State) : State :=
  let die := argN s 0
  match (getDie s die).entries.find? (fun e => match e.card with | some k => k.id == argN s 1 | none => false) with
  | none => s
  | some e =>
    if isWhistled s e.part then s
    else
    match e.card, earlierReady s die e, findGroup s die e with
    | some k, f :: _, _ => if k.remaining = 0 then s else postPlace (postPlace s die f) die e
    | some k, [], some g =>
      if k.remaining = 0 || noPlace s die e then s
      else if gatedGroup s g then postPlace (wakeIsland s g) die e
      else
        let n := chunkSize e k (entCores s die e).length
        let (tag, s1) := takeTag s die e.part
        let t := chunkEntry e k n tag (getDie s1 die).nextOrder
        let s2 := transitAdmit (addEntry s1 die t) die t
        let k1 := { k with first := k.first + n, remaining := k.remaining - n, live := k.live + 1 }
        let s3 := modEnt s2 die e.order (fun f => { f with card := some k1 })
        let s4 := match entByTag s3 die tag with | some t1 => placeEnt s3 die t1 g | none => s3
        if k1.remaining = 0 then s4 else postOnce s4 .chunkDeal [die, k.id]
    | _, _, _ => s

def execChunkDeal (s : State) : Host.Outcome State Fault Refusal := happens chunkDealEv s

/-- The records of a chunk read by the memory cores line by line (R293): the state, the bytes, or the fault and its address.
Log 29 (DEDUCED). -/
def pushRead (s : State) (die part pid tag : Nat) : Nat → Nat → Nat → Except (Nat × Nat) (State × List Byte)
  | 0, _, _ => .ok (s, [])
  | f + 1, va, n =>
    if n = 0 then .ok (s, [])
    else
      match translate s die part pid va .read with
      | .error c => .error (c, va)
      | .ok (s1, pa, host) =>
        let m := min n (64 - va % 64)
        match poisonedIn s1 (farAddr pa host) m with
        | some w => .error (cUNCORRECTABLE, max va (va + w * 8 - farAddr pa host))
        | none =>
          match pushRead (taintChan s1 (lineChan die pa host) tag) die part pid tag f (va + m) (n - m) with
          | .error x => .error x
          | .ok (s2, bs) => .ok (s2, memRead s2.mem (farAddr pa host) m ++ bs)

/-- Pushed bytes performed at a context's frame, before it starts. Log 62 (DEDUCED). -/
def pushTo (s : State) (e : Entry) (bs : List Byte) (c : Nat) : State :=
  let a := localBase (coreOf c) + e.g2
  let s1 := performBytes s a bs
  modCtx s1 c (fun x => { x with view := moveView x.view a bs.length s1.stamp, mode := runMode s e.part })

/-- R293, R394: the records of a chunk, or of its replay, are in place and it begins; a fault while they are read aborts the card's
graph, or fails the run. Names the die and the tag. Log 62 (DEDUCED). -/
def argumentPushEv (s : State) : State :=
  let die := argN s 0
  match entByTag s die (argN s 1) with
  | none => s
  | some e =>
    let ms := match e.transit.runCtx with | some c => [c] | none => e.members
    match ms with
    | [] => s
    | c :: _ =>
      if (getCtx s c).mode != .loading then s
      else
        match pushRead s (dieOf c) e.part e.pid e.tag (e.argLen / 64 + 2) e.argSrc e.argLen with
        | .ok (s1, bs) =>
          giveWay (modEnt (ms.foldl (fun s c => pushTo s e bs c) s1) die e.order
            (fun f => if f.state == .pushing then { f with state := .placed } else f)) c
        | .error (cause, va) =>
          if cause = cUNCORRECTABLE then containCtx s c 5 va true false
          else if e.transit.runCtx.isSome then failRun s c
          else
            let r := mkRec s c ⟨cause, va, true, 0, 0, none⟩ e.code
            abortGraph (enqueueFault s e.part die (r.bytes ++ zero64)) die e.graph

def execArgumentPushComplete (s : State) : Host.Outcome State Fault Refusal := happens argumentPushEv s

/- ---------------------------------------------------------------- completion -/

/-- Whether a successor named by halt holds its window (R297): a live task of the partition on the die. -/
def keepsFor (s : State) (die part succ : Nat) : Bool :=
  succ != 0 && (match entByTag s die succ with | some e => e.part == part | none => false)

/-- The contexts of a completed task freed, their windows kept for a successor or zeroed (R236, R297). -/
def freeMembers (s : State) (die : Nat) (e : Entry) (succ : Nat) : State :=
  let keep := keepsFor s die e.part succ
  let rs := if keep then e.members.map (fun c => (⟨coreOf c, winBase (getCtx s c), winLen (getCtx s c), succ⟩ : Retained)) else []
  let s1 := e.members.foldl (fun s c => freeCtx s c keep) s
  modDie s1 die (fun d => { d with retained := d.retained ++ rs })

/-- What a task's end leaves in its entry: its energy, and for Transit its core, thread id, CHARGE and PID (R394, R400). -/
def endEntry (s : State) (e : Entry) (c : Nat) : Entry :=
  let x := getCtx s c
  { e with
    ecnt := entEnergy s e
    transit := { e.transit with cores := [coreOf c], thread := c, finalCharge := x.charge.toNat } }

/-- R236: a task all of whose members have halted and whose engine work has ended: their stores perform (R289), its contexts are freed and
its end is made known. Log 60 (DEDUCED). -/
def taskEnd (s0 : State) (die : Nat) (e : Entry) : State :=
  let s := e.members.foldl drain s0
  let c := e.members.headD 0
  let v := e.members.foldl (fun v m => mergeView v (finalView (getCtx s m))) []
  let e1 := endEntry s e c
  let succ := (getCtx s c).successor
  let s1 := freeMembers (withdrawFor (modEnt s die e.order (fun _ => e1)) die e.order) die e1 succ
  wakeReady (finishEnt s1 die e1 v) die

/-- R236, R261, R290, R367, R394: a context whose issue has ended is freed once its engine work has, and a task ends once all of
its contexts can be freed. Names the context. -/
def taskCompletionEv (s : State) : State :=
  let c := argN s 0
  let x := getCtx s c
  if isMem c || engineWork s c then s
  else if x.mode == .removed then
    if x.run = 0 then wakeReady (freeCtx (endStep s c) c false) (dieOf c) else runEnd s c
  else if x.mode != .halted then s
  else if x.run ≠ 0 then runEnd s c
  else
    match entOfCtx s c with
    | none => wakeReady (freeCtx (drain s c) c false) (dieOf c)
    | some e =>
      if e.members.any (fun m => engineWork s m || (getCtx s m).mode != .halted) then s
      else if e.rootReq.isSome then
        wakeReady (delEnt (freeMembers s (dieOf c) e 0) (dieOf c) e.order) (dieOf c)
      else taskEnd s (dieOf c) e

def execTaskCompletion (s : State) : Host.Outcome State Fault Refusal := happens taskCompletionEv s

/- ---------------------------------------------------------------- deadlines and revocation -/

/-- R347, R394: a deadline passes: the partition's misses rise, once for each DEADLINE a task has had, and a run that has not ended fails. Names the die and the entry's
place in the order of admission. Log 60 (DEDUCED), 61 (DEDUCED). -/
def deadlinePassEv (s : State) : State :=
  let die := argN s 0
  match (getDie s die).entries.find? (fun e => e.order == argN s 1) with
  | none => s
  | some e =>
    match e.transit.runCtx with
    | some c => if (getCtx s c).deadline.toNat ≤ dieCounter s c && (getCtx s c).mode != .removed then failRun s c else s
    | none =>
      let d := entDeadline s e
      if e.missed == some d || !holdsPlace e || e.state == .waiting || (getDie s die).counter < d then s
      else
        modEnt (modDie s die (fun d => { d with misses := d.misses.put e.part (min 65535 ((d.misses.get? e.part).getD 0 + 1)) })) die e.order
          (fun f => { f with missed := some d })

def execDeadlinePass (s : State) : Host.Outcome State Fault Refusal := happens deadlinePassEv s

/-- Of two entries the one that is revoked first (R353): the later deadline, then the later admitted. -/
def revokedFirst (s : State) (best : Option Entry) (e : Entry) : Option Entry :=
  match best with
  | none => some e
  | some b =>
    if entDeadline s b < entDeadline s e || (entDeadline s b == entDeadline s e && b.order < e.order) then some e else some b

/-- R353: while the test fails the entry with the latest deadline is revoked; `n` bounds the entries. Log 57 (DEDUCED). -/
def revokeWhile (s : State) (die part k : Nat) : Nat → State
  | 0 => s
  | n + 1 =>
    if k = 0 || sumsFail (getDie s die).counter k 0 (demands s die part (2 ^ 64)) 0 then
      match ((getDie s die).entries.filter (fun e => e.part == part && holdsPlace e)).foldl (revokedFirst s) none with
      | none => s
      | some e => revokeWhile (revokeEnt s die e) die part k n
    else s

/-- R353: the re-run test of a partition on a die. Names the die and the partition. -/
def revocationTestEv (s : State) : State :=
  let die := argN s 0
  let part := argN s 1
  match getPart? s part with
  | none => s
  | some p => revokeWhile s die part (min (minimumOf p die) (partCores s part die).length) ((getDie s die).entries.length)

def execRevocationTest (s : State) : Host.Outcome State Fault Refusal := happens revocationTestEv s

end Sys2Proof.Machine
end

