-- ==== Sys2Proof/Machine/Preempt.lean ====
section
/-! DEFINITION. Pre-emption (R246, R358, R369 to R378): the request, the hint window, the drain, the save and the restore; and the
Whistle (R379 to R381). -/

namespace Sys2Proof.Machine

/-- The members of the task a context leads; a run or a context without an entry stands alone. -/
def membersOf (s : State) (c : Nat) : List Nat :=
  match entOfCtx s c with
  | some e => if e.members.contains c then e.members else [c]
  | none => [c]

/-- The context that leads a context's task. -/
def leaderOf (s : State) (c : Nat) : Nat := (membersOf s c).headD c

/- ---------------------------------------------------------------- the request -/

/-- R369: a pre-emption request reaches its context and the hint window opens, for the HINTGAP now in force; in a context that the
Whistle has stopped it counts from its release on, and in one that has halted until its engine work has ended (R356). Names the context.
Log 63 (DEDUCED). -/
def preemptionArrivalEv (s : State) : State :=
  let c := argN s 0
  let x := getCtx s c
  let asked := x.run ≠ 0 || (match entOfCtx s c with
    | some e => e.state == .asked
    | none => (getCluster s (clusterOf c)).rotating)
  let w := some (dieCounter s c + x.hintgap.toNat)
  if asked && x.mode == .running then modCtx s c (fun x => { x with mode := .stopping, window := w })
  else if asked && (x.mode == .whistled || x.mode == .halted) && x.window.isNone then modCtx s c (fun x => { x with window := w })
  else s

def execPreemptionRequestArrival (s : State) : Host.Outcome State Fault Refusal := happens preemptionArrivalEv s

/-- The entry of a context's task goes from ASKED to SAVING (R356); a run has no state of its own. -/
def markSaving (s : State) (c : Nat) : State :=
  match entOfCtx s c with
  | some e => if (getCtx s c).run = 0 then modEnt s (dieOf c) e.order (fun f => { f with state := .saving }) else s
  | none => s

/-- A forced stop (R370, R374): every member stops issue, with no bitmaps. -/
def forcedStop (s : State) (c : Nat) : State :=
  let ms := membersOf s c
  postOnce (stopFull (markSaving s c) ms) .drainComplete [c]

/-- Whether a context is to retire a budx that the Drover has decided before it stops (R244): the code stands with its leader, and no
port write keeps it. Log 20 (DEDUCED). -/
def budxDue (s : State) (c : Nat) : Bool :=
  issuing (getCtx s c).mode && (getCtx s c).stall.isNone &&
    (match (getCtx s (leaderOf s c)).budx with | some (_, some _) => true | _ => false)

/-- R369, R370: HINTGAP cycles pass with the window open. Names the context. -/
def hintWindowExpiryEv (s : State) : State :=
  let c := argN s 0
  let x := getCtx s c
  match x.window with
  | some w =>
    if (x.mode == .stopping || x.mode == .halted) && w ≤ dieCounter s c then
      if (membersOf s c).any (budxDue s) then postOnce s .hintWindowExpiry [c] else forcedStop s c
    else s
  | none => s

def execHintWindowExpiry (s : State) : Host.Outcome State Fault Refusal := happens hintWindowExpiryEv s

/-- A phint honoured in one member (R246): its bitmaps are kept and its issue stops. -/
def honour (s : State) (c live range : Nat) : State :=
  modCtx (haltIssue s c .saving) c (fun x => { x with hint := some (live, range), window := none })

/-- The followers of a flock whose leader's phint is honoured in its handler (R246, R299): held there, they execute no phint, and are
saved in full. Log 119 (DEDUCED). -/
def honourHeld (s : State) (lead : Nat) : State :=
  if wBits (getCtx s lead).st 23 1 = 0 then s
  else stopFull s ((membersOf s lead).filter (· != lead))

/-- The effect of phint (R245, R246): in a flock the leader's is honoured and every member keeps its own bitmaps. Log 119 (DEDUCED). -/
def phintBody : Body := fun ws s =>
  let c := s.cur
  let live := (src ws 0).toNat
  let range := (src ws 1).toNat
  let lead := leaderOf s c
  if live / 2 ^ 48 ≠ 0 then .trap illegal11
  else if c = lead then
    if (cx s).mode == .stopping && !((membersOf s c).any (busyCopy s)) then
      .ok { st := postOnce (honourHeld (honour (markSaving s c) c live range) c) .drainComplete [c] }
    else .ok { st := s }
  else if (getCtx s lead).hint.isSome then .ok { st := honour s c live range }
  else .ok { st := s }

def execPhint (a b : Reg) (s : State) : Host.Outcome State Fault Refusal :=
  issue { i := .phint a b, kind := .compute, srcs := [a, b] } phintBody s

/-- Whether a task whose halt has retired has no engine work left: it ends, and is not saved (R356). -/
def taskDone (s : State) (ms : List Nat) : Bool := ms.all (fun m => (getCtx s m).halted && !busyCopy s m)

/-- R371: engine work of a stopped task has settled; its stores perform and the save begins, or, its halt having retired, it ends (R356).
Names a context of the task. -/
def drainCompleteEv (s : State) : State :=
  let c := leaderOf s (argN s 0)
  let ms := membersOf s c
  if ms.any (fun m => (getCtx s m).mode != .saving || engineWork s m) then s
  else if taskDone s ms then postOnce (ms.foldl (fun s m => modCtx s m (fun x => { x with mode := .halted })) s) .taskCompletion [c]
  else postOnce (ms.foldl (fun s m => drain (endRegion s m) m) s) .saveComplete [c]

def execDrainComplete (s : State) : Host.Outcome State Fault Refusal := happens drainCompleteEv s

/- ---------------------------------------------------------------- the save -/

/-- The registers a save keeps under a live bitmap (R14, R202, R245, R372): an accumulator left out restores with its KS 0.
Log 43 (DEDUCED). -/
def maskCtx (x : Ctx) (live : Nat) : Ctx :=
  { x with
    g := Vector.ofFn (fun i : Fin 28 => if i.val < 4 || bitAt live (i.val - 4) then x.g[i] else 0)
    v := Vector.ofFn (fun i : Fin 16 => if bitAt live (28 + i.val) then x.v[i] else 0)
    acc := Vector.ofFn (fun i : Fin 4 => if bitAt live (44 + i.val) then x.acc[i] else [])
    ks := Vector.ofFn (fun i : Fin 4 => if bitAt live (44 + i.val) then x.ks[i] else 0) }

/-- Whether a save takes the words of receive queue `k` (R14, R372). -/
def takesQueue (x : Ctx) (k : Nat) : Bool := match x.hint with | some (live, _) => bitAt live (24 + k) | none => true

/-- Whether a save covers an offset of local memory (R245, R372). -/
def coversByte (x : Ctx) (off : Nat) : Bool :=
  inWindow x off && (match x.hint with | some (_, range) => bitAt range (off / 0xC00) | none => true)

/-- The window bytes a save keeps, by their offset in local memory. -/
def savedBytes (s : State) (c : Nat) : Memory :=
  let base := localBase (coreOf c)
  ((s.mem.filter (fun p => base ≤ p.1 && p.1 < base + 0x30000)).map (fun p => (p.1 - base, p.2))).filter
    (fun p => coversByte (getCtx s c) p.1)

/-- A context's chains as a save keeps them (R371, R372): running, held beside the queue, queued. -/
def savedChains (s : State) (c : Nat) : List (Nat × ChainRun) :=
  let q := getCore s (coreOf c)
  ((List.finRange 4).filterMap (fun k => match q.chans[k] with
    | some r => if r.chain.ctx == c then some (k.val, r) else none
    | none => none)) ++
  q.held.filter (fun h => h.2.chain.ctx == c) ++
  (q.copyQ.filter (fun h => h.2.ctx == c)).map (fun h => (h.1, (⟨h.2, h.2.head, none⟩ : ChainRun)))

/-- What the save engine writes for a context (R372): stores of completed threads are joined to its view, and its marks are given
up. Log 64 (DESIGN CHOICE). -/
def saveOf (s : State) (c : Nat) : SavedCtx :=
  let x := getCtx s c
  let y := match x.hint with | some (live, _) => maskCtx x live | none => x
  let q := (getCore s (coreOf c)).rq
  { ctx := { y with mode := .loading, hint := none, window := none, waiting := false, view := finalView x, threads := [], settledAt := 0 }
    bytes := savedBytes s c
    words := (List.finRange 4).map (fun k => (k.val, if takesQueue x k.val then q[k] else []))
    chains := savedChains s c
    core := coreOf c }

/-- The queue words a save takes leave the core's queues (R14). -/
def takeQueues (s : State) (c : Nat) : State :=
  let x := getCtx s c
  modCore s (coreOf c) (fun k => { k with rq := Vector.ofFn (fun i : Fin 4 => if takesQueue x i.val then [] else k.rq[i]) })

/-- A supervisor's home context saved while the rotation scans its cluster (R427). Log 98 (DEDUCED). -/
def saveHome (s : State) (c : Nat) : State :=
  let v := saveOf s c
  modCluster (freeCtx (takeQueues s c) c false) (clusterOf c) (fun k => { k with homes := k.homes ++ [(c, v)] })

/-- The first poisoned word of the window bytes that a save of a context would read (R426), as a near address. -/
def poisonedSave (s : State) (c : Nat) : Option Nat :=
  let base := localBase (coreOf c)
  (s.poison.find? (fun w => base ≤ w * 8 && w * 8 < base + 0x30000 &&
    (List.range 8).any (fun i => coversByte (getCtx s c) (w * 8 + i - base)))).map (fun w => w * 8 - base)

/-- R372: the save of a task is complete: its contexts are freed, its window zeroed, and its contexts are held for the task that
asked (R358); a poisoned word that the save reads seals the core instead (R432, R440). Names a context of the task. -/
def saveCompleteEv (s : State) : State :=
  let c := leaderOf s (argN s 0)
  let ms := membersOf s c
  let die := homeDie s c
  if ms.any (fun m => (getCtx s m).mode != .saving) then s
  else
    match ms.findSome? (fun m => (poisonedSave s m).map (fun a => (m, a))), entOfCtx s c with
    | some (m, a), _ => containCtx s m 1 a false true
    | none, none => if (getCtx s c).run = 0 then saveHome s c else s
    | none, some e =>
      let vs := ms.map (saveOf s)
      let s1 := ms.foldl (fun s m => freeCtx (takeQueues s m) m false) s
      if e.members.contains c then
        let s2 := modEnt s1 die e.order (fun f => { f with state := .saved, saved := vs, members := [], victimFor := none })
        let s3 := match e.victimFor with
          | some o => modEnt s2 die o (fun f => if waitsPlace f then { f with heldFor := f.heldFor ++ ms } else f)
          | none => s2
        roomFreed s3 die
      else
        let s2 := modEnt s1 die e.order (fun f => { f with saved := vs, transit := { f.transit with runCtx := none } })
        roomFreed (postOnce s2 .replayPlacement [die, e.tag]) (dieOf c)

def execSaveComplete (s : State) : Host.Outcome State Fault Refusal := happens saveCompleteEv s

/- ---------------------------------------------------------------- the restore -/

/-- The bytes of a saved window, zero where the save did not cover them (R375). -/
def windowBytes (v : SavedCtx) : List Byte :=
  memRead v.bytes (winBase v.ctx) (winLen v.ctx)

/-- A member restored on its new context (R375, R376): registers, window, queue words ahead of later ones, and its chains go on; one whose
halt has retired ends once they have (R236). Log 64 (DESIGN CHOICE). -/
def restoreCtx (s : State) (m : RunMode) (c : Nat) (v : SavedCtx) : State :=
  let core := coreOf c
  let a := localBase core + winBase v.ctx
  let bs := windowBytes v
  let s1 := performBytes s a bs
  let x : Ctx := { v.ctx with
    view := moveView (mergeView v.ctx.view (getCtx s c).view) a bs.length s1.stamp
    ecnt := BitVec.ofNat 48 (sumEnergy [v.ctx.ecnt.toNat, (getCtx s c).ecnt.toNat])
    region := (getCtx s c).region + 1, mode := if v.ctx.halted then .halted else m }
  let s2 := putCtx s1 c x
  let s3 := modCore s2 core (fun k => { k with
    rq := Vector.ofFn (fun i : Fin 4 => (match v.words[i.val]? with | some w => w.2 | none => []) ++ k.rq[i]) })
  (List.range 4).foldl (fun s k => postOnce s .copyChainStart [core, k]) (settle s3 c)

/-- Where a supervisor's home context that the rotation has saved goes on: where it was, or, its core being sealed, on a free context of
the cluster; one that is bound to its core waits (R14, R376). Log 98 (DEDUCED). -/
def homeSpot (s : State) (h : Nat × SavedCtx) : Option Nat :=
  if !coreSealed s (coreOf h.1) then some h.1
  else if savedBound h.2 then none
  else (((coresOf (clusterOf h.1)).filter (fun k => !coreSealed s k)).flatMap ctxsOf).find? (fun d => (getCtx s d).mode == .free)

/-- A supervisor's home context that goes on after the rotation: the requests it has made follow it (R243). Log 98 (DEDUCED). -/
def returnHome (s : State) (h : Nat × SavedCtx) : State :=
  match homeSpot s h with
  | none => s
  | some c =>
    let m := match (getCluster s (clusterOf c)).part with | some p => runMode s p | none => .running
    let s1 := modCluster s (clusterOf c) (fun k => { k with homes := k.homes.filter (fun x => x.1 != h.1) })
    let s2 := { s1 with hreqs := s1.hreqs.map (fun r => if r.ctx = h.1 && r.tag = h.2.ctx.tag.toNat then { r with ctx := c } else r) }
    restoreCtx (beginRestore s2 c h.2) m c h.2

/-- The home contexts kept for a cluster go on, once the rotation has given it back (R427). Log 98 (DEDUCED). -/
def returnHomes (s : State) (cl : Nat) : State :=
  if (getCluster s cl).rotating then s else (getCluster s cl).homes.foldl returnHome s

/-- R375: a save has been read back and its task goes on. Names a context of the task. -/
def restoreCompleteEv (s : State) : State :=
  let c := leaderOf s (argN s 0)
  let ms := membersOf s c
  match entOfCtx s c with
  | none => s
  | some e =>
    if e.saved.isEmpty || ms.any (fun m => (getCtx s m).mode != .loading) then s
    else
      let s1 := (ms.zip e.saved).foldl (fun s p => restoreCtx s (runMode s e.part) p.1 p.2) s
      let s2 := modEnt s1 (homeDie s c) e.order (fun f => { f with
        saved := [], state := if f.state == .restoring then .placed else f.state })
      let s3 := if isWhistled s2 e.part then postOnce s2 .whistleSettled [e.part] else s2
      giveWay s3 c

def execRestoreComplete (s : State) : Host.Outcome State Fault Refusal := happens restoreCompleteEv s

/- ---------------------------------------------------------------- the Whistle -/

/-- The compute contexts of a partition. -/
def partCtxs (s : State) (part : Nat) : List Nat :=
  match getPart? s part with
  | none => []
  | some p => (p.cfg.clusters.flatMap coresOf).flatMap ctxsOf

/-- A context stopped by the Whistle (R380); of one that has halted only its records are left to suspend. -/
def whistleHalt (s : State) (c : Nat) : State :=
  let m := (getCtx s c).mode
  modCtx (haltIssue s c (if m == .halted then m else .whistled)) c (fun x => { x with settledAt := 0 })

/-- R379, R380: the stop signal reaches a partition: every context that holds a task stops as at a forced stop, but for the task
that is spared; one with a budx that is decided stops once it has retired (R244). Log 63 (DEDUCED). -/
def whistleStop (s : State) (part : Nat) (spare : Option Nat) : State :=
  let spared := match spare with | some c => membersOf s c | none => []
  let s1 := modPart s part (fun p => { p with
    whistled := true, spared := spare, settled := false, stopClk := s.dies.map (fun d => (d.1, d.2.counter)) })
  let s2 := (partCtxs s1 part).foldl (fun s c =>
    if spared.contains c || !(issuing (getCtx s c).mode || (getCtx s c).mode == .halted) || budxDue s c then s else whistleHalt s c) s1
  postOnce s2 .whistleSettled [part]

/-- Whether the oldest instruction of a context was a waiting one (R381); a flock's members wait as one (R299). Log 63 (DEDUCED). -/
def waits (s : State) (c : Nat) : Bool :=
  let l := getCtx s (leaderOf s c)
  (getCtx s c).waiting || ((getCtx s c).follower && l.waiting && wBits l.st 23 1 == 0)

/-- R381: the Whistle record of a context. Log 63 (DEDUCED). -/
def whistleRecord (s : State) (c : Nat) : List Byte :=
  let x := getCtx s c
  if x.mode == .free then leBytes 8 (2 ^ 50) ++ List.replicate 56 0
  else
    let q := (getCore s (coreOf c)).rq
    leBytes 8 (x.pc.toNat + wBits x.st 23 1 * 2 ^ 48 + bit (waits s c) * 2 ^ 49) ++
    leBytes 8 (x.tag.toNat + c % 2 ^ 16 * 2 ^ 32) ++
    x.sent.toList.flatMap (fun n => leBytes 4 n.toNat) ++
    x.recv.toList.flatMap (fun n => leBytes 4 n.toNat) ++
    leBytes 8 x.settledAt ++
    leBytes 8 (q[0].length + q[1].length * 16 + q[2].length * 256 + q[3].length * 4096)

/-- Whether a context of a stopped partition has not settled (R380): it issues, a save or a restore is under way, engine work that is not
suspended is left, or its task is about to end. -/
def unsettled (s : State) (c : Nat) : Bool :=
  match (getCtx s c).mode with
  | .free => false
  | .whistled => engineWork s c
  | .halted => workLeft s c true || (membersOf s c).all (fun m => !engineWork s m)
  | _ => true

/-- R380: every context of a stopped partition has settled: their records are written at the Whistle area, and a waiting request
is answered. Names the partition. Log 63 (DEDUCED). -/
def whistleSettledEv (s : State) : State :=
  let part := argN s 0
  match getPart? s part with
  | none => s
  | some p =>
    let spared := match p.spared with | some c => membersOf s c | none => []
    let cs := (partCtxs s part).filter (fun c => !spared.contains c)
    if !p.whistled || p.settled then s
    else
      let s0 := cs.foldl (fun s c =>
        let s1 := if issuing (getCtx s c).mode && !budxDue s c then whistleHalt s c else s
        modCtx s1 c (fun x => if x.mode != .free && x.settledAt == 0 && !unsettled s1 c then
          { x with settledAt := dieCounter s1 c } else x)) s
      if cs.any (unsettled s0) then postOnce s0 .whistleSettled [part]
      else
      let s1 := cs.foldl (fun s c => drain s c) s0
      let s2 := cs.foldl (fun s c => partWrite s part (p.cfg.whistle + 64 * c) (whistleRecord s c)) s1
      let s3 := modPart s2 part (fun p => { p with settled := true })
      (s3.hreqs.filter (fun r => r.part == part && r.code == 20 && r.stage == 1)).foldl (fun s r => postOnce s .hcallReply [r.id])
        { s3 with hreqs := s3.hreqs.map (fun r => if r.part == part && r.code == 20 && r.stage == 1 then { r with stage := 2, status := 1 } else r) }

def execWhistleSettled (s : State) : Host.Outcome State Fault Refusal := happens whistleSettledEv s

/-- A context released where it stopped (R380): an open hint window goes on, its records resume. Log 63 (DEDUCED). -/
def releaseCtx (s : State) (c : Nat) : State :=
  let m := (getCtx s c).mode
  if m != .whistled && m != .halted then s
  else
    let s1 := if m == .halted then settle s c
      else modCtx s c (fun x => { x with mode := if x.window.isSome then .stopping else .running, waiting := false })
    let s2 := (chansOf s1 c).foldl (fun s k => match runOf s (coreOf c) (chanIx k) with
      | some (_, q) => if q.suspended then resumeRecord s (coreOf c) (chanIx k) else s
      | none => s) s1
    (List.range 4).foldl (fun s k => postOnce s .copyChainStart [coreOf c, k]) s2

/-- R379, R380: a stopped partition is released. -/
def whistleRelease (s : State) (part : Nat) : State :=
  let s1 := modPart s part (fun p => { p with whistled := false, spared := none, settled := false })
  let s2 := (partCtxs s1 part).foldl releaseCtx s1
  (s2.dies.map Prod.fst).foldl wakeReady s2

end Sys2Proof.Machine
end

