-- ==== Sys2Proof/Machine/System.lean ====
section
/-! DEFINITION. Control registers (R28 to R32, R125, R238, R239), trap, sys, ebrk and tret (R240 to R242), budx (R244), seal, unseal,
scan.go and scan.q (R254, R398), and rpl.q (R252). -/

namespace Sys2Proof.Machine

/-- The record of the partition a context belongs to. -/
def partNow (s : State) (c : Nat) : Option PartSt := (partOf s c).bind (getPart? s)

/- ---------------------------------------------------------------- control registers -/

/-- The lowest mode that may name a control register (R29). -/
def crLevel (n : Nat) : Nat := if n < 32 then 0 else if n < 48 then 1 else 2

/-- Whether reading a control register is an event of R390: CHARGE, DCLK, ECNT, WP and CHSTAT. Log 107 (DEDUCED). -/
def crMarks (n : Nat) : Bool := n == 6 || n == 8 || n == 12 || (24 ≤ n && n < 32)

/-- The value of CHARGE, or of ECNT, that an mfc reads at its own retirement (R32). Log 12 (DEDUCED). -/
def chargeNow (s : State) (c : Nat) : Nat := (getCtx s c).charge.toNat + (if isMem c then 0 else 1)
def ecntNow (s : State) (c : Nat) : Nat :=
  if isMem c then (getCtx s c).ecnt.toNat else min (2 ^ 48 - 1) ((getCtx s c).ecnt.toNat + pJ 0)

/-- The value of a control register, zero-extended (R28, R30, R239); none for an unassigned number. Log 13 (DEDUCED). -/
def crRead (s : State) (c n : Nat) : Option Nat :=
  let x := getCtx s c
  let k := chanIx n
  match n with
  | 0 => some (stNow s c)
  | 1 => some x.tvec.toNat
  | 2 => some x.tframe.toNat
  | 3 => some x.tag.toNat
  | 4 => some x.pid.toNat
  | 5 => some x.budget.toNat
  | 6 => some (chargeNow s c)
  | 7 => some x.deadline.toNat
  | 8 => some (dieCounter s c)
  | 9 => some x.lwin.toNat
  | 10 => some x.flock.toNat
  | 11 => some x.hintgap.toNat
  | 12 => some (ecntNow s c)
  | 13 => some x.apxctl.toNat
  | 14 => some x.seed.toNat
  | 15 => some x.pfx.toNat
  | 16 => some x.pbind[k].toNat
  | 17 => some x.pbind[k].toNat
  | 18 => some x.pbind[k].toNat
  | 19 => some x.pbind[k].toNat
  | 20 => some x.chhead[k].toNat
  | 21 => some x.chhead[k].toNat
  | 22 => some x.chhead[k].toNat
  | 23 => some x.chhead[k].toNat
  | 24 => some x.wp[k].toNat
  | 25 => some x.wp[k].toNat
  | 26 => some x.wp[k].toNat
  | 27 => some x.wp[k].toNat
  | 28 => some (chstatVal s c k)
  | 29 => some (chstatVal s c k)
  | 30 => some (chstatVal s c k)
  | 31 => some (chstatVal s c k)
  | 32 => some (match partNow s c with | some p => p.svec.toNat | none => 0)
  | 33 => some x.sepc.toNat
  | 34 => some x.sest.toNat
  | 35 => some x.scode.toNat
  | 36 => some x.sarg.toNat
  | 37 => some (match partNow s c with | some p => p.dbgctl.toNat | none => 0)
  | 48 => some x.hepc.toNat
  | 49 => some x.hest.toNat
  | _ => none

/-- The effect of mfc (R238). Log 12 (DEDUCED), 107 (DEDUCED). -/
def mfcBody (n : Nat) : Body := fun _ s =>
  match crRead s s.cur n with
  | none => .trap illegal11
  | some v => .ok { st := s, val := some (w64 v), unv := crMarks n }

def execMfc (d : Reg) (c : Fin 64) (s : State) : Host.Outcome State Fault Refusal :=
  issue { i := .mfc d c, level := crLevel c.val, dst := some d } (mfcBody c.val) s

/-- Whether a value has bits above a register's width (R238). Log 14 (DEDUCED). -/
def tooWide (v bits : Nat) : Bool := v / 2 ^ bits != 0

/-- The fields of ST that mtc writes (R29, R30). -/
def stWrite (x : Ctx) (v : Nat) : Ctx := { x with st := w64 (putBits x.st.toNat 4 15 (bitsAt v 4 15)) }

/-- What an mtc writes into a register that a supervisor may write besides: DEADLINE, PID, TAG and LWIN (R28). Log 14 (DEDUCED). -/
def supWrite (x : Ctx) (n v : Nat) : Option Ctx :=
  match n with
  | 3 => if tooWide v 32 then none else some { x with tag := BitVec.ofNat 32 v }
  | 4 => if tooWide v 16 then none else some { x with pid := BitVec.ofNat 16 v }
  | 7 => some { x with deadline := w64 v }
  | 9 => some { x with lwin := w64 v }
  | _ => none

/-- What an mtc to a register without a row of its own writes (R28, R30, R238, R239, R253); none where it is refused. -/
def crWrite (x : Ctx) (n v : Nat) : Option Ctx :=
  match n with
  | 0 => if 4 < bitsAt v 4 3 then none else some (stWrite x v)
  | 1 => if tooWide v 48 || v % 4 != 0 then none else some { x with tvec := pc48 v }
  | 2 => if tooWide v 32 then none else some { x with tframe := BitVec.ofNat 32 (v / 64 * 64) }
  | 3 => if privOf x = 0 then none else supWrite x 3 v
  | 4 => if privOf x = 0 then none else supWrite x 4 v
  | 7 => if privOf x = 0 then none else supWrite x 7 v
  | 9 => if privOf x = 0 then none else supWrite x 9 v
  | 11 => if tooWide v 16 then none else some { x with hintgap := BitVec.ofNat 16 (min 16384 (max 64 v)) }
  | 13 => if tooWide v 24 || 16 < bitsAt v 1 5 then none else some { x with apxctl := w64 v }
  | 33 => if tooWide v 48 then none else some { x with sepc := pc48 v }
  | 34 => some { x with sest := w64 v }
  | 35 => if tooWide v 16 then none else some { x with scode := BitVec.ofNat 16 v }
  | 36 => some { x with sarg := w64 v }
  | 48 => if tooWide v 48 then none else some { x with hepc := pc48 v }
  | 49 => some { x with hest := w64 v }
  | _ => none

/-- The effect of an mtc to a register without a row of its own. Log 14 (DEDUCED). -/
def mtcBody (n : Nat) : Body := fun ws s =>
  match crWrite (cx s) n (src ws 0).toNat with
  | none => .trap illegal11
  | some x => .ok { st := putCtx s s.cur x }

def execMtc (a : Reg) (c : Fin 64) (s : State) : Host.Outcome State Fault Refusal :=
  issue { i := .mtc a c, level := crLevel c.val, srcs := [a] } (mtcBody c.val) s

/-- The effect of mtc to SEED (R31). -/
def mtcSeedBody : Body := fun ws s =>
  let v := (src ws 0).toNat
  if tooWide v 32 then .trap illegal11
  else .ok { st := setCur s (fun x => { x with seed := BitVec.ofNat 32 v, lfsr := if v = 0 then 1 else BitVec.ofNat 32 v }) }

def execMtcSeed (a : Reg) (s : State) : Host.Outcome State Fault Refusal :=
  issue { i := .mtcSeed a, srcs := [a] } mtcSeedBody s

/-- R125: whether a port binding may be written. -/
def bindOk (s : State) (c : Nat) (v : Word) : Bool :=
  wBits v 16 47 == 0 &&
    (if wBits v 63 1 = 0 then wBits v 0 16 == 0 else permitted s (coreOf c) (bindCore v))

/-- The effect of mtc to PBINDk (R125). -/
def mtcPbindBody (k : Fin 4) : Body := fun ws s =>
  if bindOk s s.cur (src ws 0) then .ok { st := setCur s (fun x => { x with
      pbind := x.pbind.set k (src ws 0), bound := x.bound || wBits (src ws 0) 63 1 == 1 }) }
  else .trap illegal11

def execMtcPbind (a : Reg) (k : Fin 4) (s : State) : Host.Outcome State Fault Refusal :=
  issue { i := .mtcPbind a k, srcs := [a] } (mtcPbindBody k) s

/-- The effect of mtc to SVEC (R239). -/
def mtcSvecBody : Body := fun ws s =>
  let v := (src ws 0).toNat
  match partOf s s.cur with
  | none => .trap illegal11
  | some p =>
    if tooWide v 48 || v % 4 ≠ 0 then .trap illegal11 else .ok { st := modPart s p (fun q => { q with svec := pc48 v }) }

def execMtcSvec (a : Reg) (s : State) : Host.Outcome State Fault Refusal :=
  issue { i := .mtcSvec a, level := 1, srcs := [a] } mtcSvecBody s

/-- The effect of mtc to DBGCTL (R239). -/
def mtcDbgctlBody : Body := fun ws s =>
  let v := (src ws 0).toNat
  match partOf s s.cur with
  | none => .trap illegal11
  | some p => if v / 2 ≠ 0 then .trap illegal11 else .ok { st := modPart s p (fun q => { q with dbgctl := w64 v }) }

def execMtcDbgctl (a : Reg) (s : State) : Host.Outcome State Fault Refusal :=
  issue { i := .mtcDbgctl a, level := 1, srcs := [a] } mtcDbgctlBody s

/- ---------------------------------------------------------------- trap, ebrk, sys, tret -/

/-- The effect of trap (R240): SOFTWARE after retirement, with the code and g[a]. -/
def trapBody (code : Nat) : Body := fun ws s =>
  .ok { st := s, after := some ⟨cSOFTWARE, 0, false, code, (src ws 0).toNat, none⟩ }

def execTrap (a : Reg) (k : Fin 4096) (s : State) : Host.Outcome State Fault Refusal :=
  issue { i := .trap a k, noEnd := true, srcs := [a] } (trapBody k.val) s

/-- Whether ebrk stops the partition of a context (R239, DBGCTL.EBS). -/
def ebsOf (s : State) (c : Nat) : Option Nat :=
  match partOf s c with
  | none => none
  | some p => match getPart? s p with
    | some q => if q.dbgctl.toNat % 2 = 1 then some p else none
    | none => none

/-- The effect of ebrk (R240): BREAK before retirement, or the Whistle with ebrk not retired. -/
def ebrkBody (code : Nat) : Body := fun ws s =>
  match ebsOf s s.cur with
  | some p => .wait (whistleStop s p none)
  | none => .trap ⟨cBREAK, 0, false, code, (src ws 0).toNat, none⟩

def execEbrk (a : Reg) (k : Fin 4096) (s : State) : Host.Outcome State Fault Refusal :=
  issue { i := .ebrk a k, noEnd := true, srcs := [a] } (ebrkBody k.val) s

/-- The effect of sys (R241). -/
def sysBody (code : Nat) : Body := fun ws s =>
  let x := cx s
  let sv := match partNow s s.cur with | some p => p.svec.toNat | none => 0
  if privOf x ≠ 0 || sv = 0 then .trap illegal11
  else
    .ok { st := setCur s (fun x => { x with
            sepc := pc48 (x.pc.toNat + 4), sest := w64 (stNow s s.cur), scode := BitVec.ofNat 16 code, sarg := src ws 0
            st := w64 (putBits x.st.toNat 0 2 1) })
          pc := some sv, sync := true, unv := true }

def execSys (a : Reg) (k : Fin 4096) (s : State) : Host.Outcome State Fault Refusal :=
  issue { i := .sys a k, noEnd := true, srcs := [a] } (sysBody k.val) s

/-- The effect of tret (R242): the trap return with ST.IH = 1, else the return from supervisor or hypervisor mode. -/
def tretBody : Body := fun _ s =>
  match (if wBits (cx s).st 23 1 = 1 then trapReturn s s.cur else modeReturn (cx s)) with
  | .error t => .trap t
  | .ok (x, pc) => .ok { st := putCtx s s.cur x, pc := some pc }

def execTret (s : State) : Host.Outcome State Fault Refusal := issue { i := .tret, noEnd := true } tretBody s

/- ---------------------------------------------------------------- budx -/

/-- A budx asked of the Drover of the die (R244). Log 20 (DEDUCED). -/
def askBudx (s : State) (c n : Nat) : State :=
  let s1 := modCtx (withdrawBudx s c) c (fun x => { x with budx := some (n, none) })
  addReq s1 (dieOf c) { bareReq 2 with ctx := c, part := (partOf s c).getD 0, pid := pidOf s c, n := n, opc := pcNow s }

/-- A budx that the Drover has decided in one member (R244): BUDGET rises by the member's amount where the code is ADM_OK, a refusal in the
handler of a BUDGET trap is kept (R350), and the
last member to retire clears the leader's request; in a flock's handler the leader is the only one. Log 20 (DEDUCED), 139 (DEDUCED). -/
def endBudx (s : State) (c lead n code : Nat) : State :=
  let s1 := modCtx s c (fun x => if code = 0 then { x with budget := w64 (x.budget.toNat + n), refused := false }
    else { x with refused := x.refused || (wBits x.st 23 1 == 1 && x.latch.cause == cBUDGET) })
  if (membersOf s c).getLast? == some c || (c = lead && wBits (getCtx s c).st 23 1 = 1) then modCtx s1 lead (fun x => { x with budx := none }) else s1

/-- The effect of budx (R244). Log 20 (DEDUCED). -/
def budxBody : Body := fun ws s =>
  let c := s.cur
  let n := (src ws 0).toNat
  let lead := leaderOf s c
  if n = 0 || 2 ^ 32 ≤ n then .trap illegal11
  else
    match (getCtx s lead).budx with
    | some (m, some code) =>
      if c = lead && m ≠ n then .wait (askBudx s c n)
      else .ok { st := endBudx s c lead n code, val := some (w64 code), wu := 4, unv := true }
    | some (m, none) => if c = lead && m ≠ n then .wait (askBudx s c n) else .wait s
    | none => .wait (if c = lead then askBudx s c n else s)

def execBudx (a d : Reg) (s : State) : Host.Outcome State Fault Refusal :=
  issue { i := .budx a d, wu := none, srcs := [a], dst := some d } budxBody s

/- ---------------------------------------------------------------- seal and scan -/

/-- The core a seal or scan instruction names, in a cluster of the caller's partition (R254). -/
def namedCore (s : State) (c : Nat) (v : Word) : Option Nat :=
  let core := v.toNat
  if 2 ^ 14 ≤ core then none
  else if (partOf s c).isSome && (getCluster s (clusterOfCore core)).part == partOf s c then some core
  else none

/-- A core sealed (R254): its tasks give way and its partition's revocation test is due (R353). In the Fold, and on a core already
sealed, nothing changes. -/
def sealCore (s : State) (core part : Nat) : State :=
  let k := getCore s core
  if k.sealed || k.fold != .service then s
  else postOnce (clearCore (modCore s core (fun k => { k with sealed := true })) core) .revocationTest [dieOfCore core, part]

/-- The effect of seal (R254, R398). -/
def sealBody : Body := fun ws s =>
  match namedCore s s.cur (src ws 0), partOf s s.cur with
  | some core, some p =>
    if !isMem s.cur && core = coreOf s.cur then .trap illegal11 else .ok { st := sealCore s core p }
  | _, _ => .trap illegal11

def execSeal (a : Reg) (s : State) : Host.Outcome State Fault Refusal :=
  issue { i := .seal a, level := 1, srcs := [a] } sealBody s

/-- The effect of unseal (R254, R398): refused for a core that is retired, being scanned, or in the Fold. -/
def unsealBody : Body := fun ws s =>
  match namedCore s s.cur (src ws 0) with
  | some core =>
    let k := getCore s core
    if k.fold != .service || k.scan = 1 then .trap illegal11
    else
      let s1 := returnHomes (modCore s core (fun k => { k with sealed := false })) (clusterOfCore core)
      .ok { st := wakeReady s1 (dieOfCore core) }
  | none => .trap illegal11

def execUnseal (a : Reg) (s : State) : Host.Outcome State Fault Refusal :=
  issue { i := .unseal a, level := 1, srcs := [a] } unsealBody s

/-- The effect of scan.go (R254, R406): the stored patterns start, and an armed fault disarms. -/
def scanGoBody : Body := fun ws s =>
  match namedCore s s.cur (src ws 0) with
  | some core =>
    let k := getCore s core
    if !k.sealed || k.fold != .service || k.errScan || k.scan = 1 || (ctxsOf core).any (fun c => (getCtx s c).mode != .free) then .trap illegal11
    else .ok { st := postOnce (modCore (ungate s (clusterOfCore core)) core (fun k => { k with scan := 1, armed := none })) .scanPatternsEnd [core, 0] }
  | none => .trap illegal11

def execScanGo (a : Reg) (s : State) : Host.Outcome State Fault Refusal :=
  issue { i := .scanGo a, level := 1, srcs := [a] } scanGoBody s

/-- The word of scan.q (R254). -/
def scanWord (s : State) (core : Nat) : Nat :=
  let k := getCore s core
  k.scan + bit (coreSealed s core) * 2 ^ 6 + bit (k.fold == .retired) * 2 ^ 7 + k.score * 2 ^ 16

/-- The effect of scan.q (R254). -/
def scanQBody : Body := fun ws s =>
  match namedCore s s.cur (src ws 0) with
  | some core => result s (w64 (scanWord s core))
  | none => .trap illegal11

def execScanQ (d b : Reg) (s : State) : Host.Outcome State Fault Refusal :=
  issue { i := .scanQ d b, level := 1, srcs := [b], dst := some d } scanQBody s

/- ---------------------------------------------------------------- rpl.q -/

/-- The word of rpl.q (R252), before its own mark. -/
def rplWord (s : State) (c : Nat) : Nat :=
  let part := match partNow s c with | some p => p.frac * 2 ^ 32 + bit p.conf * 16 | none => 0
  let task := match entOfCtx s c with
    | some e => bit e.unv * 4 + bit (e.transit.phase != 0) * 2 + bit e.telig
    | none => 0
  part + bit ((getCtx s c).run != 0) * 8 + task

def execRplQ (d : Reg) (s : State) : Host.Outcome State Fault Refusal :=
  issue { i := .rplQ d, kind := .compute, dst := some d }
    (fun _ s => .ok { st := s, val := some (w64 (rplWord s s.cur)), unv := true }) s

end Sys2Proof.Machine
end

