-- ==== Sys2Proof/Machine/Almanac.lean ====
section
/-! DEFINITION. The Almanac (R277 to R283): its 480 records as k.lda reads them, and the properties of an instruction word that its
descriptor gives, for the output check (R267). -/

namespace Sys2Proof.Machine

/-- The classes of R90 and R279. -/
inductive DCls where
  | alu | mul | div | mem | fence | amo | obj | objw | port | move | simd | simd2 | tidx | tset | fp | fdiv | cvt | qnt | sfn
  | mma | mq | acc | drnT | vec | cpy | spawn | card | budx | apx | rmem | sys
  deriving DecidableEq, Repr

/-- The figures of a class: WU, WUD, BOUND, BOUNDD, LAT, ECLS and WUF. -/
structure Figs where
  wu : Nat
  wud : Nat
  bound : Nat
  boundd : Nat
  lat : Nat
  ecls : Nat
  wuf : Nat
  deriving DecidableEq, Repr

/-- The figures of R90 and R279 by class; k.ld and k.st have the root instructions' charge and bound.
Log 66 (DEDUCED), 115 (DESIGN CHOICE). -/
def figs : DCls → Figs
  | .alu => ⟨1, 0, 9, 0, 1, 0, 0⟩
  | .mul => ⟨2, 0, 11, 0, 3, 0, 0⟩
  | .div => ⟨16, 0, 40, 0, 20, 0, 0⟩
  | .mem => ⟨1, 0, 24, 0, 3, 3, 0⟩
  | .fence => ⟨1, 0, 64, 0, 1, 0, 0⟩
  | .amo => ⟨2, 0, 48, 0, 3, 3, 0⟩
  | .obj => ⟨2, 0, 48, 0, 3, 3, 0⟩
  | .objw => ⟨2, 0, 9, 0, 3, 3, 0⟩
  | .port => ⟨2, 0, 48, 0, 1, 0, 0⟩
  | .move => ⟨1, 0, 24, 0, 1, 0, 0⟩
  | .simd => ⟨1, 0, 9, 0, 2, 2, 0⟩
  | .simd2 => ⟨2, 0, 12, 0, 2, 2, 0⟩
  | .tidx => ⟨4, 0, 16, 0, 2, 2, 0⟩
  | .tset => ⟨16, 0, 48, 0, 8, 2, 0⟩
  | .fp => ⟨1, 2, 12, 14, 4, 1, 0⟩
  | .fdiv => ⟨16, 32, 40, 72, 20, 1, 0⟩
  | .cvt => ⟨1, 0, 9, 0, 4, 1, 0⟩
  | .qnt => ⟨4, 0, 16, 0, 2, 2, 0⟩
  | .sfn => ⟨8, 0, 32, 0, 12, 1, 0⟩
  | .mma => ⟨16, 0, 9, 0, 1, 4, 0⟩
  | .mq => ⟨1, 0, 9, 0, 1, 4, 0⟩
  | .acc => ⟨4, 0, 9, 0, 1, 4, 0⟩
  | .drnT => ⟨8, 0, 9, 0, 1, 4, 0⟩
  | .vec => ⟨2, 0, 9, 0, 1, 5, 1⟩
  | .cpy => ⟨1, 0, 9, 0, 1, 6, 2⟩
  | .spawn => ⟨4, 0, 9, 0, 1, 0, 0⟩
  | .card => ⟨8, 0, 9, 0, 1, 0, 0⟩
  | .budx => ⟨4, 0, 9, 0, 1, 0, 0⟩
  | .apx => ⟨4, 0, 9, 0, 1, 0, 3⟩
  | .rmem => ⟨1, 0, 9, 0, 3, 3, 0⟩
  | .sys => ⟨1, 0, 9, 0, 1, 0, 0⟩

/-- A descriptor (R279): FIXED, FMASK, FORM, its class, FLAGS and its name. -/
structure Desc where
  fixed : Nat
  mask : Nat
  form : Nat
  cls : DCls
  flags : Nat
  name : String
  deriving DecidableEq, Repr

/-- Descriptors 1 to 25 in ascending order of FIXED (R279). -/
def descs0 : List Desc := [
  ⟨0x04000000, 0xFC00007F, 0, .alu, 0, "add"⟩,
  ⟨0x04000001, 0xFC00007F, 0, .alu, 0, "sub"⟩,
  ⟨0x04000002, 0xFC00007F, 0, .mul, 0, "mul"⟩,
  ⟨0x04000003, 0xFC00067F, 0, .mul, 0, "mulh"⟩,
  ⟨0x04000004, 0xFC00067F, 0, .mul, 0, "mulhu"⟩,
  ⟨0x04000005, 0xFC00067F, 0, .div, 0, "div"⟩,
  ⟨0x04000006, 0xFC00067F, 0, .div, 0, "divu"⟩,
  ⟨0x04000007, 0xFC00067F, 0, .div, 0, "rem"⟩,
  ⟨0x04000008, 0xFC00067F, 0, .div, 0, "remu"⟩,
  ⟨0x04000009, 0xFC00067F, 0, .alu, 0, "and"⟩,
  ⟨0x0400000A, 0xFC00067F, 0, .alu, 0, "or"⟩,
  ⟨0x0400000B, 0xFC00067F, 0, .alu, 0, "xor"⟩,
  ⟨0x0400000C, 0xFC00067F, 0, .alu, 0, "andn"⟩,
  ⟨0x0400000D, 0xFC00067F, 0, .alu, 0, "shl"⟩,
  ⟨0x0400000E, 0xFC00067F, 0, .alu, 0, "shr"⟩,
  ⟨0x0400000F, 0xFC00067F, 0, .alu, 0, "sar"⟩,
  ⟨0x04000010, 0xFC00067F, 0, .alu, 0, "rot"⟩,
  ⟨0x04000011, 0xFC00067F, 0, .alu, 0, "min"⟩,
  ⟨0x04000012, 0xFC00067F, 0, .alu, 0, "max"⟩,
  ⟨0x04000013, 0xFC00067F, 0, .alu, 0, "minu"⟩,
  ⟨0x04000014, 0xFC00067F, 0, .alu, 0, "maxu"⟩,
  ⟨0x04000015, 0xFC00067F, 0, .alu, 0, "seq"⟩,
  ⟨0x04000016, 0xFC00067F, 0, .alu, 0, "sne"⟩,
  ⟨0x04000017, 0xFC00067F, 0, .alu, 0, "slt"⟩,
  ⟨0x04000018, 0xFC00067F, 0, .alu, 0, "sltu"⟩]

/-- Descriptors 26 to 50 in ascending order of FIXED (R279). -/
def descs1 : List Desc := [
  ⟨0x04000019, 0xFC00003F, 0, .alu, 0, "sel"⟩,
  ⟨0x08000000, 0xFC000000, 1, .alu, 0, "addi"⟩,
  ⟨0x0C000000, 0xFC000000, 1, .alu, 0, "andi"⟩,
  ⟨0x10000000, 0xFC000000, 1, .alu, 0, "ori"⟩,
  ⟨0x14000000, 0xFC000000, 1, .alu, 0, "xori"⟩,
  ⟨0x18000000, 0xFC00FFC0, 1, .alu, 0, "shli"⟩,
  ⟨0x18000040, 0xFC00FFC0, 1, .alu, 0, "shri"⟩,
  ⟨0x18000080, 0xFC00FFC0, 1, .alu, 0, "sari"⟩,
  ⟨0x180000C0, 0xFC00FFC0, 1, .alu, 0, "roti"⟩,
  ⟨0x1C000000, 0xFC1C0000, 1, .alu, 0, "ldk"⟩,
  ⟨0x20000000, 0xFC00FFFF, 0, .alu, 0, "mov"⟩,
  ⟨0x20000001, 0xFC00FFFF, 0, .alu, 0, "clz"⟩,
  ⟨0x20000002, 0xFC00FFFF, 0, .alu, 0, "ctz"⟩,
  ⟨0x20000003, 0xFC00FFFF, 0, .alu, 0, "popc"⟩,
  ⟨0x20000004, 0xFC00FFC7, 0, .alu, 0, "ext"⟩,
  ⟨0x20000005, 0xFC000007, 0, .alu, 0, "bfx"⟩,
  ⟨0x20000006, 0xFC000407, 0, .alu, 0, "bfi"⟩,
  ⟨0x28000000, 0xFC000000, 2, .alu, 0, "beq"⟩,
  ⟨0x2C000000, 0xFC000000, 2, .alu, 0, "bne"⟩,
  ⟨0x30000000, 0xFC000000, 2, .alu, 0, "blt"⟩,
  ⟨0x34000000, 0xFC000000, 2, .alu, 0, "bge"⟩,
  ⟨0x38000000, 0xFC000000, 2, .alu, 0, "bltu"⟩,
  ⟨0x3C000000, 0xFC000000, 2, .alu, 0, "bgeu"⟩,
  ⟨0x40000000, 0xFC000000, 3, .alu, 0, "jmp"⟩,
  ⟨0x44000000, 0xFC000000, 3, .alu, 0, "call"⟩]

/-- Descriptors 51 to 75 in ascending order of FIXED (R279). -/
def descs2 : List Desc := [
  ⟨0x48000000, 0xFFE0FFFF, 0, .alu, 0, "jr"⟩,
  ⟨0x48000001, 0xFC00FFFF, 0, .alu, 0, "callr"⟩,
  ⟨0x48000002, 0xFFFFFFFF, 0, .alu, 0, "ret"⟩,
  ⟨0x48000003, 0xFFFFFFF3, 0, .alu, 0, "loopx"⟩,
  ⟨0x4C000000, 0xFC00007F, 8, .alu, 0, "loop"⟩,
  ⟨0x50000000, 0xFC000000, 4, .mem, 0, "ld"⟩,
  ⟨0x54000000, 0xFC000000, 4, .mem, 0, "st"⟩,
  ⟨0x58000000, 0xFE00E000, 4, .mem, 32, "ld.v"⟩,
  ⟨0x58002000, 0xFE00E000, 4, .mem, 32, "st.v"⟩,
  ⟨0x5C000000, 0xFC000703, 0, .amo, 32, "amo.add"⟩,
  ⟨0x5C000100, 0xFC000703, 0, .amo, 32, "amo.min"⟩,
  ⟨0x5C000200, 0xFC000703, 0, .amo, 32, "amo.max"⟩,
  ⟨0x5C000300, 0xFC000703, 0, .amo, 32, "amo.and"⟩,
  ⟨0x5C000400, 0xFC000703, 0, .amo, 32, "amo.or"⟩,
  ⟨0x5C000500, 0xFC000703, 0, .amo, 32, "amo.xor"⟩,
  ⟨0x5C000600, 0xFC000703, 0, .amo, 32, "amo.swp"⟩,
  ⟨0x5C000700, 0xFC000703, 0, .amo, 32, "amo.cas"⟩,
  ⟨0x60000000, 0xFC000007, 0, .mem, 0, "ld"⟩,
  ⟨0x60000001, 0xFC000007, 0, .mem, 0, "st"⟩,
  ⟨0x60000002, 0xFFFFFF07, 0, .fence, 0, "fence"⟩,
  ⟨0x64000000, 0xFFE007FF, 0, .obj, 32, "bar.init"⟩,
  ⟨0x64000001, 0xFC00FFFF, 0, .obj, 32, "bar.arr"⟩,
  ⟨0x64000002, 0xFC00FFFF, 0, .obj, 32, "bar.drop"⟩,
  ⟨0x64000003, 0xFC0007FF, 0, .objw, 40, "bar.wait"⟩,
  ⟨0x64000004, 0xFC00FFFF, 0, .obj, 32, "bar.q"⟩]

/-- Descriptors 76 to 100 in ascending order of FIXED (R279). -/
def descs3 : List Desc := [
  ⟨0x64000005, 0xFFE007FF, 0, .obj, 32, "rng.init"⟩,
  ⟨0x64000006, 0xFC0007FF, 0, .obj, 32, "rng.rsv"⟩,
  ⟨0x64000007, 0xFFE007FF, 0, .obj, 32, "rng.pub"⟩,
  ⟨0x64000008, 0xFC0007FF, 0, .objw, 40, "rng.take"⟩,
  ⟨0x64000009, 0xFC00FFFF, 0, .obj, 32, "rng.q"⟩,
  ⟨0x68000000, 0xFC1FFFF9, 0, .port, 32, "ppoll"⟩,
  ⟨0x68000001, 0xFC1FFFF9, 0, .port, 32, "pdrain"⟩,
  ⟨0x6C000000, 0xFC001000, 4, .mem, 16, "fld"⟩,
  ⟨0x6C001000, 0xFC001000, 4, .mem, 16, "fst"⟩,
  ⟨0x70000000, 0xFC0007FF, 0, .move, 16, "push"⟩,
  ⟨0x70000001, 0xFC0007FF, 0, .move, 16, "pull"⟩,
  ⟨0x74000000, 0xFC0003F3, 6, .simd, 32, "vadd"⟩,
  ⟨0x74000010, 0xFC0003F3, 6, .simd, 32, "vsub"⟩,
  ⟨0x74000020, 0xFC0003F3, 6, .simd2, 32, "vmul"⟩,
  ⟨0x74000030, 0xFC0003F3, 6, .simd2, 32, "vmla"⟩,
  ⟨0x74000040, 0xFC0003FF, 6, .simd, 32, "vmin"⟩,
  ⟨0x74000050, 0xFC0003FF, 6, .simd, 32, "vmax"⟩,
  ⟨0x74000060, 0xFC03C3F3, 6, .simd, 32, "vabs"⟩,
  ⟨0x74000070, 0xFC03C3F3, 6, .simd, 32, "vneg"⟩,
  ⟨0x74000080, 0xFC0003FF, 6, .simd, 32, "vand"⟩,
  ⟨0x74000090, 0xFC0003FF, 6, .simd, 32, "vor"⟩,
  ⟨0x740000A0, 0xFC0003FF, 6, .simd, 32, "vxor"⟩,
  ⟨0x740000B0, 0xFC0003FF, 6, .simd, 32, "vandn"⟩,
  ⟨0x740000C0, 0xFC0003F3, 6, .simd, 32, "vshl"⟩,
  ⟨0x740000D0, 0xFC0003FF, 6, .simd, 32, "vshr"⟩]

/-- Descriptors 101 to 125 in ascending order of FIXED (R279). -/
def descs4 : List Desc := [
  ⟨0x740000E0, 0xFC0003FF, 6, .simd, 32, "vceq"⟩,
  ⟨0x740000F0, 0xFC0003FF, 6, .simd, 32, "vclt"⟩,
  ⟨0x74000100, 0xFC0003FF, 6, .simd, 32, "vcle"⟩,
  ⟨0x74000110, 0xFC0003FF, 6, .simd, 32, "vsel"⟩,
  ⟨0x78000000, 0xFC0003F1, 6, .simd2, 33, "vfadd"⟩,
  ⟨0x78000010, 0xFC0003F1, 6, .simd2, 33, "vfsub"⟩,
  ⟨0x78000020, 0xFC0003F1, 6, .simd2, 33, "vfmul"⟩,
  ⟨0x78000030, 0xFC0003F1, 6, .simd2, 33, "vfma"⟩,
  ⟨0x78000040, 0xFC0003FF, 6, .simd2, 33, "vfmin"⟩,
  ⟨0x78000050, 0xFC0003FF, 6, .simd2, 33, "vfmax"⟩,
  ⟨0x78000060, 0xFC03C3FF, 6, .simd2, 33, "vfabs"⟩,
  ⟨0x78000070, 0xFC03C3FF, 6, .simd2, 33, "vfneg"⟩,
  ⟨0x78000080, 0xFC0003FF, 6, .simd2, 33, "vfceq"⟩,
  ⟨0x78000090, 0xFC0003FF, 6, .simd2, 33, "vfclt"⟩,
  ⟨0x780000A0, 0xFC0003FF, 6, .simd2, 33, "vfcle"⟩,
  ⟨0x7C000000, 0xFC0003FF, 6, .simd, 32, "vperm"⟩,
  ⟨0x7C000020, 0xFC0003FC, 6, .simd2, 32, "vdot4"⟩,
  ⟨0x7C000040, 0xFC03C3FF, 6, .simd2, 32, "vred.add"⟩,
  ⟨0x7C000060, 0xFC03C3FF, 6, .simd2, 32, "vred.min"⟩,
  ⟨0x7C000080, 0xFC03C3FF, 6, .simd2, 32, "vred.max"⟩,
  ⟨0x7C0000A0, 0xFC3C03EF, 6, .simd, 32, "vsplat"⟩,
  ⟨0x7C0000C0, 0xFC3C03E0, 6, .simd, 32, "vins"⟩,
  ⟨0x7C0000E0, 0xFFC003E0, 6, .simd, 32, "vext"⟩,
  ⟨0x80000000, 0xFC0087FF, 0, .tidx, 32, "tidx"⟩,
  ⟨0x80000001, 0xFE00FFF1, 0, .tset, 32, "tset"⟩]

/-- Descriptors 126 to 150 in ascending order of FIXED (R279). -/
def descs5 : List Desc := [
  ⟨0x84000000, 0xFC0000BF, 0, .fp, 33, "fadd"⟩,
  ⟨0x84000001, 0xFC0000BF, 0, .fp, 33, "fsub"⟩,
  ⟨0x84000002, 0xFC0000BF, 0, .fp, 33, "fmul"⟩,
  ⟨0x84000003, 0xFC0000BF, 0, .fp, 33, "fma"⟩,
  ⟨0x84000004, 0xFC0000BF, 0, .fdiv, 33, "fdiv"⟩,
  ⟨0x84000005, 0xFC00F8BF, 0, .fdiv, 33, "fsqrt"⟩,
  ⟨0x84000006, 0xFC0007BF, 0, .fp, 33, "fmin"⟩,
  ⟨0x84000007, 0xFC0007BF, 0, .fp, 33, "fmax"⟩,
  ⟨0x84000008, 0xFC0007BF, 0, .fp, 33, "fcmp"⟩,
  ⟨0x88000000, 0xFC00C000, 0, .cvt, 33, "cvt"⟩,
  ⟨0x880000F0, 0xFFE0C7FF, 0, .sys, 32, "fmtw"⟩,
  ⟨0x880000F1, 0xFC1FC7FF, 0, .sys, 32, "fmtr"⟩,
  ⟨0x8C000000, 0xFC0003C0, 6, .qnt, 33, "qnt"⟩,
  ⟨0x8C000040, 0xFC0003C0, 6, .qnt, 33, "dqt"⟩,
  ⟨0x8C000080, 0xFC3FFFF8, 6, .sys, 32, "amx.rd"⟩,
  ⟨0x8C0000C0, 0xFFFFFFFC, 6, .sys, 32, "amx.clr"⟩,
  ⟨0x90000000, 0xFC00F8FF, 0, .sfn, 33, "fsin"⟩,
  ⟨0x90000001, 0xFC00F8FF, 0, .sfn, 33, "fcos"⟩,
  ⟨0x90000002, 0xFC00F8FF, 0, .sfn, 33, "fexp2"⟩,
  ⟨0x90000003, 0xFC00F8FF, 0, .sfn, 33, "flog2"⟩,
  ⟨0x90000004, 0xFC00F8FF, 0, .sfn, 33, "frcp"⟩,
  ⟨0x90000005, 0xFC00F8FF, 0, .sfn, 33, "frsq"⟩,
  ⟨0x90000006, 0xFC00F8FF, 0, .sfn, 33, "ftanh"⟩,
  ⟨0x94000000, 0xFC003FFF, 7, .sys, 32, "fmtp"⟩,
  ⟨0x98000000, 0xFFF8003C, 5, .mma, 41, "mma"⟩]

/-- Descriptors 151 to 175 in ascending order of FIXED (R279). -/
def descs6 : List Desc := [
  ⟨0x98080000, 0xFFF8003C, 5, .mma, 41, "mma.l"⟩,
  ⟨0x98100000, 0xFFF8003C, 5, .mma, 41, "mma.z"⟩,
  ⟨0x98180000, 0xFFF8003C, 5, .mma, 41, "mma.z.l"⟩,
  ⟨0x98200000, 0xFFFFFE3C, 5, .mq, 40, "accz"⟩,
  ⟨0x98280000, 0xFFF8003C, 5, .acc, 40, "accld"⟩,
  ⟨0x98300000, 0xFFF80000, 5, .acc, 41, "drn"⟩,
  ⟨0x98380000, 0xFFF80000, 5, .drnT, 41, "drn.t"⟩,
  ⟨0x98400000, 0xFFF8003C, 5, .acc, 40, "psum.add"⟩,
  ⟨0x98480000, 0xFFF83FFF, 5, .mq, 32, "mq.stat"⟩,
  ⟨0x98500000, 0xFFF83FFC, 5, .mq, 32, "mq.nan"⟩,
  ⟨0x98580000, 0xFFF83FFF, 5, .mq, 32, "mq.cap"⟩,
  ⟨0x99000000, 0xFFF80000, 5, .vec, 41, "vx.ew"⟩,
  ⟨0x99080000, 0xFFF80007, 5, .vec, 41, "vx.red"⟩,
  ⟨0x99100000, 0xFFF80007, 5, .vec, 41, "vx.cvt"⟩,
  ⟨0x99180000, 0xFFF80007, 5, .vec, 41, "vx.sfn"⟩,
  ⟨0x99200000, 0xFFF8003F, 5, .vec, 41, "vx.gth"⟩,
  ⟨0x99280000, 0xFFF8003F, 5, .vec, 41, "vx.sct"⟩,
  ⟨0x9A000000, 0xFFF83E3C, 5, .cpy, 40, "cpy.go"⟩,
  ⟨0x9B000000, 0xFFF8003F, 5, .spawn, 40, "task.spawn"⟩,
  ⟨0x9B080000, 0xFFF8003F, 5, .card, 40, "task.card"⟩,
  ⟨0x9C000000, 0xFFE0FFC7, 0, .sys, 32, "tok.exp"⟩,
  ⟨0x9C000001, 0xFFFFFFC7, 0, .sys, 40, "tok.wait.src"⟩,
  ⟨0x9C000002, 0xFFFFFFC7, 0, .sys, 40, "tok.wait.vis"⟩,
  ⟨0x9C000003, 0xFFE0FFC7, 0, .sys, 32, "tok.bind"⟩,
  ⟨0x9C000004, 0xFC1FFFC7, 0, .sys, 32, "tok.rd"⟩]

/-- Descriptors 176 to 200 in ascending order of FIXED (R279). -/
def descs7 : List Desc := [
  ⟨0x9C000005, 0xFFFFFE3F, 0, .sys, 40, "efence"⟩,
  ⟨0x9C000006, 0xFC1FFFFF, 0, .sys, 32, "ebusy"⟩,
  ⟨0xA0000000, 0xFC00FFFF, 0, .sys, 40, "task.join"⟩,
  ⟨0xA0000001, 0xFFE0FFFF, 0, .sys, 0, "halt"⟩,
  ⟨0xA0000002, 0xFC1FFFFF, 0, .sys, 32, "flock.id"⟩,
  ⟨0xA4000000, 0xFC00F0FF, 9, .sys, 0, "mfc"⟩,
  ⟨0xA4001000, 0xFC00F0FF, 9, .sys, 0, "mtc"⟩,
  ⟨0xA4002000, 0xFC1FF000, 9, .sys, 0, "trap"⟩,
  ⟨0xA4003000, 0xFFFFFFFF, 9, .sys, 0, "tret"⟩,
  ⟨0xA4004000, 0xFC1FF000, 9, .sys, 0, "sys"⟩,
  ⟨0xA4005000, 0xFC00F000, 9, .sys, 2, "hcall"⟩,
  ⟨0xA4006000, 0xFC1FF000, 9, .sys, 0, "ebrk"⟩,
  ⟨0xA4007000, 0xFC00FFFF, 9, .budx, 8, "budx"⟩,
  ⟨0xA4008000, 0xFC1FFFFF, 9, .sys, 2, "seal"⟩,
  ⟨0xA4009000, 0xFC1FFFFF, 9, .sys, 2, "unseal"⟩,
  ⟨0xA400A000, 0xFC1FFFFF, 9, .sys, 2, "scan.go"⟩,
  ⟨0xA400B000, 0xFC00FFFF, 9, .sys, 2, "scan.q"⟩,
  ⟨0xA8000000, 0xFC00FFFF, 9, .sys, 32, "phint"⟩,
  ⟨0xAC000000, 0xFE0007FF, 0, .apx, 32, "apx.beg"⟩,
  ⟨0xAC000001, 0xFFFFFFFF, 0, .sys, 32, "apx.end"⟩,
  ⟨0xAC000002, 0xFFE0FFFF, 0, .sys, 32, "apx.inv"⟩,
  ⟨0xAC000003, 0xFC00FFFF, 0, .sys, 32, "apx.q"⟩,
  ⟨0xAC000004, 0xFC1FFFFF, 0, .sys, 32, "rpl.q"⟩,
  ⟨0xC0000000, 0xFE1087FF, 0, .alu, 64, "k.add"⟩,
  ⟨0xC0000001, 0xFE1087FF, 0, .alu, 64, "k.sub"⟩]

/-- Descriptors 201 to 225 in ascending order of FIXED (R279). -/
def descs8 : List Desc := [
  ⟨0xC0000002, 0xFE1087FF, 0, .alu, 64, "k.and"⟩,
  ⟨0xC0000003, 0xFE1087FF, 0, .alu, 64, "k.or"⟩,
  ⟨0xC0000004, 0xFE1087FF, 0, .alu, 64, "k.xor"⟩,
  ⟨0xC0000005, 0xFE1087FF, 0, .alu, 64, "k.shl"⟩,
  ⟨0xC0000006, 0xFE1087FF, 0, .alu, 64, "k.shr"⟩,
  ⟨0xC0000007, 0xFE1087FF, 0, .alu, 64, "k.sar"⟩,
  ⟨0xC0000008, 0xFE1087FF, 0, .alu, 64, "k.mul"⟩,
  ⟨0xC0000009, 0xFE1087FF, 0, .alu, 64, "k.slt"⟩,
  ⟨0xC000000A, 0xFE1087FF, 0, .alu, 64, "k.sltu"⟩,
  ⟨0xC000000B, 0xFE1087FF, 0, .alu, 64, "k.seq"⟩,
  ⟨0xC4000000, 0xFE100000, 1, .alu, 64, "k.addi"⟩,
  ⟨0xC8000000, 0xFE1C0000, 1, .alu, 64, "k.ldk"⟩,
  ⟨0xCC000000, 0xFE100000, 4, .rmem, 64, "k.ld"⟩,
  ⟨0xD0000000, 0xFE100000, 4, .rmem, 64, "k.st"⟩,
  ⟨0xD4000000, 0xFE100000, 2, .alu, 64, "k.beq"⟩,
  ⟨0xD8000000, 0xFE100000, 2, .alu, 64, "k.bne"⟩,
  ⟨0xDC000000, 0xFE100000, 2, .alu, 64, "k.blt"⟩,
  ⟨0xE0000000, 0xFE100000, 2, .alu, 64, "k.bltu"⟩,
  ⟨0xE4000000, 0xFC000000, 3, .alu, 64, "k.jmp"⟩,
  ⟨0xE8000000, 0xFC000000, 3, .alu, 64, "k.call"⟩,
  ⟨0xEC000000, 0xFFF0FFFF, 0, .alu, 64, "k.jr"⟩,
  ⟨0xF0000000, 0xFE10FFFF, 0, .alu, 100, "k.emit"⟩,
  ⟨0xF0000001, 0xFFF087FF, 0, .alu, 100, "k.emap"⟩,
  ⟨0xF4000000, 0xFE1087FF, 0, .alu, 100, "k.lda"⟩,
  ⟨0xF4000001, 0xFE1FFFFF, 0, .alu, 100, "k.mtr"⟩]

/-- Descriptors 226 to 227 in ascending order of FIXED (R279). -/
def descs9 : List Desc := [
  ⟨0xF8000000, 0xFFFFFFFF, 0, .alu, 100, "k.tend"⟩,
  ⟨0xF8000001, 0xFFF0FFFF, 0, .alu, 100, "k.tfail"⟩]

/-- The descriptors (R279). Log 66 (DEDUCED). -/
def descs : List Desc :=
  descs0 ++ descs1 ++ descs2 ++ descs3 ++ descs4 ++ descs5 ++ descs6 ++ descs7 ++ descs8 ++ descs9

/-- The four words of a descriptor, by its number from 1 (R279). -/
def descWords (i : Nat) (d : Desc) : List Nat :=
  let f := figs d.cls
  [2 + d.form * 2 ^ 8 + (227 + i) * 2 ^ 16 + d.fixed * 2 ^ 32,
   d.mask + f.wu * 2 ^ 32 + f.wud * 2 ^ 48,
   f.bound + f.boundd * 2 ^ 16 + f.lat * 2 ^ 32 + f.wuf * 2 ^ 48 + d.flags * 2 ^ 56,
   f.ecls]

/-- The bytes of a name. -/
def nameBytes (n : String) : List Byte := n.toList.map (fun c => BitVec.ofNat 8 c.toNat)

/-- The four words of a name record (R280). -/
def nameWords (i : Nat) (d : Desc) : List Nat :=
  let bs := nameBytes d.name
  let part (k : Nat) : Nat := leNat ((bs.drop (8 * k)).take 8)
  [5 + bs.length * 2 ^ 8 + i * 2 ^ 16, part 0, part 1, part 2]

/-- The values of the resource records (R281). -/
def resources : List Nat :=
  [8, 256, 8, 4, 32, 196608, 1048576, 196608, 8, 8, 2, 4, 4, 65536, 4096, 64]

/-- The pJ of the energy classes (R283). Log 11 (DEDUCED). -/
def energyPJ : List Nat := [4, 9, 14, 11, 160, 48, 120, 640]

/-- The header record (R278). -/
def almHeader : List Nat :=
  [1 + 480 * 2 ^ 32, Config.almanacRev, 228 + 455 * 2 ^ 16 + 471 * 2 ^ 32 + 472 * 2 ^ 48, 1 + 227 * 2 ^ 16 + Config.partNumber * 2 ^ 32]

/-- The words of an Almanac record (R277 to R283); a record beyond the count reads as zero. Log 66 (DEDUCED). -/
def almRecord (r : Nat) : List Nat :=
  if r = 0 then almHeader
  else if r ≤ 227 then (match descs[r - 1]? with | some d => descWords r d | none => [])
  else if r ≤ 454 then (match descs[r - 228]? with | some d => nameWords (r - 227) d | none => [])
  else if r ≤ 470 then [3 + (r - 454) * 2 ^ 16, resources.getD (r - 455) 0, 0, 0]
  else if r = 471 then [4, 0x040F37FC, 0x80200003 + 24 * 2 ^ 32, 0]
  else if r ≤ 479 then [6 + (r - 472) * 2 ^ 8, energyPJ.getD (r - 472) 0, 0, 0]
  else []

/-- R265: word `w` of record `r`, or 0. -/
def almWord (r w : Nat) : Nat := (almRecord r).getD w 0

/-- The descriptor of an instruction word: of those whose fixed bits it has, the last, which fixes the most (fmtw and fmtr lie among the
words of cvt, R83). -/
def descOf (w : Nat) : Option Desc := (descs.filter (fun d => w &&& d.mask == d.fixed)).getLast?

/-- The FLAGS of an instruction word's descriptor; 0 where it has none. -/
def wordFlags (w : Nat) : Nat := match descOf w with | some d => d.flags | none => 0

/-- The level an instruction word needs (R86 step 11, R84): a control register's, or the supervisor's. -/
def wordLevel (w : Nat) : Nat :=
  if bitsAt w 26 6 = 0x29 && bitsAt w 12 4 ≤ 1 then crLevel (bitsAt w 8 4 * 32 + bitsAt w 16 5)
  else if bitAt (wordFlags w) 1 then 1 else 0

/-- R267, reason 1: cause × 65,536 + reason of the first of steps 1 to 11 of R86 that a word fails for a task on a compute core, `pp`
when the word before it is an fmtp. -/
def wordFails (w : Nat) (pp : Bool) : Option Nat :=
  match decodeWord w false with
  | .error r => some (cILLEGAL * 2 ^ 16 + r)
  | .ok _ =>
    let f := wordFlags w
    if bitAt f 2 then some (cILLEGAL * 2 ^ 16 + 7)
    else if bitAt f 4 then some (cILLEGAL * 2 ^ 16 + 9)
    else if pp && !bitAt f 0 then some (cILLEGAL * 2 ^ 16 + 10)
    else if wordLevel w ≠ 0 then some (cPRIVILEGE * 2 ^ 16 + wordLevel w)
    else none

end Sys2Proof.Machine
end

