-- ==== Sys2Proof/Machine/Fetch.lean ====
section
/-! DEFINITION. The instruction a context issues next: fetch (R316, R86) and decoding, and the steps of the table that
stand for a word that is no instruction and for a failed fetch. -/

namespace Sys2Proof.Machine

/-- The instruction at a context's pc, and the state after the fetch. -/
def fetchInstr (s : State) (c : Nat) : State × Instr :=
  match fetchWord s c (getCtx s c).pc.toNat with
  | .error _ => (s, .fetchFault)
  | .ok (s1, w) =>
    match decodeWord w (isRoot (getCtx s c)) with
    | .ok i => (s1, i)
    | .error _ => (s1, .illegalWord)

/-- The word at the pc of the context that issues; 0 where the fetch fails. -/
def wordHere (s : State) : Nat :=
  match fetchWord s s.cur (getCtx s s.cur).pc.toNat with
  | .ok (_, w) => w
  | .error _ => 0

/-- A word that fails steps 1 to 7 of R86: ILLEGAL with the reason, the word in SPEC0. Log 19 (DEDUCED). -/
def execIllegalWord (s : State) : Host.Outcome State Fault Refusal :=
  let w := wordHere s
  .next (issueWord w { i := .illegalWord, wu := none, fmt := true }
    (fun _ _ => .trap ⟨cILLEGAL, 0, false, 0, (match decodeWord w (isRoot (getCtx s s.cur)) with
      | .error r => r
      | .ok _ => 0), none⟩) s)

/-- A failed fetch (R86, R260): its cause, with the pc as the address, a far one. Log 19 (DEDUCED). -/
def execFetchFault (s : State) : Host.Outcome State Fault Refusal :=
  let pc := (getCtx s s.cur).pc.toNat
  .next (issueWord 0 { i := .fetchFault, wu := none, fmt := true }
    (fun _ _ => .trap (fetchTrap s s.cur pc (match fetchWord s s.cur pc with
      | .error e => e
      | .ok _ => cFAR_TRANSLATE))) s)

end Sys2Proof.Machine
end

