-- ==== Sys2Proof/Machine/Hyper.lean ====
section
/-! DEFINITION. hcall (R243): the checks and the posting of a request, one definition for each code of the table, and the
hypervisor's access to a requester's near memory. -/

namespace Sys2Proof.Machine

/-- Whether the bytes of a range lie in own local memory inside LWIN or in cluster memory (R243). -/
def slotArea (x : Ctx) (c a n : Nat) : Bool :=
  decide (a < 2 ^ 32) && (List.range n).all (fun i =>
    match areaFor c (a + i) with
    | .own o => inWindow x o
    | .cluster _ => true
    | _ => false)

/-- Whether a near address lies in own local memory. -/
def inOwn (c a : Nat) : Bool := match areaFor c a with | .own _ => true | _ => false

/-- R243: the first check of a reply slot that fails. Log 50 (DEDUCED). -/
def slotCheck (x : Ctx) (c a : Nat) : Option Trap :=
  if !slotArea x c a 16 then some (Trap.at cADDRESS a)
  else if a % 16 ≠ 0 then some (Trap.at cALIGN a)
  else none

/-- A request with nothing decided. Log 49 (DEDUCED). -/
def bareHReq (id code arg slot c : Nat) : HReq :=
  { id := id, code := code, arg := arg, slot := slot, slotLocal := inOwn c slot, ctx := c, tag := 0, part := 0, pid := 0
    stage := 0, status := 0, result := 0, image := 0, outArea := 0, provArea := 0, meterCap := 0, rslack := 0, key := []
    hdr := [], deadline := 0, res := [], entries := [], view := [] }

/-- The effect of hcall (R243): the slot's checks, one request outstanding for a task, and the request posted as a release.
Log 49 (DEDUCED), 50 (DEDUCED). -/
def hcallBody (code : Nat) : Body := fun ws s =>
  let c := s.cur
  let slot := (src ws 1).toNat
  match slotCheck (cx s) c slot with
  | some t => .trap t
  | none =>
    if (membersOf s c).any (fun m => (getCtx s m).hcallOut) then .trap illegal11
    else
      let s1 := drain s c
      let (id, s2) := fresh s1
      let x := getCtx s2 c
      let tag := match entOfCtx s2 c with | some e => e.tag | none => x.tag.toNat
      let r := { bareHReq id code (src ws 0).toNat slot c with
        tag := tag, part := (partOf s2 c).getD 0, pid := x.pid.toNat, view := x.view }
      let s3 := modCtx { s2 with hreqs := s2.hreqs ++ [r] } c (fun x => { x with hcallOut := true })
      .ok { st := if code = 16 then post s3 .imagePrepare [id] else post s3 .hcallReply [id], sync := true, unv := true }

/-- An hcall of a code. -/
def hcallOf (i : Instr) (code : Nat) (a b : Reg) (s : State) : Host.Outcome State Fault Refusal :=
  issue { i := i, level := 1, noEnd := true, srcs := [a, b] } (hcallBody code) s

def execHcallTranslatorRun (a b : Reg) (s : State) : Host.Outcome State Fault Refusal := hcallOf (.hcallTranslatorRun a b) 16 a b s
def execHcallInvalidate (a b : Reg) (s : State) : Host.Outcome State Fault Refusal := hcallOf (.hcallInvalidate a b) 17 a b s
def execHcallLoaderWrite (a b : Reg) (s : State) : Host.Outcome State Fault Refusal := hcallOf (.hcallLoaderWrite a b) 18 a b s
def execHcallPartitionQuery (a b : Reg) (s : State) : Host.Outcome State Fault Refusal := hcallOf (.hcallPartitionQuery a b) 19 a b s
def execHcallWhistleStop (a b : Reg) (s : State) : Host.Outcome State Fault Refusal := hcallOf (.hcallWhistleStop a b) 20 a b s
def execHcallWhistleRelease (a b : Reg) (s : State) : Host.Outcome State Fault Refusal := hcallOf (.hcallWhistleRelease a b) 21 a b s
def execHcallTransitSettings (a b : Reg) (s : State) : Host.Outcome State Fault Refusal := hcallOf (.hcallTransitSettings a b) 22 a b s
def execHcallTransitCounts (a b : Reg) (s : State) : Host.Outcome State Fault Refusal := hcallOf (.hcallTransitCounts a b) 23 a b s
def execHcallArmFault (a b : Reg) (s : State) : Host.Outcome State Fault Refusal := hcallOf (.hcallArmFault a b) 24 a b s
def execHcallTaintQuery (a b : Reg) (s : State) : Host.Outcome State Fault Refusal := hcallOf (.hcallTaintQuery a b) 25 a b s
def execHcallDirectoryEvict (a b : Reg) (s : State) : Host.Outcome State Fault Refusal := hcallOf (.hcallDirectoryEvict a b) 26 a b s
def execHcallFaultQueueTake (a b : Reg) (s : State) : Host.Outcome State Fault Refusal := hcallOf (.hcallFaultQueueTake a b) 27 a b s
def execHcallPageOut (a b : Reg) (s : State) : Host.Outcome State Fault Refusal := hcallOf (.hcallPageOut a b) 28 a b s
def execHcallPageIn (a b : Reg) (s : State) : Host.Outcome State Fault Refusal := hcallOf (.hcallPageIn a b) 29 a b s
def execHcallIdentity (a b : Reg) (s : State) : Host.Outcome State Fault Refusal := hcallOf (.hcallIdentity a b) 30 a b s
def execHcallContributionPost (a b : Reg) (s : State) : Host.Outcome State Fault Refusal := hcallOf (.hcallContributionPost a b) 31 a b s
def execHcallContributionWait (a b : Reg) (s : State) : Host.Outcome State Fault Refusal := hcallOf (.hcallContributionWait a b) 32 a b s

/-- The word of a register field. -/
def regField (w lo : Nat) : Reg := ⟨bitsAt w lo 5 % 32, by omega⟩

/-- An hcall of a code that has no row of its own (R243): the word at the pc names its code and registers. -/
def execHcall (s : State) : Host.Outcome State Fault Refusal :=
  let w := wordHere s
  .next (issueWord w { i := .hcall, level := 1, noEnd := true, srcs := [regField w 21, regField w 16] } (hcallBody (bitsAt w 0 12)) s)

/- ---------------------------------------------------------------- the hypervisor's near accesses -/

/-- A request found by its number, and the state with one changed. Log 77 (DEDUCED). -/
def findReq (s : State) (id : Nat) : Option HReq := s.hreqs.find? (fun r => r.id == id)
def putReq (s : State) (r : HReq) : State := { s with hreqs := s.hreqs.map (fun q => if q.id = r.id then r else q) }

/-- A request decided: its reply is due. -/
def answer (s : State) (r : HReq) (status result : Nat) : State :=
  postOnce (putReq s { r with stage := 2, status := status, result := result }) .hcallReply [r.id]

/-- A request that waits for something (R243). -/
def pend (s : State) (r : HReq) : State := postOnce (putReq s { r with stage := 1 }) .hcallReply [r.id]

/-- Whether the supervisor's home context of a key is saved while the rotation scans its cluster (R427). -/
def homeSaved (s : State) (c : Nat) : Bool := (getCluster s (clusterOf c)).homes.any (fun h => h.1 == c)

/-- The context whose window a request's near addresses are in now: its own while it runs the task, else the one its task was
restored to; none once the task has ended or been removed; `some none` while it is saved. -/
def reqCtx (s : State) (r : HReq) : Option (Option Nat) :=
  match entByTag s (dieOf r.ctx) r.tag with
  | none =>
    let x := getCtx s r.ctx
    if homeSaved s r.ctx || ((x.mode == .loading || x.mode == .saving) && x.tag.toNat == r.tag) then some none
    else if x.mode != .free && x.mode != .removed && x.tag.toNat == r.tag then some (some r.ctx) else none
  | some e =>
    match e.members with
    | [] => some none
    | c :: _ =>
      let m := if e.members.contains r.ctx then r.ctx else c
      if (getCtx s m).mode == .loading || (getCtx s m).mode == .saving then some none else some (some m)

/-- Where the hypervisor reads or writes near bytes of a request: their address; none when the task has ended; `some none` to wait. -/
def reqAddr (s : State) (r : HReq) (a : Nat) : Option (Option Nat) :=
  if inOwn r.ctx a then (reqCtx s r).map (fun o => o.map (fun c => phys c a)) else some (some (phys r.ctx a))

/-- The hypervisor writes near bytes (R243): they perform at once and set no bits; its view covers them. -/
def hvWrite (s : State) (r : HReq) (p : Nat) (bs : List Byte) : State × HReq :=
  let s1 := performBytes s p bs
  (s1, { r with view := moveView r.view p bs.length s1.stamp })

/-- A poisoned word among bytes that the hypervisor is to read for a request (R426, R432): the request is not performed and the error
is its requester's. Log 50 (DEDUCED). -/
def hvRefuse (s : State) (r : HReq) (a n : Nat) : Option State :=
  if (physOf r.ctx a).isNone then none
  else (poisonTrap s r.ctx a n).map (fun t =>
    containCtx { s with hreqs := s.hreqs.filter (fun q => q.id != r.id) } r.ctx t.spec0 t.addr false (t.spec1 == 1))

/-- A poisoned far word among those that the hypervisor reads for a request (R426, R432), in the same way. -/
def farRefuse (s : State) (r : HReq) (a : Nat) : State :=
  let c := match reqCtx s r with | some (some c) => c | _ => r.ctx
  containCtx { s with hreqs := s.hreqs.filter (fun q => q.id != r.id) } c 5 a true false

/-- R243: the result is written to slot +8. -/
def writeResult (s : State) (r : HReq) : State :=
  match reqAddr s r r.slot with
  | none => putReq s { r with stage := 3 }
  | some none => s
  | some (some p) =>
    let (s1, r1) := hvWrite s r (p + 8) (leBytes 8 r.result)
    putReq s1 { r1 with stage := 3 }

/-- The task of a request may make another. Log 49 (DEDUCED). -/
def closeCall (s : State) (r : HReq) : State :=
  let clear (x : Ctx) : Ctx := { x with hcallOut := false }
  match entByTag s (dieOf r.ctx) r.tag with
  | some e =>
    let s1 := e.members.foldl (fun s m => modCtx s m clear) s
    modEnt s1 (dieOf r.ctx) e.order (fun f => { f with saved := f.saved.map (fun v => { v with ctx := clear v.ctx }) })
  | none =>
    if homeSaved s r.ctx then modCluster s (clusterOf r.ctx) (fun k => { k with
      homes := k.homes.map (fun h => if h.1 = r.ctx then (h.1, { h.2 with ctx := clear h.2.ctx }) else h) })
    else if (getCtx s r.ctx).tag.toNat == r.tag then modCtx s r.ctx clear else s

/-- R243: the status is written to slot +0 as a store with order rel at system scope, and the request is closed. -/
def writeStatus (s : State) (r : HReq) : State :=
  let gone := { s with hreqs := s.hreqs.filter (fun q => q.id != r.id) }
  match reqAddr s r r.slot with
  | none => closeCall gone r
  | some none => s
  | some (some p) =>
    let (s1, r1) := hvWrite gone r p (leBytes 8 r.status)
    closeCall { s1 with released := s1.released ++ [⟨p, 8, ⟨4, coreOf r.ctx, r1.view⟩, s1.stamp, none⟩] } r

/-- The reply's next write, and the next event until it is done. -/
def replyStep (s : State) (r : HReq) : State :=
  let s1 := if r.stage = 2 then writeResult s r else writeStatus s r
  if (findReq s1 r.id).isSome then postOnce s1 .hcallReply [r.id] else s1

end Sys2Proof.Machine
end

