-- ==== Sys2Proof/Machine/Surrogate.lean ====
section
/-! DEFINITION. The networks of the Orrery (R410, R411) and their fitting (R412, R413), on f32 patterns. -/

namespace Sys2Proof.Machine

/- ---------------------------------------------------------------- f32 arithmetic -/

/-- The value of an f32 pattern. -/
def valF (a : Nat) : FVal := decodeF f32Fmt a

/-- An operation on f32 patterns rounded once with RNE. -/
def opF (op : FOp) (a b d : Nat) : Nat := (arithF op f32Fmt 0 ⟨0, 0⟩ (valF a) (valF b) (valF d)).1

def addF (a b : Nat) : Nat := opF .add a b 0
def subF (a b : Nat) : Nat := opF .sub a b 0
def mulF (a b : Nat) : Nat := opF .mul a b 0
def divF (a b : Nat) : Nat := opF .div a b 0
def fmaF (a b d : Nat) : Nat := opF .fma a b d

/-- The f32 pattern with its sign inverted. -/
def negF (a : Nat) : Nat := if bitAt a 31 then a - 2 ^ 31 else a + 2 ^ 31

/-- The f32 pattern without its sign. -/
def absF (a : Nat) : Nat := a % 2 ^ 31

/-- Whether a pattern is finite, and whether it is a NaN. -/
def finiteF (a : Nat) : Bool := bitsAt a 23 8 != 255
def nanPat (a : Nat) : Bool := (valF a).isNan

/-- Whether a value is above +0. -/
def posF (a : Nat) : Bool := !bitAt a 31 && absF a != 0 && !nanPat a

/-- An f32 pattern rounded to bf16 with RNE and widened again. -/
def bfF (a : Nat) : Nat := (encodeF bf16Fmt 0 ⟨0, 0⟩ (valF a)).1 * 2 ^ 16

/-- An f32 pattern rounded to the precision of a format register's value and widened to f32 (R249, R410). -/
def toPrec (fval a : Nat) : Nat :=
  let f := fmtOf (BitVec.ofNat 32 fval)
  (encodeF f32Fmt 0 ⟨0, 0⟩ (decodeF f (encodeF f 0 ⟨0, 0⟩ (valF a)).1)).1

/-- Whether two outputs differ by no more than a threshold in absolute f32 value, and neither is a NaN (R250, R412, R413).
Log 68 (DEDUCED). -/
def withinF (thr a b : Nat) : Bool :=
  !nanPat a && !nanPat b && (a == b || (let d := absF (subF a b); !nanPat d && cmpV (valF d) (valF thr) != .gt))

/-- A sum in the order of a list, each addition rounded. -/
def sumF : List Nat → Nat
  | [] => 0
  | x :: t => t.foldl addF x

/- ---------------------------------------------------------------- networks -/

/-- The shape of a network (R410): its inputs, outputs and hidden units. -/
structure Net where
  i : Nat
  o : Nat
  h : Nat
  deriving DecidableEq, Repr

/-- The shape from NIN, NOUT and WID. -/
def netOf (nin nout wid : Nat) : Net := ⟨nin + 1, nout + 1, [0, 8, 16, 32].getD wid 0⟩

/-- The parameters in the order W, B, V, C: where each begins. -/
def Net.bAt (n : Net) : Nat := n.h * n.i
def Net.vAt (n : Net) : Nat := n.h * n.i + n.h
def Net.cAt (n : Net) : Nat := if n.h = 0 then n.o * n.i else n.h * n.i + n.h + n.o * n.h

/-- The number of parameters (R410). -/
def Net.count (n : Net) : Nat := n.cAt + n.o

/-- The count of multiply-adds (R90). -/
def Net.macs (n : Net) : Nat := if n.h = 0 then n.i * n.o else n.i * n.h + n.h * n.o

/-- A parameter at its starting value (R411). -/
def startParam (n : Net) (q : Nat) : Nat :=
  if n.h = 0 || (n.bAt ≤ q && q < n.vAt) || n.cAt ≤ q then 0
  else
    let u : Int := ((q + 1) * 0x9E3779B1 % 2 ^ 32 / 2 ^ 8 : Nat)
    (encodeF f32Fmt 0 ⟨0, 0⟩ (.fin (decide (u < 2 ^ 23)) (u - 2 ^ 23).natAbs (-25))).1

/-- The starting masters (R411). -/
def startMasters (n : Net) : List Nat := (List.range n.count).map (startParam n)

/-- A parameter of a list. -/
def prm (ps : List Nat) (q : Nat) : Nat := ps.getD q 0

/-- A sum of products of parameters and inputs added to a start, one rounding for each step. -/
def netDot (start : Nat) (ws xs : List Nat) : Nat := (ws.zip xs).foldl (fun s p => fmaF p.1 p.2 s) start

/-- The parameters from a position. -/
def slice (ps : List Nat) (at' n : Nat) : List Nat := (ps.drop at').take n

/-- One evaluation (R410): the bf16 inputs, the hidden sums and units, and the outputs before they are rounded to FVAL. -/
structure Eval where
  xb : List Nat
  ss : List Nat
  hb : List Nat
  ys : List Nat
  deriving DecidableEq, Repr

/-- The function of R410 on bf16 values of the parameters. -/
def evalNet (n : Net) (ps xs : List Nat) : Eval :=
  let xb := xs.map bfF
  if n.h = 0 then
    ⟨xb, [], [], (List.range n.o).map (fun k => netDot (prm ps (n.cAt + k)) (slice ps (k * n.i) n.i) xb)⟩
  else
    let ss := (List.range n.h).map (fun j => netDot (prm ps (n.bAt + j)) (slice ps (j * n.i) n.i) xb)
    let hb := ss.map (fun s => bfF (if nanPat s then s else if posF s then s else 0))
    ⟨xb, ss, hb, (List.range n.o).map (fun k => netDot (prm ps (n.cAt + k)) (slice ps (n.vAt + k * n.h) n.h) hb)⟩

/-- The surrogate's outputs, rounded to the precision of FVAL (R249). -/
def surrogateOut (n : Net) (fval : Nat) (ps xs : List Nat) : List Nat := (evalNet n ps xs).ys.map (toPrec fval)

/-- Whether a network's outputs are within the threshold of a pair's true outputs. Log 68 (DEDUCED). -/
def pairWithin (n : Net) (fval thr : Nat) (ps : List Nat) (p : List Nat × List Nat) : Bool :=
  ((surrogateOut n fval ps p.1).zip p.2).all (fun q => withinF thr q.1 q.2)

/- ---------------------------------------------------------------- the closed-form fit -/

/-- A matrix as a list of rows. -/
def mat2 (m : List (List Nat)) (i j : Nat) : Nat := (m.getD i []).getD j 0

/-- Σ z zᵀ and Σ z t over the pairs in arrival order (R412): one of their elements. Log 67 (DEDUCED). -/
def momentF (ps : List (Nat × Nat)) : Nat := ps.foldl (fun s p => addF s (mulF p.1 p.2)) 0

/-- The decomposition so far: the rows of L and the list of d. -/
structure LD where
  rows : List (List Nat)
  d : List Nat
  deriving DecidableEq, Repr

/-- Σ over m < j of L[i][m] × L[j][m] × d[m] taken from a start, m ascending. Log 67 (DEDUCED). -/
def lessL (w : LD) (i j start : Nat) : Nat :=
  (List.range j).foldl (fun s m => subF s (mulF (mulF (mat2 w.rows i m) (mat2 w.rows j m)) (w.d.getD m 0))) start

/-- Column `j` of the decomposition; none when the fit fails. Log 67 (DEDUCED). -/
def ldCol (m : List (List Nat)) (w : LD) (j : Nat) : Option LD :=
  let dj := lessL w j j (mat2 m j j)
  if !finiteF dj || !posF dj then none
  else some ⟨w.rows.zipIdx.map (fun r => if j < r.2 then r.1 ++ [divF (lessL w r.2 j (mat2 m r.2 j)) dj] else r.1), w.d ++ [dj]⟩

/-- The decomposition of a matrix of a size. -/
def ldAll (m : List (List Nat)) (n : Nat) : Option LD :=
  (List.range n).foldl (fun w j => w.bind (fun x => ldCol m x j)) (some ⟨List.replicate n [], []⟩)

/-- The forward pass. -/
def ldForward (w : LD) (b : List Nat) : List Nat :=
  (List.range b.length).foldl (fun z j =>
    z ++ [(List.range j).foldl (fun s m => subF s (mulF (mat2 w.rows j m) (z.getD m 0))) (b.getD j 0)]) []

/-- The backward pass from position `j` down, `a` what stands above. -/
def ldBack (w : LD) (z : List Nat) : Nat → List Nat → List Nat
  | 0, a => a
  | j + 1, a =>
    ldBack w z j ((a.zipIdx.foldl (fun s p => subF s (mulF (mat2 w.rows (j + 1 + p.2) j) p.1)) (z.getD j 0)) :: a)

/-- The fit of output `k` (R412): (C, W…), or none where it fails. Log 67 (DEDUCED). -/
def fitOutput (i k : Nat) (pairs : List (List Nat × List Nat)) : Option (List Nat) :=
  let zs := pairs.map (fun p => (0x3F800000 :: p.1, p.2.getD k 0))
  let n := i + 1
  let m := (List.range n).map (fun r => (List.range n).map (fun c => momentF (zs.map (fun z => (z.1.getD r 0, z.1.getD c 0)))))
  let b := (List.range n).map (fun r => momentF (zs.map (fun z => (z.1.getD r 0, z.2))))
  (ldAll m n).map (fun w =>
    let z := ldForward w b
    ldBack w (z.zipIdx.map (fun p => divF p.1 (w.d.getD p.2 0))) n [])

/-- The masters after the fit, and whether it succeeded for every output. Log 67 (DEDUCED). -/
def closedForm (n : Net) (pairs : List (List Nat × List Nat)) : List Nat × Bool :=
  let fs := (List.range n.o).map (fun k => fitOutput n.i k pairs)
  let get (f : Option (List Nat)) : List Nat := f.getD (List.replicate (n.i + 1) 0)
  (fs.flatMap (fun f => (get f).drop 1) ++ fs.map (fun f => (get f).getD 0 0), fs.all Option.isSome)

/- ---------------------------------------------------------------- gradient steps -/

/-- The terms e × de/dp of one pair for every parameter (R413). Log 69 (DEDUCED). -/
def gradTerms (n : Net) (ps : List Nat) (p : List Nat × List Nat) : List Nat :=
  let v := evalNet n ps p.1
  let es := (v.ys.zip p.2).map (fun q => subF q.1 q.2)
  if n.h = 0 then es.flatMap (fun e => v.xb.map (mulF e)) ++ es
  else
    let vk (k j : Nat) : Nat := prm ps (n.vAt + k * n.h + j)
    let live (j : Nat) : Bool := let s := v.ss.getD j 0; nanPat s || posF s
    let outs (j : Nat) (de : Nat → Nat) : Nat := sumF (es.zipIdx.map (fun e => mulF e.1 (if live j then de e.2 else 0)))
    (List.range n.h).flatMap (fun j => v.xb.map (fun x => outs j (fun k => mulF (vk k j) x))) ++
    (List.range n.h).map (fun j => outs j (fun k => vk k j)) ++
    es.flatMap (fun e => v.hb.map (mulF e)) ++
    es

/-- The batch sums of the terms, in arrival order. Log 69 (DEDUCED). -/
def batchSums : List (List Nat) → List Nat
  | [] => []
  | t :: r => r.foldl (fun s x => List.zipWith addF s x) t

/-- The masters after one step on a batch (R413), and whether the batch was within the threshold before it. Log 69 (DEDUCED). -/
def sgdStep (n : Net) (fval thr lr : Nat) (masters : List Nat) (batch : List (List Nat × List Nat)) : List Nat × Bool :=
  let ps := masters.map bfF
  let g := (batchSums (batch.map (gradTerms n ps))).map (fun x => divF x 0x42000000)
  (List.zipWith (fun p x => fmaF (negF (lr * 2 ^ 16)) x p) masters g, batch.all (pairWithin n fval thr ps))

end Sys2Proof.Machine
end

