-- ==== Sys2Proof/Machine/Orrery.lean ====
section
/-! DEFINITION. The Orrery (R408 to R422) and the instructions of approximable regions (R247 to R251): the region table,
observations, fits and steps, surrogate caches, invalidation, and fmtw (R158, R416). -/

namespace Sys2Proof.Machine

/-- A region's key with its partition. -/
structure RKey where
  part : Nat
  addr : Nat
  nin : Nat
  nout : Nat
  fval : Nat
  deriving DecidableEq, Repr

/-- The keys of what carries one. -/
def Region.key (r : Region) : RKey := ⟨r.part, r.addr, r.nin, r.nout, r.fval⟩
def Obs.key (o : Obs) : RKey := ⟨o.part, o.addr, o.nin, o.nout, o.fval⟩
def SurrEnt.key (e : SurrEnt) : RKey := ⟨e.part, e.addr, e.nin, e.nout, e.fval⟩

/-- The network of a region, and of a cache entry. -/
def Region.net (r : Region) : Net := netOf r.nin r.nout r.wid
def SurrEnt.net (e : SurrEnt) : Net := netOf e.nin e.nout e.wid

/-- A region of a die changed. -/
def modRegion (s : State) (die id : Nat) (f : Region → Region) : State :=
  modDie s die (fun d => { d with regions := d.regions.map (fun r => if r.id = id then f r else r) })

/-- The region of a key. -/
def findRegion (s : State) (die : Nat) (k : RKey) : Option Region := (getDie s die).regions.find? (fun r => r.key == k)

/-- The next observation of a die is due, if one waits. -/
def postTake (s : State) (die : Nat) : State :=
  if (getDie s die).obsBuf.isEmpty then s else postOnce s .observationTake [die]

/- ---------------------------------------------------------------- caches -/

/-- The cores of a die that have a surrogate cache entry of a key, with that entry. -/
def cachedAt (s : State) (die : Nat) (k : RKey) : List (Nat × SurrEnt) :=
  (s.cores.filter (fun c => dieOfCore c.1 == die)).flatMap (fun c => (c.2.surr.filter (fun e => e.key == k)).map (fun e => (c.1, e)))

/-- A key's entries out of one core's cache. -/
def uncache (s : State) (core : Nat) (k : RKey) : State :=
  modCore s core (fun c => { c with surr := c.surr.filter (fun e => e.key != k) })

/-- R415, R416, R419: the weights of a region leave the die: those under way are discarded, and each core that holds some gets a
removal. Log 71 (DEDUCED). -/
def purge (s : State) (die : Nat) (k : RKey) : State :=
  let cs := cachedAt s die k
  let s1 := modDie s die (fun d => { d with
    weights := d.weights.filter (fun w => w.2.key != k), removals := d.removals ++ cs })
  cs.foldl (fun s c => postOnce s .cacheRemoval [c.1]) s1

/-- R416: a removal reaches a core. Names the core. Log 71 (DEDUCED). -/
def cacheRemovalEv (s : State) : State :=
  let core := argN s 0
  let die := dieOfCore core
  let rs := (getDie s die).removals.filter (fun r => r.1 == core)
  let gone (e : SurrEnt) : Bool := rs.any (fun r => r.2.key == e.key && r.2.params == e.params)
  modDie (modCore s core (fun c => { c with surr := c.surr.filter (fun e => !gone e) })) die
    (fun d => { d with removals := d.removals.filter (fun r => r.1 != core) })

def execCacheRemoval (s : State) : Host.Outcome State Fault Refusal := happens cacheRemovalEv s

/-- Whether the reset of a region's failed sample is still to be applied (R420). Log 71 (DEDUCED). -/
def resetDue (s : State) (die : Nat) (k : RKey) : Bool := (getDie s die).resets.any (fun o => o.key == k)

/-- R414: the weights of an armed region are on their way to a core that has none, once; none of a region that is to be reset (R420). -/
def sendWeights (s : State) (die core : Nat) (r : Region) : State :=
  if resetDue s die r.key || (getDie s die).weights.any (fun w => w.1 == core && w.2.key == r.key) then s
  else
    let e : SurrEnt := ⟨r.part, r.addr, r.nin, r.nout, r.fval, r.wid, r.masters.map bfF, 0⟩
    postOnce (modDie s die (fun d => { d with weights := d.weights ++ [(core, e)] })) .weightsArrival [core]

/-- R414: weights arrive in a core's cache with c = 0; the least recently used of 4 leaves. Names the core. -/
def weightsArrivalEv (s : State) : State :=
  let core := argN s 0
  let die := dieOfCore core
  let ws := (getDie s die).weights.filter (fun w => w.1 == core)
  let s1 := modDie s die (fun d => { d with weights := d.weights.filter (fun w => w.1 != core) })
  ws.foldl (fun s w => modCore s core (fun c => { c with surr := (w.2 :: c.surr.filter (fun e => e.key != w.2.key)).take 4 })) s1

def execWeightsArrival (s : State) : Host.Outcome State Fault Refusal := happens weightsArrivalEv s

/- ---------------------------------------------------------------- invalidation -/

/-- R416: the regions of a die that a test picks are invalidated. Log 72 (DEDUCED). -/
def invalidate (s : State) (die : Nat) (p : Region → Bool) : State :=
  let rs := (getDie s die).regions.filter p
  if rs.isEmpty then s
  else
    postTake (rs.foldl (fun s r => purge s die r.key) (modDie s die (fun d => { d with regions := d.regions.filter (fun r => !p r) }))) die

/-- Invalidation on every die. Log 72 (DEDUCED). -/
def invalidateAll (s : State) (p : Region → Bool) : State := s.dies.foldl (fun s d => invalidate s d.1 p) s

/-- R415: a region as it stands after a failed sample or a step that left the finite numbers. -/
def Region.restart (r : Region) : Region :=
  { r with state := 1, masters := startMasters r.net, good := 0 }

/-- Whether an observation goes before a reset: it is of the same entry and was sent earlier. Log 71 (DEDUCED). -/
def beforeReset (o p : Obs) : Bool := p.key == o.key && decide (p.id < o.id)

/-- The entry of a failed sample's key restarted, if it is armed (R415). -/
def resetRegion (s : State) (die : Nat) (k : RKey) : State :=
  match findRegion s die k with
  | none => s
  | some r =>
    if r.state ≠ 2 then s
    else
      purge (modRegion s die r.id (fun r => { r.restart with
        obs := 0, samp := 0, pairs := [], fitting := 0, fitted := false, late := [] })) die k

/-- R415, R420: a failed sample's reset is applied, after the observations of its entry that were sent before it and before any later
one; a region that is not armed stays as it is. Names the die. Log 71 (DEDUCED). -/
def regionResetEv (s : State) : State :=
  let die := argN s 0
  let d := getDie s die
  match d.resets.find? (fun o => !(d.obsBuf ++ d.obsWire).any (beforeReset o)) with
  | none => if d.resets.isEmpty then s else postOnce s .regionReset [die]
  | some o =>
    let s1 := resetRegion (modDie s die (fun d => { d with resets := d.resets.filter (fun p => p.id != o.id) })) die o.key
    postTake (if (getDie s1 die).resets.isEmpty then s1 else postOnce s1 .regionReset [die]) die

def execRegionReset (s : State) : Host.Outcome State Fault Refusal := happens regionResetEv s

/- ---------------------------------------------------------------- observations -/

/-- R409: the oldest observation under way reaches the buffer of 256, or is dropped. Names the die. -/
def observationArrivalEv (s : State) : State :=
  let die := argN s 0
  match (getDie s die).obsWire with
  | [] => s
  | o :: t =>
    postTake (modDie s die (fun d => { d with
      obsWire := t, obsBuf := if d.obsBuf.length < 256 then d.obsBuf ++ [o] else d.obsBuf })) die

def execObservationArrival (s : State) : Host.Outcome State Fault Refusal := happens observationArrivalEv s

/-- The region an opening observation opens (R409). -/
def openRegion (id : Nat) (o : Obs) : Region :=
  { id := id, addr := o.addr, nin := o.nin, nout := o.nout, freg := o.freg, fval := o.fval, part := o.part, state := 1, wid := o.wid
    lr := if o.lr = 0 then 0x3C00 else o.lr, thr := o.thr, obs := 0, samp := 0, good := 0
    masters := startMasters (netOf o.nin o.nout o.wid), pairs := [], fitting := 0, fitted := false, last := 0, late := [] }

/-- An observation counted and joined to a region's pairs (R408, R421): the eighth starts a closed-form fit, the 32nd of a batch a
step. Log 70 (DEDUCED). -/
def joinObs (s : State) (die : Nat) (r : Region) (o : Obs) : State :=
  let (n, s0) := fresh s
  let ps := r.pairs ++ [(o.xs, o.ys)]
  let fit : Nat := if r.wid = 0 && !r.fitted then (if ps.length = 8 then 1 else 0) else if ps.length = 32 then 2 else 0
  let r1 : Region := { r with
    obs := min 65535 (r.obs + 1), samp := if o.sampled && r.state = 2 then min 65535 (r.samp + 1) else r.samp
    pairs := ps, fitting := fit, last := n }
  let s1 := modRegion s0 die r.id (fun _ => r1)
  if fit = 1 then postOnce s1 .closedFormFit [die, r.id]
  else if fit = 2 then postOnce s1 .sgdStep [die, r.id]
  else s1

/-- R422: the observations that waited for the fit or step of an entry join it, in order, until one of them starts another. -/
def joinLate (s : State) (die id : Nat) : Nat → State
  | 0 => s
  | n + 1 =>
    match (getDie s die).regions.find? (fun r => r.id == id) with
    | none => s
    | some r =>
      match r.late with
      | [] => s
      | o :: t => if r.fitting ≠ 0 then s else joinLate (joinObs s die { r with late := t } o) die id n

/-- The entry after its fit or step, joined by what waited for it. -/
def afterFit (s : State) (die : Nat) (r : Region) : State :=
  joinLate (modRegion s die r.id (fun _ => r)) die r.id r.late.length

/-- An observation is taken for an entry: it joins it, or waits for the fit or step under way (R422). -/
def takeFor (s : State) (die : Nat) (r : Region) (o : Obs) : State :=
  if r.fitting ≠ 0 then modRegion s die r.id (fun r => { r with late := r.late ++ [o] }) else joinObs s die r o

/-- R409, R420, R422: the oldest observation of the buffer is taken, unless a reset of its entry goes before it. Names the die. -/
def observationTakeEv (s : State) : State :=
  let die := argN s 0
  let d := getDie s die
  match d.obsBuf with
  | [] => s
  | o :: t =>
    if d.resets.any (fun r => r.key == o.key && r.id ≤ o.id) then postOnce s .regionReset [die]
    else
      let s1 := modDie s die (fun d => { d with obsBuf := t })
      if !(o.xs ++ o.ys).all finiteF then postTake s1 die
      else
        match findRegion s die o.key with
        | some r => postTake (takeFor s1 die r o) die
        | none =>
          if 64 ≤ d.regions.length then postTake s1 die
          else
            let (id, s2) := fresh s1
            let r := openRegion id o
            postTake (joinObs (modDie s2 die (fun d => { d with regions := d.regions ++ [r] })) die r o) die

def execObservationTake (s : State) : Host.Outcome State Fault Refusal := happens observationTakeEv s

/-- An entry armed: SAMP counts from here (R251). -/
def Region.arm (r : Region) : Region := if r.state = 2 then r else { r with state := 2, samp := 0 }

/-- R412: a closed-form fit finishes; with seven inputs or more beside the first the entry passes to SGD. Names the die and the
region. -/
def closedFormFitEv (s : State) : State :=
  let die := argN s 0
  match (getDie s die).regions.find? (fun r => r.id == argN s 1) with
  | none => s
  | some r =>
    if r.fitting ≠ 1 then s
    else
      let (ms, ok) := closedForm r.net r.pairs
      let arm := ok && r.nin < 7 && r.pairs.all (pairWithin r.net r.fval r.thr (ms.map bfF))
      let r1 : Region := { r with masters := ms, pairs := [], fitting := 0, fitted := true }
      postTake (afterFit s die (if arm then r1.arm else r1)) die

def execClosedFormFit (s : State) : Host.Outcome State Fault Refusal := happens closedFormFitEv s

/-- R413: a step on a batch finishes. Names the die and the region. -/
def sgdStepEv (s : State) : State :=
  let die := argN s 0
  match (getDie s die).regions.find? (fun r => r.id == argN s 1) with
  | none => s
  | some r =>
    if r.fitting ≠ 2 then s
    else
      let (ms, good) := sgdStep r.net r.fval r.thr r.lr r.masters r.pairs
      let r1 : Region := { r with pairs := [], fitting := 0 }
      if ms.all finiteF then
        let g := if good then min 255 (r.good + 1) else 0
        let r2 : Region := { r1 with masters := ms, good := g }
        postTake (afterFit s die (if 4 ≤ g then r2.arm else r2)) die
      else postTake (afterFit (if r.state = 2 then purge s die r.key else s) die r1.restart) die

def execSgdStep (s : State) : Host.Outcome State Fault Refusal := happens sgdStepEv s

/- ---------------------------------------------------------------- instructions -/

/-- The lanes of f32 from lane 0 of a SIMD register on (R248). -/
def f32Lanes (x : Ctx) (v n : Nat) : List Nat :=
  (List.range n).map (fun i => lane (x.v.toList.getD (v + i / 4) 0) 32 (i % 4))

/-- R248: whether a descriptor, a first input register and a threshold are in order. -/
def apxOk (x : Ctx) (v : VReg) (thr d : Nat) : Bool :=
  bitsAt d 25 39 == 0 && bitsAt d 13 12 != 0 && v.val + ceilDiv (bitsAt d 0 4 + 1) 4 ≤ 16 && finiteF thr &&
    (!bitAt thr 31 || absF thr == 0) && fmtKind (x.fmt.toList.getD (bitsAt d 6 3) 0) != 0 && x.apx.isNone

/-- The die's Orrery, the partition and the key of an apx.beg at the pc. -/
def apxKey (s : State) (d : Nat) : RKey :=
  ⟨(partOf s s.cur).getD 0, pcNow s, bitsAt d 0 4, bitsAt d 4 2, ((cx s).fmt.toList.getD (bitsAt d 6 3) 0).toNat⟩

/-- APXCTL (R253). -/
def apxEn (x : Ctx) : Bool := wBits x.apxctl 0 1 == 1
def apxKs (x : Ctx) : Nat := wBits x.apxctl 1 5
def apxWid (x : Ctx) : Nat := wBits x.apxctl 6 2
def apxLr (x : Ctx) : Nat := wBits x.apxctl 8 16

/-- The outputs of a surrogate run as a SIMD register (R249). -/
def outReg (ys : List Nat) : BitVec 128 := packLanes 32 ys

/-- The charge of a surrogate run (R90). Log 73 (DEDUCED). -/
def surrCharge (n : Net) : Nat := 4 + ceilDiv n.macs 16

/-- R249: a region opened for a true run. -/
def apxOpenRun (s : State) (k : RKey) (d thr : Nat) (xs : List Nat) (held : Option (List Nat)) : State :=
  let o : ApxOpen :=
    ⟨k.addr, k.nin, k.nout, bitsAt d 6 3, k.fval, bitsAt d 9 4, absF thr, bitsAt d 13 12, xs, held.isSome, held.getD []⟩
  setCur s (fun x => { x with apx := some o })

/-- R414: the cache entry used, with its count advanced and in front. -/
def touchSurr (s : State) (core : Nat) (e : SurrEnt) (c : Nat) : State :=
  modCore s core (fun k => { k with surr := { e with c := c } :: k.surr.filter (fun f => f.key != e.key) })

/-- R394, R395: an apx.beg with EN set in a replay abandons the comparison. Log 135 (DESIGN CHOICE). -/
def apxAbandon (s : State) (c : Nat) : State :=
  match entOfCtx s c with
  | some e => abandonLater s (homeDie s c) e
  | none => s

/-- The effect of apx.beg (R248, R249, R414). Log 73 (DEDUCED). -/
def apxBegBody (v : VReg) : Body := fun ws s =>
  let c := s.cur
  let x := cx s
  let thr := wBits (src ws 0) 0 32
  let d := (src ws 1).toNat
  let ok := apxOk x v thr d
  let k := apxKey s d
  let core := coreOf c
  let xs := f32Lanes x v.val (k.nin + 1)
  let ent := if ok && apxEn x && xs.all finiteF then (getCore s core).surr.find? (fun e => e.key == k) else none
  let cnt := match ent with | some e => (e.c + 1) % 2 ^ 16 | none => 0
  let surr := ent.isSome && cnt % 2 ^ apxKs x != 0
  let wu := match ent with | some e => if surr then surrCharge e.net else 1 | none => 1
  match budgetCheck x c wu with
  | some t => .trap t
  | none =>
    if !ok then .trap illegal11
    else if !apxEn x then .ok { st := s, wu := 1 }
    else if x.run ≠ 0 then .ok { st := apxAbandon s c, wu := 1 }
    else
      match ent with
      | some e =>
        let ys := surrogateOut e.net e.fval e.params xs
        let vo : VReg := ⟨bitsAt d 9 4 % 16, by omega⟩
        let s1 := touchSurr s core e cnt
        if surr then
          .ok {
            st := addEnergy (setCur s1 (fun x => setV x vo (outReg ys))) c (14 * ceilDiv e.net.macs 16)
            pc := some ((pcNow s + 4 * bitsAt d 13 12 + 4) % 2 ^ 48), wu := wu, unv := true }
        else .ok { st := apxOpenRun s1 k d thr xs (some ys), wu := wu, unv := true }
      | none =>
        let die := dieOf c
        let s1 := match findRegion s die k with
          | some r => if r.state = 2 && !((getCore s core).surr.any (fun e => e.key == k)) then sendWeights s die core r else s
          | none => s
        .ok { st := apxOpenRun s1 k d thr xs none, wu := wu, unv := true }

def execApxBeg (v : VReg) (a b : Reg) (s : State) : Host.Outcome State Fault Refusal :=
  issue { i := .apxBeg v a b, wu := none, kind := .compute, srcs := [a, b] } (apxBegBody v) s

/-- The observation that closes a region sends (R250, R409). Log 70 (DEDUCED). -/
def obsOf (s : State) (id : Nat) (r : ApxOpen) : Obs :=
  let x := cx s
  ⟨id, (partOf s s.cur).getD 0, r.addr, r.nin, r.nout, r.freg, r.fval, apxWid x, apxLr x, r.thr, r.xs, f32Lanes x r.vo (r.nout + 1), r.sampled⟩

/-- R420: a sampled comparison has failed: its core has no weights of the key any more, none under way to it either, and the reset
is sent. -/
def failSample (s : State) (die core : Nat) (o : Obs) : State :=
  postOnce (modDie (uncache s core o.key) die (fun d => { d with
    weights := d.weights.filter (fun w => !(w.1 == core && w.2.key == o.key)), resets := d.resets ++ [o] })) .regionReset [die]

/-- The effect of apx.end (R250, R420). Log 70 (DEDUCED). -/
def apxEndBody : Body := fun _ s =>
  match (cx s).apx with
  | none => if apxEn (cx s) then .trap illegal11 else .ok { st := s }
  | some r =>
    if pcNow s ≠ (r.addr + 4 * r.skip) % 2 ^ 48 then .trap illegal11
    else
      let die := dieOf s.cur
      let (id, s0) := fresh s
      let o := obsOf s id r
      let fail := r.sampled && !((r.held.zip o.ys).all (fun p => withinF r.thr p.1 p.2))
      let s1 := setCur s0 (fun x => { x with apx := none })
      let s2 := if fail then failSample s1 die (coreOf s.cur) o else s1
      .ok { st := post (modDie s2 die (fun d => { d with obsWire := d.obsWire ++ [o] })) .observationArrival [die] }

def execApxEnd (s : State) : Host.Outcome State Fault Refusal :=
  issue { i := .apxEnd, kind := .compute } apxEndBody s

/-- The effect of apx.inv (R251): the regions go, and no core of the die finds their weights any more. Log 72 (DEDUCED). -/
def apxInvBody : Body := fun ws s =>
  let a := (src ws 0).toNat
  let part := (partOf s s.cur).getD 0
  let die := dieOf s.cur
  if a / 2 ^ 48 ≠ 0 then .trap illegal11
  else
    let hit (p addr : Nat) : Bool := p == part && (a == 0 || addr == a)
    let s1 := invalidate s die (fun r => hit r.part r.addr)
    .ok { st := { s1 with cores := s1.cores.map (fun c =>
      if dieOfCore c.1 = die then (c.1, { c.2 with surr := c.2.surr.filter (fun e => !hit e.part e.addr) }) else c) } }

def execApxInv (a : Reg) (s : State) : Host.Outcome State Fault Refusal :=
  issue { i := .apxInv a, kind := .compute, srcs := [a] } apxInvBody s

/-- Of two regions the one whose last observation is the newer (R408). -/
def newerRegion (b : Option Region) (r : Region) : Option Region :=
  match b with
  | none => some r
  | some q => if q.last < r.last then some r else some q

/-- The word of apx.q for a region (R251, R419): one that is to be reset reads STATE 2 until it is (R420). -/
def apxWord (s : State) (core : Nat) (r : Region) : Nat :=
  let st := if r.state = 2 && (getCore s core).surr.any (fun e => e.key == r.key) && !resetDue s (dieOfCore core) r.key then 3 else r.state
  st + r.wid * 2 ^ 6 + r.good * 2 ^ 8 + r.obs * 2 ^ 16 + r.samp * 2 ^ 32

/-- The effect of apx.q (R251). -/
def apxQBody : Body := fun ws s =>
  let a := wBits (src ws 0) 0 48
  let part := (partOf s s.cur).getD 0
  match ((getDie s (dieOf s.cur)).regions.filter (fun r => r.part == part && r.addr == a)).foldl newerRegion none with
  | none => result s 0
  | some r => result s (w64 (apxWord s (coreOf s.cur) r))

def execApxQ (d a : Reg) (s : State) : Host.Outcome State Fault Refusal :=
  issue { i := .apxQ d a, kind := .compute, srcs := [a], dst := some d } apxQBody s

/-- The effect of fmtw (R158, R416): a write that changes the register invalidates the partition's regions with the old value.
Log 72 (DEDUCED). -/
def fmtwBody (n : Fin 8) : Body := fun ws s =>
  let v := (src ws 0).toNat
  if 2 ^ 32 ≤ v || !fmtLegal v then .trap illegal11
  else
    let old := (cx s).fmt[n].toNat
    let s1 := setCur s (fun x => { x with fmt := x.fmt.set n (BitVec.ofNat 32 v) })
    let part := (partOf s s.cur).getD 0
    .ok { st := if old = v then s1 else invalidateAll s1 (fun r => r.part == part && r.freg == n.val && r.fval == old) }

def execFmtw (a : Reg) (n : Fin 8) (s : State) : Host.Outcome State Fault Refusal :=
  issue { i := .fmtw a n, kind := .compute, srcs := [a] } (fmtwBody n) s

end Sys2Proof.Machine
end

