-- ==== Sys2Proof/Machine/Root.lean ====
section
/-! DEFINITION. The root instructions (R85, R255 to R266): in task, supervisor and hypervisor mode as their native counterparts, in
root mode confined; the output check (R267, R268), the directory (R271) and the meter (R262). -/

namespace Sys2Proof.Machine

/- ---------------------------------------------------------------- arithmetic and control -/

/-- An operation of major 0x30: the native operation at width d with wrap (R255). -/
def kalu (i : Instr) (d a b : KReg) (f : Word → Word → Word) (s : State) : Host.Outcome State Fault Refusal :=
  alu i 1 (kreg d) (kreg a) (kreg b) f s

def execKAdd (d a b : KReg) (s : State) : Host.Outcome State Fault Refusal :=
  kalu (.kAdd d a b) d a b (addVal .wrap .d) s

def execKSub (d a b : KReg) (s : State) : Host.Outcome State Fault Refusal :=
  kalu (.kSub d a b) d a b (fun x y => satW .wrap .d x y (· - ·)) s

def execKAnd (d a b : KReg) (s : State) : Host.Outcome State Fault Refusal :=
  kalu (.kAnd d a b) d a b (fun x y => x &&& y) s

def execKOr (d a b : KReg) (s : State) : Host.Outcome State Fault Refusal :=
  kalu (.kOr d a b) d a b (fun x y => x ||| y) s

def execKXor (d a b : KReg) (s : State) : Host.Outcome State Fault Refusal :=
  kalu (.kXor d a b) d a b (fun x y => x ^^^ y) s

def execKShl (d a b : KReg) (s : State) : Host.Outcome State Fault Refusal :=
  kalu (.kShl d a b) d a b (fun x y => shlW .d x (shCount .d y)) s

def execKShr (d a b : KReg) (s : State) : Host.Outcome State Fault Refusal :=
  kalu (.kShr d a b) d a b (fun x y => shrW .d x (shCount .d y)) s

def execKSar (d a b : KReg) (s : State) : Host.Outcome State Fault Refusal :=
  kalu (.kSar d a b) d a b (fun x y => sarW .d x (shCount .d y)) s

def execKMul (d a b : KReg) (s : State) : Host.Outcome State Fault Refusal :=
  kalu (.kMul d a b) d a b (fun x y => satW .wrap .d x y (· * ·)) s

def execKSlt (d a b : KReg) (s : State) : Host.Outcome State Fault Refusal :=
  kalu (.kSlt d a b) d a b (fun x y => bool01 (sW .d x < sW .d y)) s

def execKSltu (d a b : KReg) (s : State) : Host.Outcome State Fault Refusal :=
  kalu (.kSltu d a b) d a b (fun x y => bool01 (uW .d x < uW .d y)) s

def execKSeq (d a b : KReg) (s : State) : Host.Outcome State Fault Refusal :=
  kalu (.kSeq d a b) d a b (fun x y => bool01 (uW .d x == uW .d y)) s

def execKAddi (d a : KReg) (i : Fin 65536) (s : State) : Host.Outcome State Fault Refusal :=
  alu1 (.kAddi d a i) (kreg d) (kreg a) (addiVal i.val) s

def execKLdk (d : KReg) (k : Fin 4) (c : Fin 65536) (s : State) : Host.Outcome State Fault Refusal :=
  alu1 (.kLdk d k c) (kreg d) (kreg d) (fun x => insertChunk x k.val c.val) s

def execKBeq (a b : KReg) (i : Fin 65536) (s : State) : Host.Outcome State Fault Refusal :=
  branch (.kBeq a b i) (kreg a) (kreg b) i.val (fun x y => x == y) s

def execKBne (a b : KReg) (i : Fin 65536) (s : State) : Host.Outcome State Fault Refusal :=
  branch (.kBne a b i) (kreg a) (kreg b) i.val (fun x y => x != y) s

def execKBlt (a b : KReg) (i : Fin 65536) (s : State) : Host.Outcome State Fault Refusal :=
  branch (.kBlt a b i) (kreg a) (kreg b) i.val sLt s

def execKBltu (a b : KReg) (i : Fin 65536) (s : State) : Host.Outcome State Fault Refusal :=
  branch (.kBltu a b i) (kreg a) (kreg b) i.val (fun x y => x.toNat < y.toNat) s

def execKJmp (i : Fin 67108864) (s : State) : Host.Outcome State Fault Refusal :=
  issue { i := .kJmp i, noEnd := true } (fun _ s => goto s (dispTarget (pcNow s) 26 i.val) none) s

def execKCall (i : Fin 67108864) (s : State) : Host.Outcome State Fault Refusal :=
  issue { i := .kCall i, noEnd := true, dst := some 1 } (callBody i.val) s

def execKJr (a : KReg) (s : State) : Host.Outcome State Fault Refusal :=
  issue { i := .kJr a, noEnd := true, lead := true, srcs := [kreg a] } (fun ws s => jumpReg s (src ws 0) none) s

/- ---------------------------------------------------------------- loads and stores -/

/-- The bases of the windows IN and SCR (R260). -/
def inWin : Nat := 0x40000000
def scrWin : Nat := 0x50000000

/-- Whether a byte lies in a window. -/
def inRange (lo len a : Nat) : Bool := lo ≤ a && a < lo + len

/-- Whether an access lies wholly in one window. -/
def wholly (lo len ea n : Nat) : Bool := lo ≤ ea && ea + n ≤ lo + len

/-- R260: the first check that a root-mode access fails. -/
def rootCheck (r : RootRun) (ea n : Nat) (store : Bool) : Option Trap :=
  let ok := wholly scrWin r.scrLen ea n || (!store && wholly inWin r.plen ea n)
  let outside (a : Nat) : Bool := !(inRange scrWin r.scrLen a || (!store && inRange inWin r.plen a))
  if !ok then some (Trap.at cCONFINE (((List.range n).map (ea + ·)).find? outside |>.getD ea))
  else if ea % n ≠ 0 then some (Trap.at cALIGN ea)
  else none

/-- Bytes read on the instruction fetch path (R260, R316): the state after it, or the cause and the far address. -/
def fetchBytes (s : State) (c : Nat) : Nat → Nat → Except (Nat × Nat) (State × List Byte)
  | _, 0 => .ok (s, [])
  | a, n + 1 =>
    match fetchLine s c (a / 64 * 64) with
    | .error e => .error (e, a)
    | .ok (s1, bs) =>
      match fetchBytes s1 c (a + 1) n with
      | .error e => .error e
      | .ok (s2, t) => .ok (s2, bs.getD (a % 64) 0 :: t)

/-- The near address of a byte of SCR: it lies at the base of the run's local window (R260). -/
def scrAddr (x : Ctx) (ea : Nat) : Nat := winBase x + (ea - scrWin)

/-- A load in root mode (R260). -/
def rootLoad (r : RootRun) (ea n : Nat) (f : List Byte → State → Res Out) (s : State) : Res Out :=
  match rootCheck r ea n false with
  | some t => .trap t
  | none =>
    if wholly scrWin r.scrLen ea n then
      let a := scrAddr (cx s) ea
      match poisonOwn s s.cur a n with
      | some t => .trap t
      | none => let (bs, s1) := nearLoad s s.cur a n; f bs s1
    else
      match fetchBytes s s.cur (r.inBase + (ea - inWin)) n with
      | .error (e, a) => .trap (fetchTrap s s.cur a e)
      | .ok (s1, bs) => f bs s1

/-- A store in root mode (R260). -/
def rootStore (r : RootRun) (ea : Nat) (bs : List Byte) (s : State) : Res Out :=
  match rootCheck r ea bs.length true with
  | some t => .trap t
  | none => .ok { st := nearStore s s.cur (scrAddr (cx s) ea) bs }

/-- The effect of k.ld (R255, R260). -/
def kldBody (z : LdSize) (o : Nat) : Body := fun ws s =>
  match (cx s).root with
  | none => ldBody z o ws s
  | some r => rootLoad r (eaE (src ws 0) o z.width.bytes) z.width.bytes (fun bs s1 => result s1 (extendLoad z bs)) s

/-- The effect of k.st (R255, R260). -/
def kstBody (z : Width) (o : Nat) : Body := fun ws s =>
  match (cx s).root with
  | none => stBody z o ws s
  | some r => rootStore r (eaE (src ws 0) o z.bytes) (regBytes z (src ws 1)) s

def execKLdD (d b : KReg) (o : Fin 8192) (s : State) : Host.Outcome State Fault Refusal :=
  issue { i := .kLdD d b o, srcs := [kreg b], dst := some (kreg d), ecls := 3 } (kldBody .d o.val) s

def execKLdW (d b : KReg) (o : Fin 8192) (s : State) : Host.Outcome State Fault Refusal :=
  issue { i := .kLdW d b o, srcs := [kreg b], dst := some (kreg d), ecls := 3 } (kldBody .wz o.val) s

def execKStD (r b : KReg) (o : Fin 8192) (s : State) : Host.Outcome State Fault Refusal :=
  issue { i := .kStD r b o, srcs := [kreg b, kreg r], ecls := 3 } (kstBody .d o.val) s

def execKStW (r b : KReg) (o : Fin 8192) (s : State) : Host.Outcome State Fault Refusal :=
  issue { i := .kStW r b o, srcs := [kreg b, kreg r], ecls := 3 } (kstBody .w o.val) s

/- ---------------------------------------------------------------- output, provenance and Almanac -/

/-- A far write of a translator run (R263): translated for its PID, the page marked dirty (R448). -/
def runWrite (s : State) (va : Nat) (bs : List Byte) : Except Trap State :=
  let c := s.cur
  let part := (partOf s c).getD 0
  match translate s (dieOf c) part (pidOf s c) va .write with
  | .error e => .error (farTrap e va)
  | .ok (s1, pa, host) =>
    let s2 := clearWords (rawWrite s1 (farAddr pa host) bs) (farAddr pa host) bs.length
    .ok (if host then s2 else dirtyPage s2 part pa)

/-- The run of the context that issues, changed. -/
def modRun (s : State) (f : RootRun → RootRun) : State := setCur s (fun x => { x with root := x.root.map f })

/-- The effect of k.emit (R263). -/
def kEmitBody : Body := fun ws s =>
  match (cx s).root with
  | none => .trap illegal11
  | some r =>
    let v := (src ws 0).toNat
    let o := 4 * r.out.length
    if 2 ^ 32 ≤ v then .trap illegal11
    else if r.outLim < o + 4 then .trap ⟨cTRANSL_OUTPUT, o, false, 0, 5, none⟩
    else
      match runWrite s (r.outArea + o) (leBytes 4 v) with
      | .error t => .trap t
      | .ok s1 => .ok { st := modRun s1 (fun r => { r with out := v :: r.out }), val := some (w64 o) }

def execKEmit (d a : KReg) (s : State) : Host.Outcome State Fault Refusal :=
  issue { i := .kEmit d a, rootOnly := true, srcs := [kreg a], dst := some (kreg d) } kEmitBody s

/-- The effect of k.emap (R264). -/
def kEmapBody : Body := fun ws s =>
  match (cx s).root with
  | none => .trap illegal11
  | some r =>
    let o := (src ws 0).toNat
    let p := (src ws 1).toNat
    let last := match r.prov with | q :: _ => q.1 | [] => 0
    if o % 4 ≠ 0 || 4 * r.out.length < o || o < last || r.plen ≤ p then .trap illegal11
    else if r.outLim / 4 < r.prov.length + 1 then .trap ⟨cTRANSL_OUTPUT, o, false, 0, 6, none⟩
    else
      match runWrite s (r.provArea + 8 * r.prov.length) (leBytes 4 o ++ leBytes 4 p) with
      | .error t => .trap t
      | .ok s1 => .ok { st := modRun s1 (fun r => { r with prov := (o, p) :: r.prov }) }

def execKEmap (a b : KReg) (s : State) : Host.Outcome State Fault Refusal :=
  issue { i := .kEmap a b, rootOnly := true, srcs := [kreg a, kreg b] } kEmapBody s

def execKLda (d a b : KReg) (s : State) : Host.Outcome State Fault Refusal :=
  issue { i := .kLda d a b, rootOnly := true, srcs := [kreg a, kreg b], dst := some (kreg d) }
    (fun ws s => result s (w64 (almWord (src ws 0).toNat (src ws 1).toNat))) s

/-- The meter count remaining (R262). -/
def meterLeft (x : Ctx) : Nat := match x.root with | some r => r.limit - r.count | none => 0

def execKMtr (d : KReg) (s : State) : Host.Outcome State Fault Refusal :=
  issue { i := .kMtr d, rootOnly := true, dst := some (kreg d) } (fun _ s => result s (w64 (meterLeft (cx s)))) s

/- ---------------------------------------------------------------- the directory -/

/-- The directory of a partition changed. -/
def modDir (s : State) (part : Nat) (f : List DirEnt → List DirEnt) : State := modPart s part (fun p => { p with dir := f p.dir })

/-- The entry of a key (R271). -/
def dirFind (s : State) (part : Nat) (key : List Byte) : Option DirEnt :=
  (getPart? s part).bind (fun p => p.dir.find? (fun e => e.key == key))

/-- An entry hit: it is now the most recently hit. -/
def dirTouch (s : State) (part : Nat) (e : DirEnt) : State :=
  modDir s part (fun l => e :: l.filter (fun f => f.key != e.key))

/-- R271: an entry evicted, with the regions whose apx.beg lies in its output. -/
def dirEvict (s : State) (part : Nat) (e : DirEnt) : State :=
  invalidateAll (modDir s part (fun l => l.filter (fun f => f.key != e.key)))
    (fun r => r.part == part && e.outBase ≤ r.addr && r.addr < e.outBase + e.outLen)

/-- R271: an entry inserted; of 1,024 the least recently hit goes. Log 132 (DESIGN CHOICE). -/
def dirInsert (s : State) (part : Nat) (e : DirEnt) : State :=
  let l := match getPart? s part with | some p => p.dir | none => []
  let s1 := if 1024 ≤ l.length then (match l.getLast? with | some f => dirEvict s part f | none => s) else s
  modDir s1 part (fun l => e :: l)

/- ---------------------------------------------------------------- the output check -/

/-- The reason, ADDR and DETAIL of the first failing word of a check, words numbered from `i`. -/
def firstWord (f : Nat → Nat → Option (Nat × Nat)) : Nat → List Nat → Option (Nat × Nat × Nat)
  | _, [] => none
  | i, w :: t =>
    match f i w with
    | some (reason, detail) => some (reason, 4 * i, detail)
    | none => firstWord f (i + 1) t

/-- R267, reason 2: the target of a branch, jump or call lies in the output of `n` words. -/
def targetIn (n i w : Nat) : Bool :=
  let m := bitsAt w 26 6
  if (0x0A ≤ m && m ≤ 0x0F) || (0x35 ≤ m && m ≤ 0x38) then
    let t := (i : Int) + sx 16 (bitsAt w 0 16)
    decide (0 ≤ t) && decide (t < n)
  else if m = 0x10 || m = 0x11 || m = 0x39 || m = 0x3A then
    let t := (i : Int) + sx 26 (bitsAt w 0 26)
    decide (0 ≤ t) && decide (t < n)
  else true

/-- R267, reason 3: a loop's body lies in the output. -/
def loopIn (n i w : Nat) : Bool := if bitsAt w 26 6 = 0x13 then i + bitsAt w 7 12 + 1 ≤ n - 1 else true

/-- Whether a word is an fmtp. -/
def isFmtp (w : Nat) : Bool := bitsAt w 26 6 == 0x25

/-- R268: the output offset of a private offset, from the pairs in the order they were appended. -/
def mapEntry (prov : List (Nat × Nat)) (n p : Nat) : Option Nat :=
  ((prov.filter (fun q => q.2 == p && q.1 < 4 * n)).map Prod.fst).min?

/-- The check of R267 on the words and pairs in order: reason, ADDR and DETAIL of the first failure. Log 76 (DEDUCED). -/
def outputCheck (ws : List Nat) (prov : List (Nat × Nat)) (ents : List Nat) : Option (Nat × Nat × Nat) :=
  let n := ws.length
  if n = 0 then some (8, 0, 0)
  else
    (firstWord (fun i w => (wordFails w (0 < i && isFmtp (ws.getD (i - 1) 0))).map (fun d => (1, d))) 0 ws).or <|
    (firstWord (fun i w => if targetIn n i w then none else some (2, 0)) 0 ws).or <|
    (firstWord (fun i w => if loopIn n i w then none else some (3, 0)) 0 ws).or <|
    (if isFmtp (ws.getD (n - 1) 0) then some (4, 4 * (n - 1), 0) else none).or <|
    (ents.find? (fun p => (mapEntry prov n p).isNone)).map (fun p => (7, p, 0))

/- ---------------------------------------------------------------- the ends of a run -/

/-- A run whose output passed the check (R266, R271): its entry is inserted, or the one another run inserted first is reported.
Log 76 (DEDUCED). -/
def runDone (s : State) (c : Nat) (r : RootRun) (q : HReq) (pc : Nat) : State :=
  match dirFind s q.part q.key with
  | some e =>
    rootStop (dirTouch s q.part e) c r.req
      (fun _ => [2 ^ 32, r.count % 2 ^ 32 + e.outLen * 2 ^ 32, e.provN, 0, 0, 0, e.outBase, e.provBase])
  | none =>
    let n := r.out.length
    let prov := r.prov.reverse
    let e : DirEnt := ⟨q.key, r.outArea, 4 * n, r.provArea, prov.length, prov, q.entries.map (fun p => (p, (mapEntry prov n p).getD 0))⟩
    rootStop (dirInsert s q.part e) c r.req
      (fun _ => [0, r.count % 2 ^ 32 + 4 * n * 2 ^ 32, prov.length, pc, 0, 0, r.outArea, r.provArea])

/-- What follows a k.tend that has retired (R266, R267). Log 76 (DEDUCED). -/
def tendEnd (s : State) (c : Nat) (r : RootRun) (pc : Nat) : State :=
  match findReq s r.req with
  | none => rootEnd s c r 0 pc 0 0
  | some q =>
    match outputCheck r.out.reverse r.prov.reverse q.entries with
    | some (reason, addr, detail) => rootEnd s c r (cTRANSL_OUTPUT + reason * 2 ^ 16) pc addr detail
    | none => runDone s c r q pc

/-- The end of a run by an instruction that has retired; nothing more where it has not. Log 76 (DEDUCED). -/
def endRun (f : State → Nat → RootRun → Nat → State) (s s1 : State) : State :=
  let c := s.cur
  match (getCtx s c).root, (getCtx s1 c).root with
  | some r, some r1 => if r1.count = r.count + 1 then f s1 c r1 (getCtx s c).pc.toNat else s1
  | _, _ => s1

def execKTend (s : State) : Host.Outcome State Fault Refusal :=
  .next (endRun tendEnd s (issueWord ((encodeNat .kTend).getD 0) { i := .kTend, rootOnly := true } noEffect s))

/-- The status of k.tfail (R270). -/
def sTFAIL : Nat := 0x8000

/-- R266: DETAIL is g[a]. Log 76 (DEDUCED). -/
def execKTfail (a : KReg) (s : State) : Host.Outcome State Fault Refusal :=
  .next (endRun (fun s1 c r pc => rootEnd s1 c r sTFAIL pc 0 (getReg (getCtx s1 c) (kreg a)).toNat) s
    (issueWord ((encodeNat (.kTfail a)).getD 0) { i := .kTfail a, rootOnly := true, srcs := [kreg a] } noEffect s))

/-- R262: the run of a context whose next instruction would retire with the meter at its limit ends. Names the context. Log 78 (DEDUCED). -/
def meterEv (s : State) : State :=
  let c := argN s 0
  let x := getCtx s c
  match x.root with
  | some r => if x.waiting && issuing x.mode && r.limit ≤ r.count then rootTrap s c r ⟨cMETER, 0, false, 0, 0, none⟩ x.pc.toNat else s
  | none => s

def execMeter (s : State) : Host.Outcome State Fault Refusal := happens meterEv s

end Sys2Proof.Machine
end

