-- ==== Sys2Proof/Machine/Translator.lean ====
section
/-! DEFINITION. Preparing and starting a translator run (R258, R259, R272, R274 to R276, R387) and its result record (R270). -/

namespace Sys2Proof.Machine

/- ---------------------------------------------------------------- reading the image -/

/-- Far bytes read line by line, each translated: the state after it, or the cause and the address that faulted, UNCORRECTABLE at a poisoned
word (R426). -/
def farBytes (s : State) (die part pid : Nat) (k : Kind) : Nat → Nat → Nat → Except (Nat × Nat) (State × List Byte)
  | 0, _, _ => .ok (s, [])
  | f + 1, va, n =>
    if n = 0 then .ok (s, [])
    else
      match translate s die part pid va k with
      | .error c => .error (c, va)
      | .ok (s1, pa, host) =>
        let m := min n (64 - va % 64)
        match poisonedIn s1 (farAddr pa host) m with
        | some w => .error (cUNCORRECTABLE, max va (va + w * 8 - farAddr pa host))
        | none =>
        match farBytes s1 die part pid k f (va + m) (n - m) with
        | .error x => .error x
        | .ok (s2, bs) => .ok (s2, memRead s2.mem (farAddr pa host) m ++ bs)

/-- Far bytes of a length. -/
def readFar (s : State) (die part pid va n : Nat) : Except (Nat × Nat) (State × List Byte) :=
  farBytes s die part pid .read (n / 64 + 2) va n

/-- A field of a header. -/
def fieldOf (h : List Byte) (off n : Nat) : Nat := leNat ((h.drop off).take n)

/-- The fields of a Vexid header (R274). -/
structure Vexid where
  keyflags : Nat
  toff : Nat
  tlen : Nat
  tentry : Nat
  poff : Nat
  plen : Nat
  eoff : Nat
  ecount : Nat
  meter : Nat
  outlim : Nat
  soff : Nat
  ilen : Nat
  deriving DecidableEq, Repr

/-- The fields at their offsets. -/
def vexidOf (h : List Byte) : Vexid :=
  ⟨fieldOf h 0x08 8, fieldOf h 0x10 4, fieldOf h 0x14 4, fieldOf h 0x18 4, fieldOf h 0x1C 4, fieldOf h 0x20 4, fieldOf h 0x24 4,
   fieldOf h 0x28 4, fieldOf h 0x2C 4, fieldOf h 0x30 4, fieldOf h 0x34 4, fieldOf h 0x38 4⟩

/-- SIG, and the length of SCR in bytes. -/
def Vexid.sig (v : Vexid) : Bool := bitAt v.keyflags 0
def Vexid.scrLen (v : Vexid) : Nat := bitsAt v.keyflags 16 16 * 1024

/-- The ranges of an image that may not overlap (R274): the header, the sections, the entry table and the signature block. -/
def Vexid.ranges (v : Vexid) : List (Nat × Nat) :=
  [(0, 128), (v.toff, v.tlen), (v.poff, v.plen), (v.eoff, 16 * v.ecount)] ++ (if v.sig then [(v.soff, 148)] else [])

/-- Whether no two ranges of a list overlap. -/
def apart : List (Nat × Nat) → Bool
  | [] => true
  | a :: t => t.all (fun b => a.1 + a.2 ≤ b.1 || b.1 + b.2 ≤ a.1) && apart t

/-- R274: whether a header is in order. Log 74 (DEDUCED). -/
def vexidOk (h : List Byte) : Bool :=
  let v := vexidOf h
  fieldOf h 0 4 == 0x44495856 && fieldOf h 4 2 == 1 && fieldOf h 6 2 == 128 && (h.drop 0x3C).all (· == 0) &&
    bitsAt v.keyflags 1 15 == 0 && bitsAt v.keyflags 32 32 == 0 && 1 ≤ bitsAt v.keyflags 16 16 && bitsAt v.keyflags 16 16 ≤ 64 &&
    v.toff % 64 == 0 && 4 ≤ v.tlen && v.tlen ≤ 2 ^ 24 && v.tlen % 4 == 0 && v.tentry < v.tlen && v.tentry % 4 == 0 &&
    1 ≤ v.plen && v.plen ≤ 2 ^ 24 && v.eoff % 16 == 0 && 1 ≤ v.ecount && v.ecount ≤ 4096 && 1 ≤ v.meter &&
    4 ≤ v.outlim && v.outlim ≤ 2 ^ 24 && v.outlim % 4 == 0 && 128 ≤ v.ilen &&
    (if v.sig then v.soff % 16 == 0 && v.toff + v.tlen ≤ v.soff && v.poff + v.plen ≤ v.soff && v.eoff + 16 * v.ecount ≤ v.soff
     else v.soff == 0) &&
    v.ranges.all (fun r => r.1 + r.2 ≤ v.ilen) && apart v.ranges

/-- The entries of an entry table (R275): their private offsets, or none where one is out of order. -/
def entryTable (plen : Nat) : Nat → List Byte → Option (List Nat)
  | 0, _ => some []
  | n + 1, bs =>
    let p := fieldOf bs 0 4
    if plen ≤ p || fieldOf bs 4 4 ≠ 0 then none else (entryTable plen n (bs.drop 16)).map (fun t => p :: t)

/-- The message of the key (R272). Log 9 (PRESUMED). -/
def keyMessage (v : Vexid) (tsec pcode : List Byte) : List Byte :=
  leBytes 8 v.tlen ++ tsec ++ leBytes 8 v.plen ++ pcode ++ leBytes 8 Config.almanacRev ++ leBytes 8 v.keyflags

/-- What reading an image gives: a failure's status, reason and address, a poisoned word's address (R426), or the header, the entries, the key
and the state. -/
inductive ImageRead where
  | fail (status reason addr : Nat)
  | poison (addr : Nat)
  | ok (h : List Byte) (ents : List Nat) (key : List Byte) (s : State)
  deriving DecidableEq, Repr

/-- A read fault's status (R276): a far address outside the address space translates to nothing. Log 74 (DEDUCED). -/
def readStatus (c : Nat) : Nat := if c = cFAR_PERMISSION then c else cFAR_TRANSLATE

/-- The parts of an image that a header names (R274), each read in turn (R276 step 1): what was read of each. -/
def readParts (s : State) (die part pid image : Nat) : List (Nat × Nat) → Except (Nat × Nat) (State × List (List Byte))
  | [] => .ok (s, [])
  | (off, n) :: t =>
    match readFar s die part pid (image + off) n with
    | .error x => .error x
    | .ok (s1, bs) =>
      match readParts s1 die part pid image t with
      | .error x => .error x
      | .ok (s2, l) => .ok (s2, bs :: l)

/-- An image's bytes that cannot be read. -/
def readFail (c a : Nat) : ImageRead := if c = cUNCORRECTABLE then .poison a else .fail (readStatus c) 0 a

/-- Steps 1 and 2 of R276: everything is read before the header is checked; an image that is not aligned has no header in its place
(R258). Log 74 (DEDUCED). -/
def readImage (s : State) (die part pid image : Nat) : ImageRead :=
  match readFar s die part pid image 128 with
  | .error (c, a) => readFail c a
  | .ok (s1, h) =>
    let v := vexidOf h
    match readParts s1 die part pid image (v.ranges.drop 1) with
    | .error (c, a) => readFail c a
    | .ok (s2, l) =>
      match if image % 64 = 0 && vexidOk h then entryTable v.plen v.ecount (l.getD 2 []) else none with
      | none => .fail cTRANSL_OUTPUT 9 0
      | some ents => .ok h ents ((sha512 (keyMessage v (l.getD 0 []) (l.getD 1 []))).take 32) s2

/-- R276 step 4: the pages of a range that hold `n` more of 4 KiB from `va`, each translated for a write. -/
def pagesWritable (s : State) (die part pid : Nat) : Nat → Nat → Except (Nat × Nat) State
  | 0, _ => .ok s
  | n + 1, va =>
    match translate s die part pid va .write with
    | .error c => .error (c, va)
    | .ok (s1, _, _) => pagesWritable s1 die part pid n (va + 4096)

/-- The pages of a range from its first. -/
def rangeWritable (s : State) (die part pid base len : Nat) : Except (Nat × Nat) State :=
  pagesWritable s die part pid ((base + len - 1) / 4096 - base / 4096 + 1) (base / 4096 * 4096)

/- ---------------------------------------------------------------- preparing -/

/-- Whether a run block lies in cluster memory and is aligned (R258). -/
def blockOk (c a : Nat) : Bool :=
  decide (a < 2 ^ 32) && a % 128 == 0 && (List.range 128).all (fun i => match areaFor c (a + i) with
    | .cluster _ => true
    | _ => false)

/-- A 64-bit word of near memory as the hypervisor reads it. -/
def hvWord (s : State) (r : HReq) (a : Nat) : Nat := memNat s.mem (phys r.ctx a) 8

/-- R258: whether the words of a run block are in order; an IMAGE that is not aligned fails as an image does. Log 74 (DEDUCED). -/
def blockWordsOk (image out prov : Nat) : Bool :=
  out % 4096 == 0 && prov % 8 == 0 && image / 2 ^ 48 == 0 && out / 2 ^ 48 == 0 && prov / 2 ^ 48 == 0

/-- A run that ends before it began (R276): its result words wait for the hypervisor. -/
def prepFail (s : State) (r : HReq) (status reason addr : Nat) : State :=
  postOnce (putReq s { r with stage := 5, res := [status + reason * 2 ^ 16, 0, 0, 0, addr, 0, r.outArea, r.provArea] }) .hcallReply [r.id]

/-- A run whose pages cannot be translated ends as a read fault does; a poisoned word of their tables is contained (R426, R432). -/
def prepErr (s : State) (r : HReq) (c a : Nat) : State :=
  if c = cUNCORRECTABLE then farRefuse s r a else prepFail s r (readStatus c) 0 a

/-- What follows when the image is in order and its key is known (R271, R276 step 4): a hit, or the run is to be started.
Log 75 (DEDUCED). -/
def prepRun (s : State) (r : HReq) (v : Vexid) : State :=
  match dirFind s r.part r.key with
  | some e =>
    postOnce (putReq (dirTouch s r.part e) { r with
      stage := 5, res := [2 ^ 32, e.outLen * 2 ^ 32, e.provN, 0, 0, 0, e.outBase, e.provBase] }) .hcallReply [r.id]
  | none =>
    let die := dieOf r.ctx
    match rangeWritable s die r.part r.pid r.outArea v.outlim with
    | .error (c, a) => prepErr s r c a
    | .ok s1 =>
      match rangeWritable s1 die r.part r.pid r.provArea (2 * v.outlim) with
      | .error (c, a) => prepErr s r c a
      | .ok s2 => addReq (putReq s2 { r with stage := 1 }) die { bareReq 4 with ctx := r.ctx, part := r.part, pid := r.pid, n := r.id }

/-- Whether a partition runs unsigned images (R441). -/
def unsignedRuns (s : State) (part : Nat) : Bool := match getPart? s part with | some p => p.cfg.unsignedOk | none => false

/-- R258, R276, R387: the hypervisor takes an hcall 16: the run block is read once, the image is read and checked, the key is written
to the block and looked up. Names the request. Log 74 (DEDUCED). -/
def imagePrepareEv (s : State) : State :=
  match findReq s (argN s 0) with
  | none => s
  | some r =>
    if r.stage ≠ 0 || r.code ≠ 16 then s
    else if let some s1 := hvRefuse s r r.arg 0x20 then s1
    else
      let image := hvWord s r r.arg
      let out := hvWord s r (r.arg + 8)
      let prov := hvWord s r (r.arg + 16)
      let cap := hvWord s r (r.arg + 24)
      if !blockOk r.ctx r.arg || !blockWordsOk image out prov then answer s r 2 0x100
      else
        let slack := if cap / 2 ^ 32 = 0 then Config.translatorSlack else cap / 2 ^ 32
        let r1 : HReq := { r with image := image, outArea := out, provArea := prov, meterCap := cap % 2 ^ 32, rslack := slack }
        match readImage s (dieOf r.ctx) r.part r.pid image with
        | .fail status reason addr => prepFail s r1 status reason addr
        | .poison addr => farRefuse s r1 addr
        | .ok h ents key s1 =>
          let v := vexidOf h
          if !v.sig && !unsignedRuns s r.part then prepFail s1 r1 cTRANSL_OUTPUT 10 0
          else
            let (s2, r2) := hvWrite s1 r1 (phys r.ctx (r.arg + 0x20)) key
            prepRun s2 { r2 with key := key, entries := ents, hdr := h } v

def execImagePrepare (s : State) : Host.Outcome State Fault Refusal := happens imagePrepareEv s

/- ---------------------------------------------------------------- starting -/

/-- The meter limit (R259). -/
def meterLimit (r : HReq) : Nat :=
  let m := (vexidOf r.hdr).meter
  if r.meterCap = 0 then m else min r.meterCap m

/-- The entry of a run (R258): its window holds SCR, its range is every core of the requester's cluster. Log 75 (DEDUCED). -/
def runEntry (r : HReq) (graph : Nat) : Entry :=
  let v := vexidOf r.hdr
  let place := 255 + clusterOf r.ctx % 256 * 2 ^ 8 + 2 ^ 16
  { blankEntry r.part r.pid graph (v.scrLen / 128 * 2 ^ 29) place with
    code := r.image + v.toff + v.tentry, budget := meterLimit r + 16, slack := r.rslack, rootReq := some r.id, startView := r.view }

/-- The registers and the run a context begins with (R259). -/
def beginRun (r : HReq) (m : RunMode) (x : Ctx) : Ctx :=
  let v := vexidOf r.hdr
  { x with
    g := ((((Ctx.reset.g.set 4 (w64 inWin)).set 5 (w64 v.plen)).set 6 (w64 scrWin)).set 7 (w64 v.scrLen)).set 8 (w64 Config.almanacRev)
    st := 4
    root := some
      { req := r.id, limit := meterLimit r, count := 0, tbase := r.image + v.toff, tlen := v.tlen, inBase := r.image + v.poff, plen := v.plen
        scrLen := v.scrLen, outArea := r.outArea, outLim := v.outlim, provArea := r.provArea, out := [], prov := [] }
    mode := m }

/-- Whether a run's request is the one that the Drover of a die decides next (R343). -/
def runIsNext (s : State) (die id : Nat) : Bool :=
  match (getDie s die).reqs with
  | q :: _ => q.kind == 4 && q.n == id
  | [] => false

/-- R258, R259: the Drover decides a prepared run in its turn among the requests (R343), and a run that it has placed starts in root mode;
one whose request is gone is not decided. Names the request. Log 75 (DEDUCED). -/
def translatorRunStartEv (s : State) : State :=
  match findReq s (argN s 0) with
  | none => (s.dies.filter (fun d => runIsNext s d.1 (argN s 0))).foldl (fun s d => dropReq s d.1) s
  | some r =>
    let die := dieOf r.ctx
    match (getDie s die).entries.find? (fun e => e.rootReq == some r.id) with
    | some e =>
      match e.state, e.members with
      | .pushing, c :: _ =>
        giveWay (modEnt (modCtx s c (beginRun r (runMode s e.part))) die e.order (fun f => { f with state := .placed })) c
      | _, _ => s
    | none =>
      if !runIsNext s die r.id then s
      else if r.stage ≠ 1 || r.code ≠ 16 then dropReq s die
      else
        let (g, s1) := fresh s
        let e := runEntry r g
        let code := decideTask s1 die e 0 false
        dropReq (if code = 0 then (admitTask (putReq s1 { r with stage := 6 }) die e 0).1 else answer s r 2 code) die

def execTranslatorRunStart (s : State) : Host.Outcome State Fault Refusal := happens translatorRunStartEv s

/-- The result words of a run written to its block, and its answer (R258, R270). -/
def finishRun (s : State) (r : HReq) : State :=
  let (s1, r1) := hvWrite s r (phys r.ctx (r.arg + 0x40)) (r.res.flatMap (leBytes 8))
  answer s1 r1 1 (r.res.getD 0 0)

end Sys2Proof.Machine
end

