-- ==== Sys2Proof/Machine/Reliab.lean ====
section
/-! DEFINITION. Reliability (R352, R424 to R440): the scan rotation and the ends of scans, TAINT notices, uncorrectable errors,
and the vertical buses of the memory channels. -/

namespace Sys2Proof.Machine

/- ---------------------------------------------------------------- retirement -/

/-- The usable cores of a die (R286). Log 83 (DEDUCED). -/
def dieUsable (s : State) (die : Nat) : Nat :=
  2048 - (s.cores.filter (fun c => dieOfCore c.1 == die && coreSealed s c.1)).length

/-- The partitions with clusters on a die, in ascending class, each with its minimum there. -/
def dieParts (s : State) (die : Nat) : List (Nat × PartSt) :=
  let ps := s.parts.filter (fun p => p.2.cfg.clusters.any (fun c => c / 256 == die))
  (List.range 8).flatMap (fun k => ps.filter (fun p => p.2.cfg.cls % 8 == k))

/-- Of two partitions of a class the one whose minimum is larger, which is lowered first (R352). -/
def largerMin (die : Nat) (a b : Nat × PartSt) : Bool := minimumOf a.2 die < minimumOf b.2 die

/-- One partition inserted in the order of lowering: ascending class, within a class the largest minimum first. -/
def insLower (die : Nat) (p : Nat × PartSt) : List (Nat × PartSt) → List (Nat × PartSt)
  | [] => [p]
  | q :: t => if q.2.cfg.cls = p.2.cfg.cls && largerMin die q p then p :: q :: t else q :: insLower die p t

/-- The order in which minima are lowered (R352). -/
def lowerOrder (s : State) (die : Nat) : List (Nat × PartSt) :=
  (dieParts s die).foldl (fun l p => insLower die p l) []

/-- The minima of a die lowered until they fit, each only as far as needed: the state and the partitions whose minimum changed.
Log 83 (DEDUCED). -/
def lowerMinima (s : State) (die : Nat) : State × List Nat :=
  let ps := lowerOrder s die
  let total := ps.foldl (fun n p => n + minimumOf p.2 die) 0
  let (s1, _, changed) := ps.foldl (fun (acc : State × Nat × List Nat) p =>
    let g := minimumOf p.2 die
    let cut := min g acc.2.1
    if cut = 0 then acc
    else (modPart acc.1 p.1 (fun q => { q with minG := q.minG.put die (g - cut) }), acc.2.1 - cut, acc.2.2 ++ [p.1]))
    (s, total - dieUsable s die, [])
  (s1, changed)

/-- R352, R353: a core or a channel of a die has retired: minima are lowered, and the partitions touched are tested again.
Log 83 (DEDUCED). -/
def afterRetirement (s : State) (die : Nat) (owner : Option Nat) : State :=
  let (s1, changed) := lowerMinima s die
  (dieParts s1 die).foldl (fun s p =>
    if changed.contains p.1 || owner == some p.1 then postOnce s .revocationTest [die, p.1] else s) s1

/- ---------------------------------------------------------------- TAINT -/

/-- The partition a tag was assigned in (R430); a tag names its die in its top bits (R286). -/
def partOfTag (s : State) (tag : Nat) : Option Nat := (getDie s (tag / 2 ^ 29 % 8)).tagParts.get? tag

/-- One TAINT entry (R431): what failed, when, its number, the entries of the notice and its tags. -/
def taintEntry (ovf mem : Bool) (id last now n total : Nat) (tags : List Nat) : List Byte :=
  leBytes 2 0x22 ++ leBytes 2 (bit ovf + 2 * bit mem) ++ leBytes 4 id ++ leBytes 8 last ++ leBytes 8 now ++ leBytes 2 n ++
    leBytes 2 total ++ leBytes 2 tags.length ++ leBytes 2 0 ++ tags.flatMap (leBytes 4) ++ List.replicate (96 - 4 * tags.length) 0

/-- A list cut into pieces of 24; an empty one is one empty piece. -/
def pieces24 : Nat → List Nat → List (List Nat)
  | 0, _ => []
  | n + 1, l => if l.length ≤ 24 then [l] else l.take 24 :: pieces24 n (l.drop 24)

/-- R431: the notice of a failed scan to one partition. Log 84 (DEDUCED). -/
def taintNotice (s : State) (die part : Nat) (ovf mem : Bool) (id last : Nat) (tags : List Nat) : State :=
  let now := (getDie s die).counter
  let ps := pieces24 1025 tags
  ps.zipIdx.foldl (fun s p => enqueueFault s part die (taintEntry ovf mem id last now p.2 ps.length p.1)) s

/-- Whether a partition has run on a die since a value of its counter (R431): a context of it there was freed since, or holds a task
now. Log 84 (DEDUCED). -/
def ranSince (s : State) (die part last : Nat) : Bool :=
  (match (getDie s die).ran.get? part with | some t => last ≤ t | none => false) ||
    s.ctxs.any (fun c => !isMem c.1 && dieOf c.1 == die && c.2.mode != .free && partOf s c.1 == some part)

/-- R431: the notices of a failed scan: to each partition whose tags are listed, or under OVF to each that has run on the die since the
core's last pass. Log 84 (DEDUCED). -/
def taintNotices (s : State) (die : Nat) (taint : List Nat) (ovf mem : Bool) (id last : Nat) : State :=
  (s.parts.map Prod.fst).foldl (fun s p =>
    let tags := taint.reverse.filter (fun t => partOfTag s t == some p)
    if tags.isEmpty && !(ovf && ranSince s die p last) then s else taintNotice s die p ovf mem id last tags) s

/- ---------------------------------------------------------------- the ends of scans -/

/-- The clusters that the scan rotation of a die has taken. -/
def rotatingOf (s : State) (die : Nat) : List Nat :=
  (s.clusters.filter (fun c => c.1 / 256 == die && c.2.rotating)).map Prod.fst

/-- A cluster given back by the rotation: the supervisors' home contexts that it saved go on. Log 98 (DEDUCED). -/
def returnCluster (s : State) (cl : Nat) : State := returnHomes (modCluster s cl (fun k => { k with rotating := false })) cl

/-- R427 step 4: the clusters a rotation has taken go back, with the memory core scanned beside them (R428). -/
def returnClusters (s : State) (die : Nat) : State :=
  let s1 := (rotatingOf s die).foldl returnCluster s
  let s2 := { s1 with chans := s1.chans.map (fun p => if p.1 / 32 = die then (p.1, { p.2 with scanning := false }) else p) }
  wakeReady s2 die

/-- One of the cores of a rotation's scan has been scanned; after the last the cluster is returned. -/
def rotationDone (s : State) (die id : Nat) : State :=
  let left := (getDie s die).rotCores.filter (· != id)
  if (getDie s die).rotCores.contains id then
    let s1 := modDie s die (fun d => { d with rotCores := left })
    if left.isEmpty then returnClusters s1 die else s1
  else s

/-- A pass of a compute core (R398, R429, R431, R433). -/
def scanPass (s : State) (core : Nat) : State :=
  let now := (getDie s (dieOfCore core)).counter
  let s1 := modCore s core (fun k =>
    let fold := k.fold == .scan
    { k with
      scan := 2, taint := [], taintOvf := false, lastPass := now, errScan := false
      fold := if fold then .service else k.fold, score := if fold then k.score / 2 else k.score })
  wakeReady (returnHomes s1 (clusterOfCore core)) (dieOfCore core)

/-- A failure of a compute core (R398, R431): it retires. -/
def scanFail (s : State) (core : Nat) : State :=
  let die := dieOfCore core
  let k := getCore s core
  let s1 := modCore s core (fun k => { k with scan := 3, fold := .retired, armed := none })
  afterRetirement (taintNotices s1 die k.taint k.taintOvf false core k.lastPass) die (getCluster s (clusterOfCore core)).part

/-- R352: a channel retires: no partition has a share on its memory core any more, and the minima of its die are tested.
Log 83 (DEDUCED). -/
def retireChan (s : State) (ch : Nat) : State :=
  let s1 := modChan s ch (fun k => { k with retired := true })
  afterRetirement { s1 with parts := s1.parts.map (fun p => (p.1, { p.2 with
    cfg := { p.2.cfg with shares := Tab.put p.2.cfg.shares ch 0 } })) } (ch / 32) none

/-- The end of a memory core's scan (R428, R431, R433). Log 81 (DEDUCED), 82 (DEDUCED). -/
def memScanEnd (s : State) (ch : Nat) (fail : Bool) : State :=
  let die := ch / 32
  let k := getChan s ch
  let s1 := modChan s ch (fun k => { k with errScan := false })
  if fail then retireChan (taintNotices s1 die k.taint k.taintOvf true (ch % 32 + die * 32) k.lastPass) ch
  else modChan s1 ch (fun k => { k with taint := [], taintOvf := false, lastPass := (getDie s die).counter })

/-- R254, R398, R427 to R431: the stored patterns end. Names the core, a memory core as 65,536 + its channel, and 1 for a failure.
Log 81 (DEDUCED). -/
def scanPatternsEndEv (s : State) : State :=
  let id := argN s 0
  let fail := argN s 1 != 0
  if isMem id then
    let ch := id - memBase
    if (getDie s (ch / 32)).rotCores.contains id || (getChan s ch).errScan then rotationDone (memScanEnd s ch fail) (ch / 32) id else s
  else if (getCore s id).scan ≠ 1 then s
  else rotationDone (if fail then scanFail s id else scanPass s id) (dieOfCore id) id

def execScanPatternsEnd (s : State) : Host.Outcome State Fault Refusal := happens scanPatternsEndEv s

/- ---------------------------------------------------------------- the rotation -/

/-- The cores of a cluster that a rotation scans (R427): those in the Fold, retired or being scanned are skipped. Log 98 (DEDUCED). -/
def rotationCores (s : State) (cl : Nat) : List Nat :=
  (coresOf cl).filter (fun c => (getCore s c).fold == .service && (getCore s c).scan != 1 && !(getCore s c).errScan)

/-- The channel whose memory core is scanned with a cluster (R428). -/
def rotationChan (cl : Nat) : Option Nat := if cl % 8 = 0 then some (cl / 256 * 32 + cl % 256 / 8) else none

/-- A rotation takes its next cluster: no new task there, and every task is asked to give way (R427 steps 1 and 2). Log 98 (DEDUCED). -/
def takeCluster (s : State) (die : Nat) : State :=
  let n := (getDie s die).rotNext
  let cl := die * 256 + n
  let s1 := modDie (modCluster s cl (fun k => { k with rotating := true })) die (fun d => { d with rotNext := (n + 1) % 256 })
  let s2 := match rotationChan cl with
    | some ch => modChan s1 ch (fun k => { k with scanning := !k.retired })
    | none => s1
  postOnce ((coresOf cl).foldl clearCore s2) .rotationClusterStart [die]

/-- The patterns start on a cluster that is clear (R427 step 3), its island ON (R459). -/
def scanCluster (s : State) (die cl : Nat) : State :=
  let cs := rotationCores s cl
  let ids := cs ++ (match rotationChan cl with
    | some ch => if (getChan s ch).scanning then [memBase + ch] else []
    | none => [])
  let s1 := cs.foldl (fun s c => modCore s c (fun k => { k with scan := 1 })) (ungate s cl)
  if ids.isEmpty then returnClusters s1 die
  else ids.foldl (fun s i => postOnce s .scanPatternsEnd [i, 0]) (modDie s1 die (fun d => { d with rotCores := ids }))

/-- R427, R428: the scan controller of a die takes its next cluster, or, once every context there is free, starts the patterns. Names
the die. Log 98 (DEDUCED). -/
def rotationStartEv (s : State) : State :=
  let die := argN s 0
  match rotatingOf s die with
  | [] => takeCluster s die
  | cl :: _ =>
    let mems := match rotationChan cl with | some ch => memCtxs ch | none => []
    if !(getDie s die).rotCores.isEmpty then s
    else if ((coresOf cl).flatMap ctxsOf ++ mems).all (fun c => (getCtx s c).mode == .free) then scanCluster s die cl
    else postOnce ((coresOf cl).foldl clearCore s) .rotationClusterStart [die]

def execRotationClusterStart (s : State) : Host.Outcome State Fault Refusal := happens rotationStartEv s

/- ---------------------------------------------------------------- uncorrectable errors -/

/-- A queue's commands that it has not started complete with 0x8011 (R435), each with its SEQ; `n` of them from ACCEPTED.
Log 86 (DEDUCED). -/
def dropCommands (s : State) (part q : Nat) (utag : State → Nat → Nat) : Nat → Nat → State
  | 0, _ => s
  | n + 1, seq =>
    dropCommands (completeLaunch s (some ⟨part, q, seq % 2 ^ 32, utag s (seq % 2 ^ 32)⟩) 0 0x8011 0) part q utag n (seq + 1)

/-- A queue of a partition, and one changed. -/
def getQueue (s : State) (part q : Nat) : Option LaunchQ := s.queues.get? (part * 64 + q)
def modQueue (s : State) (part q : Nat) (f : LaunchQ → LaunchQ) : State :=
  match getQueue s part q with
  | some x => { s with queues := s.queues.put (part * 64 + q) (f x) }
  | none => s

/-- The die that translates for a partition's queues: that of its first cluster. Log 89 (DESIGN CHOICE). -/
def homeOf (s : State) (part : Nat) : Nat :=
  match getPart? s part with
  | some p => p.cfg.clusters.headD 0 / 256
  | none => 0

/-- Where byte `off` of a ring of a queue lies, its ring in host memory or in far memory under the queue's PID. Log 89 (DESIGN CHOICE). -/
def ringAddr (s : State) (part : Nat) (q : LaunchQ) (base off : Nat) (k : Kind) : Except Nat (State × Nat) :=
  if q.cfg.host then .ok (s, farAddr (base + off) true)
  else (translate s (homeOf s part) part q.cfg.pid (base + off) k).map (fun r => (r.1, farAddr r.2.1 r.2.2))

/-- The UTAG of a command in its ring, zero where it cannot be read. Log 86 (DEDUCED). -/
def utagOf (part q : Nat) (s : State) (seq : Nat) : Nat :=
  match getQueue s part q with
  | none => 0
  | some x =>
    match ringAddr s part x x.cfg.cmdBase (seq % x.cfg.entries * 256 + 8) .read with
    | .ok (_, a) => if (poisonedIn s a 8).isSome then 0 else memNat s.mem a 8
    | .error _ => 0

/-- R432 level 3, R435: a launch queue torn down: its entry, and its unstarted commands complete; a further error of a queue torn down
before is reported too. `ring` says that its completion ring is not intact. Log 86 (DEDUCED). -/
def tearDown (s : State) (part q addr : Nat) (ring : Bool) : State :=
  match getQueue s part q with
  | none => s
  | some x =>
    let s1 := enqueueFault s part (homeOf s part) (uncorrEntry s none 5 3 addr true false 0x3FFF)
    let s2 := modQueue s1 part q (fun x => { x with torn := true, badRing := x.badRing || ring })
    if x.torn then s2
    else dropCommands s2 part q (utagOf part q) (min x.cfg.entries ((x.submit + 2 ^ 32 - x.accepted) % 2 ^ 32)) x.accepted

/-- R432 level 4: partition state fails: its entry, the Whistle stops the partition, and the hypervisor is told. -/
def partError (s : State) (part die addr : Nat) (far : Bool) : State :=
  let s1 := whistleStop (enqueueFault s part die (uncorrEntry s none 6 4 addr far false 0x3FFF)) part none
  { s1 with reports := s1.reports ++ [.stateFailed part] }

/-- A word poisoned (R426). -/
def poisonWord (s : State) (w : Nat) : State := if s.poison.contains w then s else { s with poison := w :: s.poison }

/-- An entry of a channel's array log (R439) for the word of a device address: its KIND and BIT; the oldest of 64 is overwritten. -/
def logArray (s : State) (pa kind bit : Nat) : State :=
  let w := kind * 2 ^ 62 + pa / 8 % 8 * 2 ^ 59 + bit * 2 ^ 52 + pa / 64 % 2 ^ 33
  modChan s (chanOf pa) (fun k => { k with arrayLog := ((w, (getDie s (chanOf pa / 32)).counter) :: k.arrayLog).take 64 })

/-- A word of far memory that cannot be corrected, by its device or host address (R436): logged where it is in the device's memory, and
poisoned. Log 85 (DESIGN CHOICE). -/
def poisonDev (s : State) (pa : Nat) (host : Bool) : State :=
  poisonWord (if host then s else logArray s pa 2 127) (farAddr pa host / 8)

/-- A far word of a process that cannot be corrected. -/
def poisonFar (s : State) (part pid va : Nat) : State :=
  match walkVa s part pid va with
  | .ok x => poisonDev s x.pa x.host
  | .error _ => s

/-- The word behind an address that a context names, poisoned where it is in memory. -/
def poisonAt (s : State) (c kind addr : Nat) : State :=
  if kind = 5 then poisonFar s ((partOf s c).getD 0) (pidOf s c) addr
  else if kind = 1 || kind = 2 || kind = 3 then poisonWord s (phys c addr / 8)
  else s

/-- The word of a queue's ring or order at an address, poisoned (R436). -/
def poisonQueue (s : State) (part q addr : Nat) : State :=
  match getQueue s part q with
  | none => s
  | some x => if x.cfg.host then poisonWord s (farAddr addr true / 8) else poisonFar s part x.cfg.pid addr

/-- An error that cannot be corrected met by a context (R432): in a memory core's own storage it contains that core, else the task
that consumes the word. -/
def consumeError (s : State) (c kind addr : Nat) : State :=
  if isMem c then
    if kind = 0 || kind = 1 || kind = 4 then containMem s c kind addr
    else
      match ownerOf s c with
      | some o => containCtx s o kind addr (kind == 5) false
      | none => s
  else if (getCtx s c).mode == .free then s
  else containCtx s c kind addr (kind == 5) (kind == 0 || kind == 4 || (storeKind c addr).2)

/-- A single-bit error corrected in place (R425, R436): it is counted, and in a word of the device's memory logged with its bit;
nothing else is to be seen of it. Log 85 (DESIGN CHOICE). -/
def correctedBit (s : State) (die kind addr bit : Nat) : State :=
  let s1 := modDie s die (fun d => { d with corrected := d.corrected + 1 })
  if kind = 5 then logArray s1 addr 1 (bit % 64) else s1

/-- A parity error in a clean copy (R425): the entry for an address is discarded, in a core's instruction cache (0), its cluster's (1)
or the translation cache of its die (2). Log 85 (DESIGN CHOICE). -/
def discardCopy (s : State) (core which addr : Nat) : State :=
  if which = 0 then modCore s core (fun k => { k with icache := k.icache.filter (fun e => e.2.2.1 != addr) })
  else if which = 1 then modCluster s (clusterOfCore core) (fun k => { k with icache := k.icache.filter (fun e => e.2.2.1 != addr) })
  else modDie s (dieOfCore core) (fun d => { d with tlb := d.tlb.filter (fun e => e.va != addr) })

/-- R425, R426, R432, R433, R435, R436: a word is met that a check finds in error. Fourth stands what it is: 0 an error that cannot be
corrected, of the consuming context, the kind of storage as SPEC0 numbers it and the address, fifth 1 where that address is the device
address of a far word (of a page table or a PID table, of a save, of a Transit region); 1 a single bit corrected, of the die, the kind of
storage, the address and fifth the bit; 2 a parity error in a cache, of the core, the cache and the entry's address; 3 a far word of a
launch queue, of partition × 64 + number, its address third, and fifth 1 for its completion ring; 4 a word of the device's memory that
a line shows to be uncorrectable, its device address third, before anything consumes it. Log 85 (DESIGN CHOICE). -/
def uncorrectableEv (s : State) : State :=
  let c := argN s 0
  let kind := argN s 1
  let addr := argN s 2
  if argN s 3 = 1 then correctedBit s c kind addr (argN s 4)
  else if argN s 3 = 2 then discardCopy s c kind addr
  else if argN s 3 = 3 then tearDown (poisonQueue s (c / 64) (c % 64) addr) (c / 64) (c % 64) addr (argN s 4 != 0)
  else if argN s 3 = 4 then poisonDev s addr false
  else
    let far := argN s 4 == 1
    let s1 := if far then poisonDev s addr false else poisonAt s c kind addr
    if kind = 6 then partError s1 ((partOf s c).getD 0) (dieOf c) addr far else consumeError s1 c kind addr

def execUncorrectable (s : State) : Host.Outcome State Fault Refusal := happens uncorrectableEv s

/- ---------------------------------------------------------------- vertical buses -/

/-- A word of the bus log (R439). -/
def busWord (kind att group lane spares line : Nat) : Nat :=
  kind * 2 ^ 62 + att * 2 ^ 59 + group * 2 ^ 56 + lane * 2 ^ 49 + spares * 2 ^ 47 + line

/-- An entry of a channel's bus log, the oldest of 64 overwritten. -/
def logBus (s : State) (ch w : Nat) : State :=
  modChan s ch (fun k => { k with busLog := ((w, (getDie s (ch / 32)).counter) :: k.busLog).take 64 })

/-- R438 steps 1 and 2: a transfer with a parity error is sent again, up to 3 times. Names the channel, the line, the parity group and,
fourth, 1 for an attempt that fails too; after the fourth attempt the transfer waits for the lane test. Log 85 (DESIGN CHOICE). -/
def parityResendEv (s : State) : State :=
  let ch := argN s 0
  let line := argN s 1
  let group := argN s 2 % 8
  let k := getChan s ch
  let made := match k.resend with
    | some (l, g, n) => if l = line && g = group then some n else none
    | none => some 1
  match made with
  | none => s
  | some n =>
    if 4 ≤ n then s
    else if argN s 3 = 0 then
      logBus (modChan s ch (fun k => { k with resend := none })) ch (busWord 1 (n + 1) group 127 k.spares.length line)
    else modChan s ch (fun k => { k with resend := some (line, group, n + 1) })

def execParityResend (s : State) : Host.Outcome State Fault Refusal := happens parityResendEv s

/-- R438 step 3: a line delivered poisoned: its eight words, and what the orders of the line that have passed the head of the queue carry;
a write puts nothing in the array (R437). -/
def poisonLine (s : State) (ch line : Nat) : State :=
  let s1 := (List.range 8).foldl (fun s i => poisonWord s (line * 8 + i)) s
  modChan s1 ch (fun k => { k with orders := k.orders.map (fun o =>
    if !o.host && o.pa / 64 == line && 1 ≤ o.stage then { o with data := [] } else o) })

/-- R438 steps 2 and 3: the lane test of a transfer whose fourth attempt has failed: a free spare takes the lane's place and the fifth
attempt passes; else the line is delivered poisoned and the channel is retired. Names the channel, the line, the group and the lane
found, 64 or above for none. Log 85 (DESIGN CHOICE). -/
def laneTestEv (s : State) : State :=
  let ch := argN s 0
  let lane := argN s 3
  let k := getChan s ch
  match k.resend with
  | none => s
  | some (line, group, n) =>
    if n < 4 || line ≠ argN s 1 || group ≠ argN s 2 % 8 then s
    else
      let found := lane / 8 == group
      if found && k.spares.length < 2 then
        logBus (modChan s ch (fun k => { k with resend := none, spares := k.spares ++ [lane] })) ch
          (busWord 2 5 group lane (k.spares.length + 1) line)
      else
        let s1 := modChan s ch (fun k => { k with resend := none })
        let s2 := logBus s1 ch (busWord 3 4 group (if found then lane else 127) k.spares.length line)
        retireChan (poisonLine s2 ch line) ch

def execLaneTest (s : State) : Host.Outcome State Fault Refusal := happens laneTestEv s

end Sys2Proof.Machine
end

