-- ==== Sys2Proof/Machine/Parts.lean ====
section
/-! DEFINITION. Partitions (R441 to R443, R446, R447): their creation with their permission tables, the start of a supervisor,
their release, and the paging in of cold contexts. -/

namespace Sys2Proof.Machine

/-- One number inserted in ascending order. -/
def insNat (n : Nat) : List Nat → List Nat
  | [] => [n]
  | m :: t => if n < m then n :: m :: t else m :: insNat n t

/-- Numbers in ascending order. -/
def sortNat (l : List Nat) : List Nat := l.foldl (fun a n => insNat n a) []

/-- Maximal runs of consecutive clusters on one die, of clusters in ascending order (R442). -/
def clusterRuns : List Nat → List (Nat × Nat × Nat)
  | [] => []
  | c :: t =>
    match clusterRuns t with
    | [] => [(c / 256, c % 256, c % 256)]
    | (d, a, b) :: r => if d = c / 256 && a = c % 256 + 1 then (d, c % 256, b) :: r else (c / 256, c % 256, c % 256) :: (d, a, b) :: r

/-- The permission table of a partition's clusters (R442): the first 8 runs. -/
def permTable (clusters : List Nat) : List (Nat × Nat × Nat) := (clusterRuns (sortNat clusters)).take 8

/-- Whether the contexts given to partitions on each memory core still add up to at most 16 with another partition (R306). -/
def sharesFit (s : State) (c : PartCfg) : Bool :=
  (List.range 256).all (fun ch => s.parts.foldl (fun n p => n + p.2.cfg.shareOn ch) (c.shareOn ch) ≤ 16)

/-- Whether a partition can be created (R306, R441): an id of 0 to 63 not in use, clusters of the package that belong to none, each
named once, a class of 0 to 7, a quota of 1 to 4,096 on each die and shares that fit. Log 90 (DESIGN CHOICE). -/
def canCreate (s : State) (part : Nat) (c : PartCfg) : Bool :=
  part < 64 && (getPart? s part).isNone && !c.clusters.isEmpty && decide c.clusters.Nodup &&
    c.clusters.all (fun k => k < 2048 && (getCluster s k).part.isNone) && c.cls < 8 &&
    (List.range 8).all (fun d => 1 ≤ (c.onDie d).entq && (c.onDie d).entq ≤ 4096) && sharesFit s c

/-- A partition as the hypervisor records it at creation (R239, R399, R441), with the key of its namespace (R446). -/
def newPart (c : PartCfg) (key : Nat) : PartSt :=
  { cfg := c, minG := [], loaders := [], svec := 0, dbgctl := 0, faultQ := [], lost := [], dir := [], thresh := 0, conf := false
    frac := 0, unverified := 0, mismatch := 0, confirmed := 0, whistled := false, spared := none, settled := false, landed := []
    expired := [], supImage := [], supPid := 0, migRound := 0, migDirty := [], stopClk := [], migImage := [], xtsKey := key, pages := []
    posted := [] }

/-- Bytes of near storage zeroed, with their coherence lists, releases and poison. Log 91 (DEDUCED). -/
def zeroRange (s : State) (a n : Nat) : State :=
  { s with
    mem := memZero s.mem a n
    poison := s.poison.filter (fun w => !(a ≤ w * 8 && w * 8 < a + n))
    past := s.past.filter (fun p => !(a ≤ p.addr && p.addr < a + n))
    released := overReleased s.released s.stamp a n }

/-- A cluster assigned to a partition (R305, R442): its permission table is written and the slices of its cores are zeroed.
Log 91 (DEDUCED). -/
def assignCluster (part : Nat) (perm : List (Nat × Nat × Nat)) (s : State) (c : Nat) : State :=
  (coresOf c).foldl (fun s core => zeroRange s (wstackBase core) 0x30000)
    (modCluster s c (fun k => { k with part := some part, perm := perm }))

/-- The clusters of a partition assigned to it (R442). -/
def assignClusters (s : State) (part : Nat) (cs : List Nat) : State := cs.foldl (assignCluster part (permTable cs)) s

/-- R441, R442: the hypervisor creates a partition, assigns its clusters and lays down its translation tables; the key of its namespace
is made (R446). Names the partition and the device address of the tables, whose bytes and the partition's record the event carries.
Log 7 (DESIGN CHOICE), 90 (DESIGN CHOICE). -/
def partitionCreateEv (s : State) : State :=
  let part := argN s 0
  match s.arg.part with
  | none => s
  | some c =>
    if s.power == .running && canCreate s part c then
      let s1 := putPart { s with freeCtr := s.freeCtr + 1 } part (newPart c (Config.freeValue s.freeCtr).toNat)
      rawWrite (assignClusters s1 part c.clusters) (argN s 1) s.arg.bytes
    else s

def execPartitionCreate (s : State) : Host.Outcome State Fault Refusal := happens partitionCreateEv s

/- ---------------------------------------------------------------- supervisors -/

/-- R443: whether an image of a MAGIC is in order and its signature verifies against a key. Log 8 (DESIGN CHOICE). -/
def imageOk (magic : Nat) (key img : List Byte) : Bool :=
  let len := fieldOf img 4 4
  let sig := (img.drop (0x20 + len)).take 148
  fieldOf img 0 4 == magic && 4 ≤ len && len ≤ 2 ^ 26 && len % 4 == 0 && fieldOf img 8 4 < len && fieldOf img 8 4 % 4 == 0 &&
    fieldOf img 12 4 == 0 && (img.drop 16).take 16 == sig.take 16 && img.length == 0x20 + len + 148 &&
    ecdsaVerify key (img.take (0x20 + len)) sig

/-- Bytes written from a far address, cut into the lines they touch: address and bytes of each. -/
def hostLines : Nat → Nat → List Byte → List (Nat × List Byte)
  | 0, _, _ => []
  | n + 1, va, bs =>
    if bs.isEmpty then []
    else
      let m := 64 - va % 64
      (va, bs.take m) :: hostLines n (va + m) (bs.drop m)

/-- Bytes placed by the hypervisor at far addresses of a PID, wherever its tables map them; in device memory the pages are dirty
(R448). Log 90 (DESIGN CHOICE). -/
def placeCode (s : State) (part pid va : Nat) (bs : List Byte) : State :=
  (hostLines (bs.length + 1) va bs).foldl (fun s p => match walkVa s part pid p.1 with
    | .ok x => if x.host then clearWords (rawWrite s (farAddr x.pa true) p.2) (farAddr x.pa true) p.2.length else partWrite s part x.pa p.2
    | .error _ => s) s

/-- The entries that the hypervisor writes into a partition's tables, as pairs of a device address and an entry (R443).
Log 90 (DESIGN CHOICE). -/
def writeEntries (s : State) (part : Nat) : List Nat → State
  | a :: e :: t => writeEntries (partWrite s part a (leBytes 8 e)) part t
  | _ => s

/-- Whether every page of a range is mapped read-only and executable for a PID (R443). -/
def mappedCode (s : State) (part pid va len : Nat) : Bool :=
  (List.range ((va + len - 1) / 4096 - va / 4096 + 1)).all (fun i => match walkVa s part pid ((va / 4096 + i) * 4096) with
    | .ok x => x.ent.r && x.ent.x && !x.ent.w
    | .error _ => false)

/-- The home context of a supervisor as it starts (R13, R36, R443): supervisor mode, its PID, its pc at ENTRY; its TAG, DEADLINE and
FLOCK, for which the spec gives no value, are zero. Log 90 (DESIGN CHOICE). -/
def homeCtx (c pid pc lwin budget : Nat) (old : Ctx) : Ctx :=
  { Ctx.reset with
    st := 1, pid := BitVec.ofNat 16 pid, pc := pc48 pc, lwin := w64 lwin, budget := w64 budget, barIdx := c % 32
    view := old.view, region := old.region + 1, mode := .running }

/-- A verified image mapped and started (R443): the table entries are written, and where they map the code read-only and executable it
is placed and the home context begins. Log 90 (DESIGN CHOICE). -/
def startSupervisor (s : State) (part core pid va : Nat) (img : List Byte) : State :=
  let len := fieldOf img 4 4
  let s1 := writeEntries s part (s.arg.ns.drop 6)
  if mappedCode s1 part pid va len then
    let s2 := placeCode s1 part pid va ((img.drop 0x20).take len)
    let s3 := modPart s2 part (fun p => { p with supImage := img, supPid := pid })
    let s4 := ungate s3 (clusterOfCore core)
    modCtx s4 (core * 4) (homeCtx (core * 4) pid (va + fieldOf img 8 4) (argN s 4) (argN s 5))
  else s

/-- R443: a supervisor image is verified against OWNERKEY, mapped, and started on a home core; one that fails the check is not started,
and that is reported. Names the partition, the core, the PID, the far address of the code, what the hypervisor gives the home context as
LWIN and BUDGET, and the table entries it writes, each after its device address; the event carries the image. Log 90 (DESIGN CHOICE). -/
def supervisorStartEv (s : State) : State :=
  let part := argN s 0
  let core := argN s 1
  let pid := argN s 2
  let va := argN s 3
  let img := s.arg.bytes
  match getPart? s part with
  | none => s
  | some p =>
    if p.cfg.clusters.contains (clusterOfCore core) && p.cfg.pids.any (fun q => q.1 == pid) && (getCtx s (core * 4)).mode == .free then
      if imageOk 0x4B535652 p.cfg.ownerKey img then startSupervisor s part core pid va img
      else { s with reports := s.reports ++ [.imageFailed part] }
    else s

def execSupervisorStart (s : State) : Host.Outcome State Fault Refusal := happens supervisorStartEv s

/- ---------------------------------------------------------------- release -/

/-- What a die keeps for a partition taken away: entries and what removed ones leave to end, requests, windows kept on its cores,
observations with resets and weights under way, the misses, and the counters of its range with their signals. Log 91 (DEDUCED). -/
def clearDie (part : Nat) (c : PartCfg) (die : Nat) (d : DieSt) : DieSt :=
  { d with
    entries := d.entries.filter (fun e => e.part != part), ending := d.ending.filter (fun g => g.ent.part != part)
    reqs := d.reqs.filter (fun r => r.part != part)
    retained := d.retained.filter (fun r => !c.clusters.contains (clusterOfCore r.core))
    ctrs := d.ctrs.filter (fun k => !c.ownsCtr die k.1), signals := d.signals.filter (fun g => !c.ownsCtr die g.ctr)
    misses := d.misses.filter (fun m => m.1 != part), tlb := d.tlb.filter (fun t => t.part != part)
    obsWire := d.obsWire.filter (fun o => o.part != part), obsBuf := d.obsBuf.filter (fun o => o.part != part)
    resets := d.resets.filter (fun o => o.part != part), weights := d.weights.filter (fun w => w.2.part != part)
    regions := d.regions.filter (fun r => r.part != part) }

/-- A cluster given back: it belongs to no partition, its objects and permissions are gone. Log 91 (DEDUCED). -/
def clearCluster (k : ClusterSt) : ClusterSt := { k with part := none, objs := [], perm := [], icache := [], saver := none, homes := [] }

/-- A core of a released cluster holds no word, command or chain. Log 91 (DEDUCED). -/
def clearCoreSt (k : CoreSt) : CoreSt :=
  { k with rq := Vector.replicate 4 [], freeRep := [], mat := [], vec := [], copyQ := [], chans := Vector.replicate 4 none, held := [], icache := [] }

/-- The windows kept for successors on the cores of a partition, zeroed (R297). Log 91 (DEDUCED). -/
def zeroKept (s : State) (c : PartCfg) : State :=
  ((s.dies.flatMap (fun d => d.2.retained)).filter (fun r => c.clusters.contains (clusterOfCore r.core))).foldl
    (fun s r => zeroWindow s r.core r.base r.len) s

/-- R416, R441, R446: a partition is released: its tasks and queues end, its Orrery entries are invalidated, its clusters and windows
are given back, those kept for successors too (R297), and what was paged out under its key is lost. Log 91 (DEDUCED). -/
def releasePart (s : State) (part : Nat) : State :=
  match getPart? s part with
  | none => s
  | some p =>
    let cores := p.cfg.clusters.flatMap coresOf
    let s1 := invalidateAll s (fun r => r.part == part)
    let s2 := (cores.flatMap ctxsOf).foldl (fun s c => if (getCtx s c).mode == .free then s else freeCtx s c false)
      (zeroKept s1 p.cfg)
    let s3 := cores.foldl (fun s c => modCore s c clearCoreSt) s2
    let s4 := p.cfg.clusters.foldl (fun s c => modCluster s c clearCluster) s3
    { s4 with
      dies := s4.dies.map (fun d => (d.1, clearDie part p.cfg d.1 d.2))
      parts := s4.parts.filter (fun q => q.1 != part)
      queues := s4.queues.filter (fun q => q.1 / 64 != part)
      hreqs := s4.hreqs.filter (fun r => r.part != part)
      sends := s4.sends.filter (fun x => x.part != part)
      wires := s4.wires.filter (fun w => !cores.contains w.2.1), freeWires := s4.freeWires.filter (fun w => !cores.contains w.1)
      chans := s4.chans.map (fun c => (c.1, { c.2 with
        orders := c.2.orders.filter (fun o => o.part != part), dirty := c.2.dirty.filter (fun u => u.1 != part) })) }

/-- R416, R446: names the partition. -/
def partitionReleaseEv (s : State) : State := releasePart s (argN s 0)

def execPartitionRelease (s : State) : Host.Outcome State Fault Refusal := happens partitionReleaseEv s

/- ---------------------------------------------------------------- cold contexts -/

/-- What the entry of a paged task keeps of a member's save (R446): what its demand and its placement rest on. -/
def pageStub (v : SavedCtx) : SavedCtx :=
  { v with
    ctx := { Ctx.reset with
      pid := v.ctx.pid, tag := v.ctx.tag, budget := v.ctx.budget, charge := v.ctx.charge, deadline := v.ctx.deadline, lwin := v.ctx.lwin
      ecnt := v.ctx.ecnt, run := v.ctx.run, barIdx := v.ctx.barIdx, hcallOut := v.ctx.hcallOut
      bound := v.ctx.bound || v.words.any (fun q => !q.2.isEmpty) }
    bytes := [], words := [], chains := [] }

/-- The window bytes of a save as its 48 units of 4 KiB are encrypted in a namespace from a block on, and what the units decrypt to
(R446). Log 65 (DESIGN CHOICE). -/
def sealUnits (key block : Nat) (bs : Memory) : List (List Byte) :=
  (List.range 48).map (fun i => xtsEncrypt (namespaceKey key) (block + i) (memRead bs (4096 * i) 4096))
def openUnits (key block : Nat) (us : List (List Byte)) : Memory :=
  us.zipIdx.foldl (fun m u => memWrite m (4096 * u.2) (xtsDecrypt (namespaceKey key) (block + u.2) u.1)) []

/-- A save as it is written to a slot, and as a slot is read back (R446, R447). Log 65 (DESIGN CHOICE). -/
def slotFrom (die tag key block : Nat) (v : SavedCtx) : PagedSlot :=
  ⟨die, tag, block, key, { v with bytes := [] }, sealUnits key block v.bytes⟩
def slotSave (g : PagedSlot) : SavedCtx := { g.slot with bytes := openUnits g.key g.block g.units }

/-- A slot read back beside what the entry kept of it: an hcall may have been answered meanwhile. -/
def pageBack (stub v : SavedCtx) : SavedCtx :=
  { v with ctx := { v.ctx with hcallOut := stub.ctx.hcallOut, deadline := stub.ctx.deadline, budget := stub.ctx.budget } }

/-- The slots of a paged task in its partition's namespace, in the order of its members (R446). -/
def slotsOf (s : State) (part die tag : Nat) : List PagedSlot :=
  match getPart? s part with
  | some p => p.pages.filter (fun g => g.die == die && g.tag == tag)
  | none => []

/-- Whether the slots of a paged task are whole and were written under the namespace's key (R446, R447). -/
def slotsOk (s : State) (e : Entry) (die : Nat) : Bool :=
  let gs := slotsOf s e.part die e.tag
  gs.length == e.saved.length && (match getPart? s e.part with | some p => gs.all (fun g => g.key == p.xtsKey) | none => false)

/-- A paged task's save slots read back, and their units in the namespace given up (R447). -/
def readSlots (s : State) (e : Entry) (die : Nat) : State :=
  let vs := (e.saved.zip (slotsOf s e.part die e.tag)).map (fun q => pageBack q.1 (slotSave q.2))
  modPart (modEnt s die e.order (fun f => { f with saved := vs, paged := false, pageAsked := false })) e.part
    (fun p => { p with pages := p.pages.filter (fun g => !(g.die == die && g.tag == e.tag)) })

/-- R447: the slot of a paged task, which one of the three events has asked for, is decrypted and checked; a unit that fails is an error
of partition state (R432). Names the die, the tag and 1 where every unit passes. Log 96 (DEDUCED). -/
def pageInEv (s : State) : State :=
  let die := argN s 0
  match entByTag s die (argN s 1) with
  | none => s
  | some e =>
    if !(e.paged && e.pageAsked) then s
    else if argN s 2 = 0 || !slotsOk s e die then partError s e.part die 0 false
    else wakeReady (readSlots s e die) die

def execPageIn (s : State) : Host.Outcome State Fault Refusal := happens pageInEv s

end Sys2Proof.Machine
end

