-- ==== Sys2Proof/Machine/Move.lean ====
section
/-! DEFINITION. Live migration (R448 to R450): the pre-copy rounds, the departure of a stopped partition from its clusters and its
arrival at others, in this package or in another. -/

namespace Sys2Proof.Machine

/- ---------------------------------------------------------------- pre-copy -/

/-- The dirty units of a partition that one read of the bitmaps finds set. -/
def dirtyUnits (s : State) (part : Nat) : List Nat :=
  s.chans.flatMap (fun c => (c.2.dirty.filter (fun u => u.1 == part)).map Prod.snd)

/-- The dirty bits of a partition cleared. Log 93 (DESIGN CHOICE). -/
def clearDirty (s : State) (part : Nat) : State :=
  { s with chans := s.chans.map (fun c => (c.1, { c.2 with dirty := c.2.dirty.filter (fun u => u.1 != part) })) }

/-- A stretch of storage: its first address and its length. -/
abbrev Stretch := Nat × Nat

/-- Whether an address lies in one of some stretches. -/
def inStretch (rs : List Stretch) (a : Nat) : Bool := rs.any (fun r => r.1 ≤ a && a < r.1 + r.2)

/-- The device memory that a table of a level and the tables below it map, the tables themselves among it (R312, R313). -/
def tableRanges (m : Memory) : Nat → Nat → List Stretch
  | 0, t => (t, 4096) :: (List.range 512).filterMap (fun i =>
    let e := memNat m (t + 8 * i) 8
    if pteOk e 0 && !pteHost e then some (pteAddr e / pageSize 0 e * pageSize 0 e, pageSize 0 e) else none)
  | l + 1, t => (t, 4096) :: (List.range 512).flatMap (fun i =>
    let e := memNat m (t + 8 * i) 8
    if !pteOk e (l + 1) || pteHost e then []
    else if pteLeaf e then [(pteAddr e, pageSize (l + 1) e)]
    else tableRanges m l (pteAddr e))

/-- Every far page that a partition maps in device memory. -/
def mappedRanges (m : Memory) (c : PartCfg) : List Stretch := c.pids.flatMap (fun q => tableRanges m 3 q.2)

/-- The stretch of a dirty unit. -/
def unitRange (u : Nat) : Stretch := (u * 4096, 4096)

/-- The copy that a migration's destination has of far memory, with some stretches copied anew. Log 93 (DESIGN CHOICE). -/
def copyPages (m image : Memory) (rs : List Stretch) : Memory :=
  (m.filter (fun p => inStretch rs p.1)).foldl (fun i p => memSet i p.1 p.2) (image.filter (fun p => !inStretch rs p.1))

/-- R449 steps 1 and 2: a round of a migration: the first clears the bitmaps and copies every mapped page; each later one reads and
clears them and copies what it found; with at most 4 units found, or after round 8, the Whistle stops the partition and those units wait
for the final copy. Names the partition. Log 93 (DESIGN CHOICE). -/
def precopyRoundEv (s : State) : State :=
  let part := argN s 0
  match getPart? s part with
  | none => s
  | some p =>
    if p.whistled then s
    else if p.migRound = 0 then
      modPart (clearDirty s part) part (fun p => { p with
        migRound := 1, migDirty := [], migImage := copyPages s.mem [] (mappedRanges s.mem p.cfg) })
    else
      let us := dirtyUnits s part
      let s1 := modPart (clearDirty s part) part (fun p => { p with migDirty := us })
      if us.length ≤ 4 || 8 ≤ p.migRound then whistleStop s1 part none
      else modPart s1 part (fun p => { p with
        migRound := p.migRound + 1, migImage := copyPages s.mem p.migImage (us.map unitRange) })

def execMigrationPrecopyRound (s : State) : Host.Outcome State Fault Refusal := happens precopyRoundEv s

/- ---------------------------------------------------------------- departure -/

/-- The contexts of a partition that hold a task. -/
def liveCtxs (s : State) (part : Nat) : List Nat := (partCtxs s part).filter (fun c => (getCtx s c).mode != .free)

/-- A save without positions of coherence lists: what was stored before the stop has performed, and every reader of the destination's
storage starts from it. Log 92 (DEDUCED). -/
def settledSave (v : SavedCtx) : SavedCtx :=
  { v with
    ctx := { v.ctx with view := [], acqPend := [], fence := v.ctx.fence.map (fun k => { k with view := [] }) }
    words := v.words.map (fun w => (w.1, w.2.map (fun p => { p with view := [] })))
    chains := v.chains.map (fun h => (h.1, { h.2 with chain := { h.2.chain with view := [] } })) }

/-- One context saved in full with its mode and an open hint window, and its queue words taken (R449 step 4). -/
def takeCtx (a : State × List (Nat × RunMode × SavedCtx)) (c : Nat) : State × List (Nat × RunMode × SavedCtx) :=
  let x := getCtx a.1 c
  let v := settledSave (saveOf a.1 c)
  (takeQueues a.1 c, a.2 ++ [(c, x.mode, { v with ctx := { v.ctx with window := x.window } })])

/-- A stretch of storage as it leaves. -/
def takeRange (m : Memory) (poison : List Nat) (r : Stretch) : RangeMove :=
  ⟨r.1, r.2, (m.filter (fun p => inStretch [r] p.1)).map (fun p => (p.1 - r.1, p.2)),
    (poison.filter (fun w => inStretch [r] (w * 8))).map (fun w => w - r.1 / 8)⟩

/-- The near storage of a cluster, and of the windows kept for successors on its cores (R297). -/
def clusterStore (s : State) (cl : Nat) : List Stretch :=
  (clusterBase cl, 2 ^ 20) :: (coresOf cl).map (fun k => (wstackBase k, 0x30000)) ++
    ((getDie s (cl / 256)).retained.filter (fun r => clusterOfCore r.core == cl)).map (fun r => (localBase r.core + r.base, r.len))

/-- What a die keeps for a partition. -/
def dieShare (s : State) (part : Nat) (c : PartCfg) (die : Nat) : DieSt :=
  let a := getDie s die
  { DieSt.reset with
    counter := a.counter, tagParts := a.tagParts.filter (fun t => t.2 == part), nextOrder := a.nextOrder
    entries := (a.entries.filter (fun e => e.part == part)).map (fun e =>
      { e with saved := e.saved.map settledSave, startView := [], card := e.card.map (fun k => { k with endView := [] }) })
    ctrs := (a.ctrs.filter (fun k => c.ownsCtr die k.1)).map (fun k => (k.1, { k.2 with view := [] }))
    signals := (a.signals.filter (fun g => c.ownsCtr die g.ctr)).map (fun g => { g with view := [] })
    reqs := (a.reqs.filter (fun r => r.part == part)).map (fun r => { r with view := [] })
    misses := a.misses.filter (fun m => m.1 == part)
    retained := a.retained.filter (fun r => (getCluster s (clusterOfCore r.core)).part == some part)
    regions := a.regions.filter (fun r => r.part == part), obsWire := a.obsWire.filter (fun o => o.part == part)
    obsBuf := a.obsBuf.filter (fun o => o.part == part), resets := a.resets.filter (fun o => o.part == part) }

/-- A stopped partition leaves its clusters (R449 steps 3 to 5): what moves, with its far pages and its Whistle records where `far` says
so, and the state without it. A contribution whose flits are not all acknowledged is sent again from the destination.
Log 92 (DEDUCED), 93 (DESIGN CHOICE). -/
def depart (s : State) (part : Nat) (p : PartSt) (far : Bool) : Leaving × State :=
  let cls := sortNat p.cfg.clusters
  let cores := cls.flatMap coresOf
  let (s1, cs) := (liveCtxs s part).foldl takeCtx (s, [])
  let homes := cls.flatMap (fun k => (getCluster s k).homes.map (fun h => (h.1, RunMode.whistled, settledSave h.2)))
  let records : Stretch := (p.cfg.whistle, 64 * 65536)
  let image := copyPages s.mem p.migImage (records :: (p.migDirty ++ dirtyUnits s part).map unitRange)
  let l : Leaving := {
    part := part, st := { p with migRound := 0, migDirty := [], stopClk := [], migImage := [] }
    clusters := cls.map (fun k => (k, (getCluster s k).objs.map (fun o => (o.1, { o.2 with view := [], waiters := [] }))))
    ctxs := cs ++ homes
    dies := s.dies.map (fun d => ⟨d.1, (p.stopClk.get? d.1).getD d.2.counter, dieShare s part p.cfg d.1⟩)
    ranges := (cls.flatMap (clusterStore s)).map (takeRange s.mem s.poison) ++
      (if far then (records :: mappedRanges image p.cfg).map (takeRange image s.poison) else [])
    queues := s.queues.filter (fun q => q.1 / 64 == part)
    hreqs := (s.hreqs.filter (fun r => r.part == part)).map (fun r => { r with view := [] })
    wires := (s.wires.filter (fun w => cores.contains w.2.1)).map (fun w => (w.1, w.2.1, w.2.2.1, { w.2.2.2 with view := [] }))
    freeWires := s.freeWires.filter (fun w => cores.contains w.1)
    free := (cores.map (fun k => (k, (getCore s k).freeRep))).filter (fun k => !k.2.isEmpty)
    sends := (s.sends.filter (fun x => x.part == part)).map (fun x => { x with unacked := if far then ceilDiv x.data.length 252 else x.unacked })
    next := s.nextId }
  (l, releasePart s1 part)

/- ---------------------------------------------------------------- where things go -/

/-- A move: pairs of a source cluster and its destination, by how much the numbers of what moves grow, and the counters of the source
dies at the stop. -/
structure Trip where
  pairs : List (Nat × Nat)
  shift : Nat
  clk : Tab Nat
  deriving DecidableEq, Repr

/-- Where a cluster, a core, a context and a die go. -/
def toCluster (m : Trip) (c : Nat) : Nat := ((m.pairs.find? (fun p => p.1 == c)).map Prod.snd).getD c
def toCore (m : Trip) (core : Nat) : Nat := toCluster m (core / 8) * 8 + core % 8
def toCtx (m : Trip) (c : Nat) : Nat := if isMem c then c else toCore m (c / 4) * 4 + c % 4
def toDie (m : Trip) (d : Nat) : Nat := ((m.pairs.find? (fun p => p.1 / 256 == d)).map (fun p => p.2 / 256)).getD d

/-- Where a stretch of storage goes: near storage with its core or cluster, far pages to the same device addresses.
Log 93 (DESIGN CHOICE). -/
def toBase (m : Trip) (a : Nat) : Nat :=
  if 2 ^ 42 ≤ a then wstackBase (toCore m ((a - 2 ^ 42) / 2 ^ 18)) + a % 2 ^ 18
  else if 2 ^ 41 ≤ a then clusterBase (toCluster m ((a - 2 ^ 41) / 2 ^ 20)) + a % 2 ^ 20
  else if 2 ^ 40 ≤ a then localBase (toCore m ((a - 2 ^ 40) / 2 ^ 18)) + a % 2 ^ 18
  else a

/-- A table kept by die, by the dies its partition comes to. -/
def toDies {α : Type} (m : Trip) (t : Tab α) : Tab α := t.foldl (fun l p => l.put (toDie m p.1) p.2) []

/-- A die-counter value of a source die as slack from the stop on, bound to the counter of the die it comes to (R449). Log 92 (DEDUCED). -/
def rebind (m : Trip) (s : State) (die d : Nat) : Nat :=
  (getDie s (toDie m die)).counter + d - (m.clk.get? die).getD 0

/-- Whether the Orrery of each die has room for what a partition brings (R408, R409). Log 92 (DEDUCED). -/
def orreryRoom (s : State) (l : Leaving) (m : Trip) : Bool :=
  l.dies.all (fun x =>
    let t := getDie s (toDie m x.die)
    t.regions.length + x.st.regions.length ≤ 64 && t.obsBuf.length + x.st.obsBuf.length ≤ 256)

/-- Whether a partition can come to some clusters: as many free ones as it had, those of one die together and alone, with room on the
memory cores and in the Orreries. Log 92 (DEDUCED). -/
def movesOk (s : State) (l : Leaving) (dst : List Nat) : Bool :=
  let m := (l.clusters.map Prod.fst).zip dst
  l.clusters.length ≤ dst.length && decide dst.Nodup && dst.all (fun k => k < 2048 && (getCluster s k).part.isNone) &&
    m.all (fun p => m.all (fun q => (p.1 / 256 == q.1 / 256) == (p.2 / 256 == q.2 / 256))) && sharesFit s l.st.cfg &&
    orreryRoom s l ⟨m, 0, []⟩

/- ---------------------------------------------------------------- arrival -/

/-- A port binding whose destination moves. Log 92 (DEDUCED). -/
def moveBind (m : Trip) (b : Word) : Word := if wBits b 63 1 = 1 then w64 (putBits b.toNat 0 14 (toCore m (bindCore b))) else b

/-- A chain of a save with the numbers its record has at the destination. -/
def moveChain (m : Trip) (h : Nat × ChainRun) : Nat × ChainRun :=
  (h.1, { h.2 with running := h.2.running.map (fun q => { q with id := q.id + m.shift }) })

/-- A saved context with what names a place, a number or a time carried over. Log 92 (DEDUCED). -/
def moveSave (m : Trip) (s : State) (v : SavedCtx) : SavedCtx :=
  { v with
    ctx := { v.ctx with
      deadline := w64 (rebind m s (dieOfCore v.core) v.ctx.deadline.toNat), window := v.ctx.window.map (rebind m s (dieOfCore v.core))
      pbind := v.ctx.pbind.map (moveBind m)
      root := v.ctx.root.map (fun r => { r with req := r.req + m.shift })
      fence := v.ctx.fence.map (fun k => { k with core := toCore m k.core }) }
    words := v.words.map (fun w => (w.1, w.2.map (fun p => { p with src := toCtx m p.src })))
    chains := v.chains.map (moveChain m)
    core := toCore m v.core }

/-- A stretch of storage put where it goes, with its poison (R426). -/
def putRange (m : Trip) (s : State) (r : RangeMove) : State :=
  let b := toBase m r.base
  let s1 := zeroRange s b r.len
  { s1 with mem := r.bytes.foldl (fun a p => memSet a (b + p.1) p.2) s1.mem, poison := s1.poison ++ r.poison.map (· + b / 8) }

/-- The objects of a cluster put where it goes, its island on. -/
def putObjs (m : Trip) (s : State) (k : Nat × Tab Obj) : State :=
  ungate (modCluster s (toCluster m k.1) (fun q => { q with objs := k.2 })) (toCluster m k.1)

/-- An entry as it stands on its new die: `base` is added to its place in the order of admission. Log 92 (DEDUCED). -/
def moveEnt (m : Trip) (s : State) (die base : Nat) (e : Entry) : Entry :=
  { e with
    order := e.order + base, parent := e.parent.map (· + base), graph := e.graph + m.shift, members := e.members.map (toCtx m)
    heldFor := e.heldFor.map (toCtx m), victimFor := e.victimFor.map (· + base), rootReq := e.rootReq.map (· + m.shift)
    card := e.card.map (fun k => { k with id := k.id + m.shift })
    deadline := rebind m s die e.deadline, cluster := e.cluster.map (toCluster m), pcl0 := 0, pcln := 256
    saved := e.saved.map (moveSave m s)
    transit := { e.transit with
      runCtx := e.transit.runCtx.map (toCtx m), cores := e.transit.cores.map (toCore m), admitted := rebind m s die e.transit.admitted } }

/-- An observation, and a region-table entry, with the numbers they have at the destination. -/
def moveObs (m : Trip) (o : Obs) : Obs := { o with id := o.id + m.shift }
def moveRegion (m : Trip) (r : Region) : Region :=
  { r with id := r.id + m.shift, last := r.last + m.shift, late := r.late.map (moveObs m) }

/-- What a partition kept on a die joined to the die it comes to (R449 step 4). Log 92 (DEDUCED). -/
def putDieShare (m : Trip) (s : State) (x : DieMove) : State :=
  let t := toDie m x.die
  let a := x.st
  let s1 := modDie s x.die (fun b => { b with
    tagParts := a.tagParts.foldl (fun l p => if (l.get? p.1).isSome then l else l.put p.1 p.2) b.tagParts })
  modDie s1 t (fun b => { b with
    entries := b.entries ++ a.entries.map (moveEnt m s x.die b.nextOrder), nextOrder := b.nextOrder + a.nextOrder
    ctrs := a.ctrs.foldl (fun l k => l.put k.1 k.2) b.ctrs, signals := b.signals ++ a.signals
    reqs := b.reqs ++ a.reqs.map (fun r =>
      { r with ctx := toCtx m r.ctx, graph := r.graph + m.shift, n := if r.kind = 4 then r.n + m.shift else r.n })
    misses := a.misses.foldl (fun l k => l.put k.1 k.2) b.misses
    retained := b.retained ++ a.retained.map (fun r => { r with core := toCore m r.core })
    regions := b.regions ++ a.regions.map (moveRegion m), obsWire := b.obsWire ++ a.obsWire.map (moveObs m)
    obsBuf := b.obsBuf ++ a.obsBuf.map (moveObs m), resets := b.resets ++ a.resets.map (moveObs m) })

/-- A saved context put where it goes, in the mode it had; its core's taint list takes its tag (R375, R429, R449). -/
def putSaved (m : Trip) (s : State) (x : Nat × RunMode × SavedCtx) : State :=
  let c := toCtx m x.1
  let v := moveSave m s x.2.2
  let s1 := restoreCtx (beginRestore s c v) x.2.1 c v
  if v.ctx.tag = 0 then s1 else taintCore s1 (coreOf c) v.ctx.tag.toNat

/-- A port word, or a free count, on its way between cores that have moved. -/
def putWire (m : Trip) (s : State) (w : Nat × Nat × Nat × PortWord) : State :=
  post { s with wires := s.wires ++ [(toCore m w.1, toCore m w.2.1, w.2.2.1, { w.2.2.2 with src := toCtx m w.2.2.2.src })] }
    .portWordArrival [toCore m w.1, toCore m w.2.1, w.2.2.1]
def putFreeWire (m : Trip) (s : State) (w : Nat × Nat × Nat) : State :=
  post { s with freeWires := s.freeWires ++ [(toCore m w.1, toCore m w.2.1, w.2.2)] } .freeCountReport
    [toCore m w.1, toCore m w.2.1, w.2.2]

/-- The free counts last reported to a core. -/
def putFree (m : Trip) (s : State) (k : Nat × Tab Nat) : State :=
  modCore s (toCore m k.1) (fun x => { x with freeRep := k.2.foldl (fun l p => l.put (toCore m (p.1 / 4) * 4 + p.1 % 4) p.2) [] })

/-- A request goes on at the destination. -/
def putHreq (m : Trip) (s : State) (r : HReq) : State :=
  let q : HReq := { r with
    id := r.id + m.shift, ctx := toCtx m r.ctx, deadline := rebind m s (dieOf r.ctx) r.deadline }
  postOnce { s with hreqs := s.hreqs ++ [q] } (if q.code = 16 && q.stage = 0 then .imagePrepare else .hcallReply) [q.id]

/-- A launch queue goes on at the destination (R449 step 5): its pointers move last. -/
def putQueue (m : Trip) (s : State) (q : Nat × LaunchQ) : State :=
  let a := [q.1 / 64, q.1 % 64]
  postOnce (postOnce { s with queues := s.queues.put q.1 { q.2 with graphs := q.2.graphs.map (· + m.shift) } } .commandTake a)
    .completionWrite a

/-- A contribution that is not yet acknowledged. -/
def moveSend (m : Trip) (x : SpanSend) : SpanSend := { x with id := x.id + m.shift, req := x.req + m.shift }

/-- The partition's record at its destination: what it keeps by die follows, its namespace is encrypted with the key it has there.
Log 92 (DEDUCED). -/
def movePart (m : Trip) (s : State) (p : PartSt) (dst : List Nat) (key : Nat) : PartSt :=
  { p with
    cfg := { p.cfg with clusters := dst, dieCfgs := toDies m p.cfg.dieCfgs }
    minG := toDies m p.minG, faultQ := toDies m p.faultQ, lost := toDies m p.lost, xtsKey := key
    pages := p.pages.map (fun g => { (if key = g.key then g else slotFrom g.die g.tag key g.block (slotSave g)) with
      die := toDie m g.die, slot := moveSave m s g.slot }) }

/-- What is due on a die that a partition has come to. -/
def resumeDie (s : State) (part d : Nat) : State :=
  let a := getDie s d
  let s1 := a.entries.foldl (fun s e =>
    match e.state with
    | .pushing => (match e.rootReq with
      | some id => postOnce s .translatorRunStart [id]
      | none => postOnce s .argumentPushComplete [d, e.tag])
    | .restoring => postOnce s .restoreComplete [e.members.headD 0]
    | .asked => postOnce s .preemptionRequestArrival [e.members.headD 0]
    | _ => s) s
  let s2 := a.signals.foldl (fun s g => post s .counterSignal [d, g.ctr]) s1
  let s3 := a.obsWire.foldl (fun s _ => post s .observationArrival [d]) s2
  let s4 := a.regions.foldl (fun s r =>
    if r.fitting = 1 then postOnce s .closedFormFit [d, r.id] else if r.fitting = 2 then postOnce s .sgdStep [d, r.id] else s) s3
  let s5 := if a.resets.isEmpty then s4 else postOnce s4 .regionReset [d]
  wakeReady (postTake (postDecision (postOnce s5 .revocationTest [d, part]) d) d) d

/-- R449 step 6: a partition arrives at its destination and is released there. `shift` is added to the numbers it brings; its namespace
keeps its key within the package. Log 7 (DESIGN CHOICE), 92 (DEDUCED), 93 (DESIGN CHOICE). -/
def arrive (s : State) (l : Leaving) (dst : List Nat) (shift : Nat) : State :=
  let m : Trip := ⟨(l.clusters.map Prod.fst).zip dst, shift, l.dies.map (fun x => (x.die, x.clk))⟩
  let (key, s0) := if shift = 0 then (l.st.xtsKey, s) else ((Config.freeValue s.freeCtr).toNat, { s with freeCtr := s.freeCtr + 1 })
  let s1 := assignClusters (putPart { s0 with nextId := max s0.nextId (l.next + shift) } l.part (movePart m s0 l.st dst key)) l.part dst
  let s2 := l.clusters.foldl (putObjs m) (l.ranges.foldl (putRange m) s1)
  let s3 := l.ctxs.foldl (putSaved m) (l.dies.foldl (putDieShare m) s2)
  let s4 := l.free.foldl (putFree m) (l.freeWires.foldl (putFreeWire m) (l.wires.foldl (putWire m) s3))
  let s5 := l.hreqs.foldl (putHreq m) { s4 with sends := s4.sends ++ l.sends.map (moveSend m) }
  let s6 := whistleRelease (l.queues.foldl (putQueue m) s5) l.part
  (l.dies.map (fun x => toDie m x.die)).eraseDups.foldl (fun s d => resumeDie s l.part d) s6

/- ---------------------------------------------------------------- the release of a migration -/

/-- Whether a partition has stopped for its migration, and nothing of it is under way (R449 steps 2 and 3). -/
def readyToMove (s : State) (part : Nat) (p : PartSt) : Bool :=
  p.whistled && p.settled && p.spared.isNone && p.migRound != 0 &&
    (liveCtxs s part).all (fun c => 
      let m := (getCtx s c).mode
      m == .whistled || m == .halted || m == .loading) &&
    !(s.chans.any (fun c => c.2.orders.any (fun o => o.part == part))) &&
    !(s.ctxs.any (fun x => match x.2.serving with | some v => v.part == part | none => false))

/-- A stopped partition moves: to clusters of this package, or with none named to another. A poisoned word that a save of it would read
seals that core first (R432, R440). -/
def migrate (s : State) (part : Nat) (p : PartSt) (dst : List Nat) : State :=
  match (liveCtxs s part).findSome? (fun c => (poisonedSave s c).map (fun a => (c, a))) with
  | some (c, a) => containCtx s c 1 a false true
  | none =>
    let r := depart s part p dst.isEmpty
    if dst.isEmpty then { r.2 with departed := r.2.departed ++ [r.1] }
    else if movesOk r.2 r.1 dst then arrive r.2 r.1 dst 0
    else s

/-- R449: a migration ends. Names the partition and the destination clusters, none for another package; a partition that arrives from
another package is carried by the event. Log 93 (DESIGN CHOICE). -/
def migrationReleaseEv (s : State) : State :=
  let part := argN s 0
  let dst := s.arg.ns.drop 1
  match s.arg.leaving, getPart? s part with
  | some l, _ => if s.power == .running && l.part < 64 && (getPart? s l.part).isNone && movesOk s l dst then arrive s l dst s.nextId else s
  | none, some p => if readyToMove s part p then migrate s part p dst else s
  | none, none => s

def execMigrationRelease (s : State) : Host.Outcome State Fault Refusal := happens migrationReleaseEv s

end Sys2Proof.Machine
end

