-- ==== Sys2Proof/Machine/Host.lean ====
section
/-! DEFINITION. Launch queues and their rings (R451 to R455), and host writes to far memory (R335). -/

namespace Sys2Proof.Machine

/-- Whether the counters of a queue are 32 bits wide and its size is legal (R451). -/
def entriesOk (n : Nat) : Bool := (List.range 13).any (fun i => n == 2 ^ (i + 4))

/-- R451: the hypervisor creates a launch queue of a partition and binds it to a PID. Names the partition and the number; the event
carries the queue's record. Log 87 (DESIGN CHOICE). -/
def launchQueueCreateEv (s : State) : State :=
  let part := argN s 0
  let n := argN s 1
  match s.arg.queue, getPart? s part with
  | some c, some p =>
    if n < 64 && (getQueue s part n).isNone && p.cfg.pids.any (fun q => q.1 == c.pid) && entriesOk c.entries then
      { s with queues := s.queues.put (part * 64 + n) ⟨c, 0, 0, 0, 0, false, false, false, [], [], []⟩ }
    else s
  | _, _ => s

def execLaunchQueueCreate (s : State) : Host.Outcome State Fault Refusal := happens launchQueueCreateEv s

/-- A difference of two counters that count modulo 2^32. -/
def ctrDiff (a b : Nat) : Nat := (a + 2 ^ 32 - b) % 2 ^ 32

/-- The paged tasks of the graphs that a queue started are paged in (R447). -/
def pageInGraphs (s : State) (x : LaunchQ) : State :=
  s.dies.foldl (fun s d => (d.2.entries.filter (fun e => e.paged && x.graphs.contains e.graph)).foldl
    (fun s e => askPageIn s d.1 e) s) s

/-- Whether the Whistle has stopped a partition for its migration (R449): its rings wait for the release (R450). -/
def migrating (s : State) (part : Nat) : Bool :=
  match getPart? s part with | some p => p.whistled && p.migRound != 0 | none => false

/-- A doorbell write applied: SUBMIT (0), RELEASE (1) or the reset doorbell (2) with its value (R447, R453, R454). -/
def ringBell (part q : Nat) (s : State) (b : Nat × Nat) : State :=
  match getQueue s part q with
  | none => s
  | some x =>
    match b.1 with
    | 0 => postOnce (pageInGraphs (modQueue s part q (fun x => { x with submit := b.2 % 2 ^ 32 })) x) .commandTake [part, q]
    | 1 => postOnce (pageInGraphs (modQueue s part q (fun x => { x with release := b.2 % 2 ^ 32 })) x) .completionWrite [part, q]
    | _ => postOnce (modQueue s part q (fun x => { x with stopped := false, accepted := x.submit })) .commandTake [part, q]

/-- The doorbell writes that a migration's stop has kept, applied in the order of their arrival once it is over (R450). -/
def ringHeld (s : State) (part q : Nat) : State :=
  match getQueue s part q with
  | none => s
  | some x =>
    if x.bells.isEmpty || migrating s part then s
    else x.bells.foldl (ringBell part q) (modQueue s part q (fun x => { x with bells := [] }))

/-- A doorbell write kept with its queue, or, the partition having left the package, with what has left (R450). Log 93 (DESIGN CHOICE). -/
def holdBell (s : State) (part q : Nat) (b : Nat × Nat) : State :=
  let add (x : LaunchQ) : LaunchQ := { x with bells := x.bells ++ [b] }
  match getQueue s part q with
  | some _ => postOnce (modQueue s part q add) .commandTake [part, q]
  | none => { s with departed := s.departed.map (fun l =>
      if l.part = part then { l with queues := l.queues.map (fun x => if x.1 = part * 64 + q then (x.1, add x.2) else x) } else l) }

/-- A doorbell write that arrives, after those before it (R450). -/
def bellArrives (s : State) (part q : Nat) (b : Nat × Nat) : State :=
  if (getQueue s part q).isNone || migrating s part then holdBell s part q b else ringBell part q (ringHeld s part q) b

/-- R447, R450, R453: the host writes SUBMIT; during the stop of a migration that waits for the release. Names the partition, the queue
and the value. Log 87 (DESIGN CHOICE). -/
def doorbellSubmitEv (s : State) : State := bellArrives s (argN s 0) (argN s 1) (0, argN s 2)

def execDoorbellSubmit (s : State) : Host.Outcome State Fault Refusal := happens doorbellSubmitEv s

/-- R447, R450, R454: the host writes RELEASE. Names the partition, the queue and the value. -/
def doorbellReleaseEv (s : State) : State := bellArrives s (argN s 0) (argN s 1) (1, argN s 2)

def execDoorbellRelease (s : State) : Host.Outcome State Fault Refusal := happens doorbellReleaseEv s

/-- R450, R453: the host writes the reset doorbell: the queue takes commands again, from SUBMIT. Names the partition and the queue. -/
def resetDoorbellEv (s : State) : State := bellArrives s (argN s 0) (argN s 1) (2, 0)

def execResetDoorbell (s : State) : Host.Outcome State Fault Refusal := happens resetDoorbellEv s

/- ---------------------------------------------------------------- taking a command -/

/-- A queue that has lost its sequence stops and says so (R453). Log 42 (DESIGN CHOICE). -/
def stopQueue (s : State) (part q seq : Nat) : State :=
  completeLaunch (modQueue s part q (fun x => { x with stopped := true })) (some ⟨part, q, seq, 0⟩) 0 0x8013 0

/-- The bytes of a ring entry; none where they do not translate, and where a word is poisoned its address. Log 86 (DEDUCED). -/
def ringRead (s : State) (part : Nat) (x : LaunchQ) (base off n : Nat) : Except (Option Nat) (State × List Byte) :=
  if x.cfg.host then
    let a := farAddr (base + off) true
    match poisonedIn s a n with
    | some w => .error (some (w * 8 - a + base + off))
    | none => .ok (s, memRead s.mem a n)
  else
    match readFar s (homeOf s part) part x.cfg.pid (base + off) n with
    | .error e => .error (if e.1 = cUNCORRECTABLE then some e.2 else none)
    | .ok r => .ok r

/-- Whether a command's TYPE and zero fields are legal (R452). -/
def commandOk (cmd : List Byte) : Bool :=
  let w := fieldOf cmd 0 4
  (w % 256 == 1 || w % 256 == 2) && w / 2 ^ 11 == 0 && (cmd.drop 0x90).all (· == 0) &&
    (w % 256 != 1 || ((cmd.drop 0x30).take 0x20).all (· == 0))

/-- Dwords of a command. -/
def dwords (cmd : List Byte) (off n : Nat) : List Nat := (List.range n).map (fun i => fieldOf cmd (off + 8 * i) 8)

/-- A legal command submitted to the Drover of its DIE, as the root of a new graph (R290, R291, R452). -/
def submitCommand (s : State) (part q : Nat) (x : LaunchQ) (cmd : List Byte) : State :=
  let (g, s1) := fresh s
  let decl := dwords cmd 0x50 8
  let r : DReq := { bareReq 3 with
    part := part, pid := x.cfg.pid, words := dwords cmd 0x10 (if fieldOf cmd 0 1 = 1 then 4 else 8), decl := declOf decl
    declOk := declOk decl, n := fieldOf cmd 0 1, graph := g, win := 1536 * 2 ^ 29, place := 255 + 256 * 2 ^ 16
    launch := some ⟨part, q, fieldOf cmd 4 4, fieldOf cmd 8 8⟩ }
  addReq (modQueue s1 part q (fun x => { x with accepted := (x.accepted + 1) % 2 ^ 32, graphs := g :: x.graphs }))
    (fieldOf cmd 1 1 % 8) r

/-- R453: the device takes the command at ACCEPTED of a queue. Log 42 (DESIGN CHOICE). -/
def takeCommand (s : State) (part q : Nat) : State :=
  match getQueue s part q with
  | none => s
  | some x =>
    let n := ctrDiff x.submit x.accepted
    if migrating s part then postOnce s .commandTake [part, q]
    else if x.torn || x.stopped || n = 0 then s
    else if x.cfg.entries < n then
      stopQueue { s with freeCtr := s.freeCtr + 1 } part q ((Config.freeValue s.freeCtr).toNat % 2 ^ 32)
    else
      let off := x.accepted % x.cfg.entries * 256
      match ringRead s part x x.cfg.cmdBase off 256 with
      | .error (some a) => tearDown s part q a false
      | .error none => tearDown s part q (x.cfg.cmdBase + off) false
      | .ok (s1, cmd) =>
        if fieldOf cmd 4 4 = x.accepted && commandOk cmd then postOnce (submitCommand s1 part q x cmd) .commandTake [part, q]
        else stopQueue s1 part q (fieldOf cmd 4 4)

/-- R450, R453: a queue takes a command, its doorbell writes being applied. Names the partition and the queue. Log 42 (DESIGN CHOICE). -/
def commandTakeEv (s : State) : State := takeCommand (ringHeld s (argN s 0) (argN s 1)) (argN s 0) (argN s 1)

def execCommandTake (s : State) : Host.Outcome State Fault Refusal := happens commandTakeEv s

/- ---------------------------------------------------------------- completions -/

/-- Words of a completion ring written in order. Log 86 (DEDUCED). -/
def ringWrite (s : State) (part : Nat) (x : LaunchQ) : List (Nat × Nat) → Option State
  | [] => some s
  | (off, w) :: t =>
    match ringAddr s part x x.cfg.compBase off .write with
    | .error _ => none
    | .ok (s1, a) =>
      let s2 := rawWrite { s1 with poison := s1.poison.filter (fun p => p != a / 8) } a (leBytes 8 w)
      ringWrite (if x.cfg.host then s2 else dirtyPage s2 part a) part x t

/-- R435, R454: the oldest completion is written once its ring has room: the bytes at +0x08 to +0x1F, then the word at +0x00; one that
meets a ring that fails is written with 0x8011, when the ring can be written again. Names the partition and the queue. Log 86 (DEDUCED). -/
def completionWriteEv (s : State) : State :=
  let part := argN s 0
  let q := argN s 1
  match getQueue s part q with
  | none => s
  | some x =>
    match x.pending with
    | [] => s
    | (seq, utag, tag, status, ecnt) :: t =>
      if migrating s part then postOnce s .completionWrite [part, q]
      else if ctrDiff x.completed x.release = x.cfg.entries then s
      else
        let off := x.completed % x.cfg.entries * 32
        let st := if x.badRing then 0x8011 else status
        let ws := [(off + 8, utag), (off + 16, tag % 2 ^ 32 * 2 ^ 32 + st), (off + 24, min (2 ^ 48 - 1) ecnt), (off, seq % 2 ^ 32 * 2 ^ 32 + x.completed)]
        match ringWrite s part x ws with
        | none => if x.badRing then s else postOnce (tearDown s part q (x.cfg.compBase + off) true) .completionWrite [part, q]
        | some s1 =>
          let s2 := modQueue s1 part q (fun x => { x with pending := t, completed := (x.completed + 1) % 2 ^ 32 })
          if t.isEmpty then s2 else postOnce s2 .completionWrite [part, q]

def execCompletionWrite (s : State) : Host.Outcome State Fault Refusal := happens completionWriteEv s

/- ---------------------------------------------------------------- host writes -/

/-- R318, R335: the lines of a host write become orders of the launch queue's party; they keep the SEQ and UTAG of its completion as
their core and near address. Log 88 (DEDUCED). -/
def hostOrders (part q pid rid seq utag : Nat) (s : State) (p : (Nat × List Byte) × Nat) : State :=
  let va := p.1.1
  let die := homeOf s part
  match translate s die part pid va .write with
  | .error e => if e = cUNCORRECTABLE then tearDown s part q va false else s
  | .ok (s1, pa, host) =>
    let (id, s2) := fresh s1
    addOrder s2 (lineChan die pa host)
      { id := id, party := .host part q, kind := .write, part := part, pid := pid, rid := rid, core := seq, k := 0, line := p.2
        va := va / 64 * 64, pa := pa / 64 * 64, host := host, off := va % 64, len := p.1.2.length, near := utag, data := p.1.2
        tag := 0, run := 0, shadow := false, stage := 0, win := rid }

/-- R335: a host write to device far memory arrives through a launch queue. Names the partition, the queue, the far address, and the SEQ
and UTAG that its completion reports; the event carries the bytes. Log 88 (DEDUCED). -/
def hostWriteEv (s : State) : State :=
  let part := argN s 0
  let q := argN s 1
  match getQueue s part q with
  | none => s
  | some x =>
    if x.torn then s
    else
      let (rid, s1) := fresh s
      (hostLines (s.arg.bytes.length + 1) (argN s 2) s.arg.bytes).zipIdx.foldl (hostOrders part q x.cfg.pid rid (argN s 3) (argN s 4)) s1

def execHostWrite (s : State) : Host.Outcome State Fault Refusal := happens hostWriteEv s

end Sys2Proof.Machine
end

