-- ==== Sys2Proof/Machine/Span.lean ====
section
/-! DEFINITION. Span links and collectives (R456 to R458). -/

namespace Sys2Proof.Machine

/-- One bit of the reflected CRC-32 of IEEE 802.3. -/
def crc32Bit (c : Nat) : Nat := if c % 2 = 1 then (c / 2) ^^^ 0xEDB88320 else c / 2

/-- CRC-32 of bytes (R456). Log 10 (PRESUMED). -/
def crc32 (bs : List Byte) : Nat :=
  (bs.foldl (fun c b => (List.range 8).foldl (fun c _ => crc32Bit c) (c ^^^ b.toNat)) 0xFFFFFFFF) ^^^ 0xFFFFFFFF

/-- The state of a Span link. -/
def getLink (s : State) (n : Nat) : LinkSt := (s.links.get? n).getD ⟨[], [], false, []⟩
def putLink (s : State) (n : Nat) (k : LinkSt) : State := { s with links := s.links.put n k }

/-- The 24 links of a package (R7). -/
def linkNos : List Nat := List.range 24

/-- Another link of the package to the same peer that is in service. -/
def otherLink (s : State) (n : Nat) : Option Nat :=
  linkNos.find? (fun m => m != n && Config.linkPeer m == Config.linkPeer n && !(getLink s m).retired)

/-- A link retired (R456): the flits of its replay buffer move to the first link that remains to the same package; with none they wait
for one. Log 95 (DEDUCED). -/
def retireLink (s : State) (n : Nat) (k : LinkSt) : State :=
  let s1 := putLink s n { k with retired := true, replay := [] }
  match otherLink s1 n with
  | some m => putLink s1 m { getLink s1 m with replay := (getLink s1 m).replay ++ k.replay.map (fun f => { f with fails := 0 }) }
  | none => s1

/-- A flit arrives on a link: with a good CRC the next in order is delivered and one delivered before is not delivered again; with a bad
one it will come again, and at the sixteenth resend of that flit that fails the link is retired. Log 10 (PRESUMED), 95 (DEDUCED). -/
def flitArrives (s : State) (n : Nat) (k : LinkSt) (number : Nat) (f : List Byte) : State :=
  if f.length != 256 then s
  else if crc32 (f.take 252) = leNat (f.drop 252) then
    if number = k.delivered.length then
      putLink s n { k with delivered := k.delivered ++ [f], fails := k.fails.filter (fun q => q.1 != number) }
    else s
  else
    let m := (k.fails.get? number).getD 0 + 1
    let k1 := { k with fails := k.fails.put number m }
    if 17 ≤ m then retireLink s n k1 else putLink s n k1

/-- The oldest flit of a link's replay buffer is acknowledged; with the last of a contribution its landing is due. -/
def flitAcked (s : State) (n : Nat) (k : LinkSt) : State :=
  match k.replay with
  | [] => s
  | f :: rest =>
    let s1 := putLink s n { k with replay := rest }
    let s2 := { s1 with sends := s1.sends.map (fun x => if x.id = f.send then { x with unacked := x.unacked - 1 } else x) }
    if s2.sends.any (fun x => x.id == f.send && x.unacked == 0) then postOnce s2 .contributionLand [f.send] else s2

/-- The other end reports that flit `i` of the replay buffer failed its CRC: it is sent again from there, and after 16 resends of it that
fail the link is retired. Log 95 (DEDUCED). -/
def flitFailed (s : State) (n : Nat) (k : LinkSt) (i : Nat) : State :=
  match k.replay[i]? with
  | none => s
  | some f =>
    if 17 ≤ f.fails + 1 then retireLink s n k
    else putLink s n { k with replay := k.replay.set i { f with fails := f.fails + 1 } }

/-- How many flits of a send are on their way, in the replay buffers of all links. -/
def flitsOut (s : State) (id : Nat) : Nat := linkNos.foldl (fun a m => a + (getLink s m).replay.countP (fun f => f.send == id)) 0

/-- Flit `i` of a contribution (R456): 252 bytes of its data, the last filled up with zeros, and their CRC. Log 95 (DEDUCED). -/
def flitBytes (data : List Byte) (i : Nat) : List Byte :=
  let d := (data.drop (252 * i)).take 252
  let f := d ++ List.replicate (252 - d.length) 0
  f ++ leBytes 4 (crc32 f)

/-- The next flit of a send leaves on a link to its peer and stands in the link's replay buffer until it is acknowledged.
Log 95 (DEDUCED). -/
def flitLeaves (s : State) (n : Nat) (k : LinkSt) (id : Nat) : State :=
  match s.sends.find? (fun x => x.id == id) with
  | some x =>
    let out := flitsOut s id
    if Config.linkPeer n = x.peer && out < x.unacked then
      putLink s n { k with replay := k.replay ++ [⟨id, flitBytes x.data (ceilDiv x.data.length 252 - x.unacked + out), 0⟩] }
    else s
  | none => s

/-- R456: what happens on a Span link. Names the link; then 0 and the number of a flit that arrives, which the event carries; 1 where the
other end acknowledges the oldest flit sent, 2 where it reports that a flit failed, by its place in the replay buffer; or 3 and the send of which a flit leaves.
Log 10 (PRESUMED), 95 (DEDUCED). -/
def flitReceiveEv (s : State) : State :=
  let n := argN s 0
  let k := getLink s n
  if 24 ≤ n || k.retired then s
  else match argN s 1 with
  | 0 => flitArrives s n k (argN s 2) s.arg.bytes
  | 1 => flitAcked s n k
  | 2 => flitFailed s n k (argN s 2)
  | 3 => flitLeaves s n k (argN s 2)
  | _ => s

def execFlitReceive (s : State) : Host.Outcome State Fault Refusal := happens flitReceiveEv s

/- ---------------------------------------------------------------- contributions -/

/-- The key of a contribution (R457). -/
def Contribution.key (c : Contribution) : Nat × Nat × Nat := (c.cid, c.epoch, c.member)

/-- A contribution landed at a far address of a partition: its bytes go where the supervisor's PID maps them. Log 89 (DESIGN CHOICE). -/
def landBytes (s : State) (part addr : Nat) (bs : List Byte) : State :=
  match getPart? s part with
  | none => s
  | some p => placeCode s part p.supPid addr bs

/-- Requests that wait for a contribution are tried again. -/
def wakeWaits (s : State) (part : Nat) : State :=
  (s.hreqs.filter (fun r => r.part == part && r.code == 32 && r.stage == 1)).foldl (fun s r => postOnce s .hcallReply [r.id]) s

/-- The descriptor of a collective request: CID, EPOCH, MEMBER, far source, peer and LEN (R457). -/
structure SpanDesc where
  cid : Nat
  epoch : Nat
  member : Nat
  src : Nat
  peer : Nat
  len : Nat
  deriving DecidableEq, Repr

/-- The fields of a descriptor. -/
def spanDesc (b : List Byte) : SpanDesc :=
  ⟨fieldOf b 0 4, fieldOf b 4 4, fieldOf b 14 2, fieldOf b 8 6, fieldOf b 22 2, fieldOf b 16 4⟩

/-- Whether a request waits on an epoch: with a contribution posted, or for one. -/
def onEpoch (cid epoch : Nat) (r : HReq) : Bool :=
  r.stage == 1 && (r.code == 31 || r.code == 32) && (spanDesc r.hdr).cid == cid && (spanDesc r.hdr).epoch == epoch

/-- R458: an epoch expires, for every participant of the package: requests on it return 0x8012, now and later, and its landing area is
freed. Log 94 (DEDUCED). -/
def expireEpoch (s : State) (cid epoch : Nat) : State :=
  let s1 := { s with parts := s.parts.map (fun p => (p.1, { p.2 with
    landed := p.2.landed.filter (fun c => !(c.cid == cid && c.epoch == epoch)), expired := p.2.expired ++ [(cid, epoch)] })) }
  let s2 := (s.hreqs.filter (onEpoch cid epoch)).foldl (fun s r => answer s r 0x8012 0) s1
  { s2 with sends := s2.sends.filter (fun x => !(x.cid == cid && x.epoch == epoch)) }

/-- R457, R458: a contribution reaches a partition's landing area of this package, and the status its sender is to have: one with a key
that has landed is not taken (2), and one of an expired epoch is discarded (0x8012). Log 94 (DEDUCED). -/
def landHere (s : State) (part : Nat) (c : Contribution) : State × Nat :=
  match getPart? s part with
  | none => (s, 1)
  | some p =>
    if p.expired.contains (c.cid, c.epoch) then (s, 0x8012)
    else if p.landed.any (fun d => d.key == c.key) then (s, 2)
    else
      let c1 := { c with at' := (getDie s (homeOf s part)).counter }
      (wakeWaits (landBytes (modPart s part (fun p => { p with landed := p.landed ++ [c1] })) part c.addr c.data) part, 1)

/-- R457, R458: a contribution lands. Names the send; for one that lands in this package, second, the partition + 1 and, third, the far
address the hypervisor gives it; for one sent by another package, send 0, then the CID, EPOCH and MEMBER, the event carrying the bytes.
Of a send to another package every flit has been acknowledged, and fourth is 1 where its peer already holds the key, and 2 where the
epoch has expired there: it has then expired here too. Log 94 (DEDUCED). -/
def contributionLandEv (s : State) : State :=
  let part := argN s 1 - 1
  let addr := argN s 2
  match s.sends.find? (fun x => x.id == argN s 0) with
  | none =>
    if argN s 1 = 0 then s
    else (landHere s part ⟨argN s 3, argN s 4, argN s 5, s.arg.bytes.length, addr, s.arg.bytes, 0⟩).1
  | some x =>
    let own := x.peer == Config.packageId
    if (own && argN s 1 = 0) || (!own && x.unacked ≠ 0) then s
    else
      let s1 := { s with sends := s.sends.filter (fun y => y.id != x.id) }
      let (s2, status) := if !own then (s1, if argN s 3 = 0 then 1 else if argN s 3 = 1 then 2 else 0x8012)
        else landHere s1 part ⟨x.cid, x.epoch, x.member, x.data.length, addr, x.data, 0⟩
      if status = 0x8012 then expireEpoch s2 x.cid x.epoch
      else match findReq s2 x.req with
        | some r => if r.stage = 1 then answer s2 r status 0 else s2
        | none => s2

def execContributionLand (s : State) : Host.Outcome State Fault Refusal := happens contributionLandEv s

/-- The first landing of an epoch in a partition. -/
def firstLanding (p : PartSt) (cid epoch : Nat) : Option Nat :=
  ((p.landed.filter (fun c => c.cid == cid && c.epoch == epoch)).map Contribution.at').min?

/-- Whether 100 ms have passed in a partition since the first contribution of an epoch landed (R458). Log 94 (DEDUCED). -/
def epochOver (s : State) (part cid epoch : Nat) (p : PartSt) : Bool :=
  match firstLanding p cid epoch with
  | none => false
  | some t => decide (t + Config.epochExpiry ≤ (getDie s (homeOf s part)).counter)

/-- Whether a member of an epoch has posted nothing that this package knows of (R458): a request waits for it, or the hypervisor knows it
for a member. Log 94 (DEDUCED). -/
def memberMissing (s : State) (cid epoch : Nat) : Bool :=
  s.hreqs.any (fun r => onEpoch cid epoch r && r.code == 32) ||
    (Config.members cid).any (fun m => !s.parts.any (fun p =>
      p.2.landed.any (fun c => c.key == (cid, epoch, m)) || p.2.posted.any (fun q => q.2 == (cid, epoch, m))))

/-- R458: an epoch expires. Names a partition in which a contribution of it has landed, the CID, the epoch, and how it is known that 100 ms
have passed with a member missing: 0, here; 1, from another package, where it has expired, the number of cycles since the first landing
there standing fifth. Log 94 (DEDUCED). -/
def collectiveExpiryEv (s : State) : State :=
  let part := argN s 0
  let cid := argN s 1
  let epoch := argN s 2
  match getPart? s part with
  | none => s
  | some p =>
    let due : Bool := if argN s 3 = 0 then epochOver s part cid epoch p && memberMissing s cid epoch else Config.epochExpiry ≤ argN s 4
    if due && !p.expired.contains (cid, epoch) then expireEpoch s cid epoch else s

def execCollectiveExpiry (s : State) : Host.Outcome State Fault Refusal := happens collectiveExpiryEv s

/-- The checks of a descriptor's address and words: in cluster memory, 32-byte aligned, zero fields zero (R457). Log 94 (DEDUCED). -/
def spanDescOk (s : State) (r : HReq) (b : List Byte) : Bool :=
  r.arg % 32 == 0 && slotArea (getCtx s r.ctx) r.ctx r.arg 32 && !inOwn r.ctx r.arg && fieldOf b 24 8 == 0

/-- R457: hcall 31: the contribution's bytes are read under the requester's PID, to be sent in flits of 252 bytes of data.
Log 94 (DEDUCED). -/
def postContribution (s : State) (r : HReq) (b : List Byte) : State :=
  let d := spanDesc b
  if !spanDescOk s r b || d.len < 64 || 2 ^ 24 < d.len || d.len % 64 ≠ 0 then answer s r 2 0
  else
    match getPart? s r.part with
    | none => answer s r 2 0
    | some p =>
      if p.expired.contains (d.cid, d.epoch) then answer s r 0x8012 0
      else if p.posted.contains (d.peer, d.cid, d.epoch, d.member) then answer s r 2 0
      else
        match readFar s (dieOf r.ctx) r.part r.pid d.src d.len with
        | .error e => if e.1 = cUNCORRECTABLE then farRefuse s r e.2 else answer s r 2 0
        | .ok (s1, bs) =>
          let (id, s2) := fresh (modPart s1 r.part (fun p => { p with posted := (d.peer, d.cid, d.epoch, d.member) :: p.posted }))
          putReq { s2 with sends := s2.sends ++ [⟨id, r.id, r.part, d.peer, d.cid, d.epoch, d.member, bs, ceilDiv d.len 252⟩] }
            { r with stage := 1, hdr := b }

/-- R458: hcall 32: the landed contribution, or the wait for it. Log 94 (DEDUCED). -/
def awaitContribution (s : State) (r : HReq) (b : List Byte) : State :=
  let d := spanDesc b
  if !spanDescOk s r b || d.len ≠ 0 || d.peer ≠ 0 then answer s r 2 0
  else
    match getPart? s r.part with
    | none => answer s r 2 0
    | some p =>
      if p.expired.contains (d.cid, d.epoch) then answer s r 0x8012 0
      else
        match p.landed.find? (fun c => c.key == (d.cid, d.epoch, d.member)) with
        | some c => answer s r 1 c.addr
        | none => putReq s { r with stage := 1, hdr := b }

end Sys2Proof.Machine
end

