-- ==== Sys2Proof/Machine/Clock.lean ====
section
/-! DEFINITION. Islands and energy (R459), power-on and recovery (R460), and the die counter with what its values bring about (R341,
R128, R347, R369, R392, R427, R458). -/

namespace Sys2Proof.Machine

/- ---------------------------------------------------------------- islands -/

/-- The clusters of an island of a die, and their contexts (R459). -/
def islandClusters (die n : Nat) : List Nat := [die * 256 + 2 * n, die * 256 + 2 * n + 1]
def islandCtxs (die n : Nat) : List Nat := ((islandClusters die n).flatMap coresOf).flatMap ctxsOf

/-- Whether a core has engine work or is being scanned. -/
def coreBusy (k : CoreSt) : Bool :=
  !k.mat.isEmpty || !k.vec.isEmpty || !k.copyQ.isEmpty || !k.held.isEmpty || k.chans.toList.any Option.isSome || k.scan == 1

/-- Whether nothing keeps an island on (R459). -/
def islandIdle (s : State) (die n : Nat) : Bool :=
  (islandCtxs die n).all (fun c => (getCtx s c).mode == .free) &&
    ((islandClusters die n).flatMap coresOf).all (fun c => !coreBusy (getCore s c))

/-- R459: a gated island wakes. Names the die and the island. -/
def islandWakeEv (s : State) : State :=
  ungate s (argN s 0 * 256 + 2 * argN s 1)

def execIslandWake (s : State) : Host.Outcome State Fault Refusal := happens islandWakeEv s

/-- R459: an island with no task, engine work, scan or save is gated. Names the die and the island. -/
def islandGateEv (s : State) : State :=
  if islandIdle s (argN s 0) (argN s 1) then
    (islandClusters (argN s 0) (argN s 1)).foldl (fun s c => modCluster s c (fun k => { k with gated := true })) s
  else s

def execIslandGate (s : State) : Host.Outcome State Fault Refusal := happens islandGateEv s

/-- R459: an ON island's static share goes to the contexts that hold a task in it. Names the die and the island. -/
def ecntStaticShareEv (s : State) : State :=
  let cs := (islandCtxs (argN s 0) (argN s 1)).filter (fun c => (getCtx s c).mode != .free)
  if (getCluster s (argN s 0 * 256 + 2 * argN s 1)).gated then s
  else cs.foldl (fun s c => addEnergy s c (480000 / cs.length)) s

def execEcntStaticShare (s : State) : Host.Outcome State Fault Refusal := happens ecntStaticShareEv s

/- ---------------------------------------------------------------- power -/

/-- R460: what the boot ROM makes of an image: it starts, or the part stays in recovery with the step that failed. Log 97 (DEDUCED). -/
def bootImage (s : State) (img : List Byte) : State :=
  if img.isEmpty then { s with power := .recovery 2 }
  else if imageOk 0x4B485950 Config.korserKey img then { s with power := .running, hvImage := img }
  else { s with power := .recovery 3 }

/-- R460: power-on: every SRAM and HBM word is zero, every register is at reset, and the boot image, which the event carries, is checked
and started. Host memory and the turns to come are no part of it. Log 2 (DEDUCED), 97 (DEDUCED). -/
def powerOnEv (s : State) : State :=
  bootImage { State.reset with
    mem := s.mem.filter (fun p => hostBase ≤ p.1), cur := s.cur, arg := s.arg, sched := s.sched, phase := s.phase, choices := s.choices
    freeCtr := s.freeCtr } s.arg.bytes

def execPowerOn (s : State) : Host.Outcome State Fault Refusal := happens powerOnEv s

/-- R460: in recovery, and only there, a new boot image is checked and started. The event carries it. Log 97 (DEDUCED). -/
def recoveryBootImageEv (s : State) : State :=
  match s.power with
  | .recovery _ => bootImage s s.arg.bytes
  | _ => s

def execRecoveryBootImage (s : State) : Host.Outcome State Fault Refusal := happens recoveryBootImageEv s

/- ---------------------------------------------------------------- the die counter -/

/-- Deadlines that have passed on a die (R347), and those of replay and third runs there (R394). -/
def postDeadlines (s : State) (die now : Nat) : State :=
  s.dies.foldl (fun s d => d.2.entries.foldl (fun s e =>
    let due : Bool := match e.transit.runCtx with
      | some c => dieOf c == die && decide ((getCtx s c).deadline.toNat ≤ now)
      | none => d.1 == die && e.missed != some (entDeadline s e) && holdsPlace e && e.state != .waiting && decide (entDeadline s e ≤ now)
    if due then postOnce s .deadlinePass [d.1, e.order] else s) s) s

/-- Retention locks of a die that have reached their age (R392). -/
def postLocks (s : State) (die now : Nat) : State :=
  (getDie s die).entries.foldl (fun s e =>
    if e.transit.phase != 0 && e.transit.phase != 5 && e.transit.admitted + Config.lockAge ≤ now then
      postOnce s .retentionLockAge [die, e.tag]
    else s) s

/-- Hint windows of a die that end (R369), and stalled port writes that send a probe (R128). -/
def postWaits (s : State) (die now : Nat) : State :=
  s.ctxs.foldl (fun s p =>
    if isMem p.1 || dieOf p.1 != die then s
    else
      let s1 := match p.2.window with
        | some w => if w ≤ now then postOnce s .hintWindowExpiry [p.1] else s
        | none => s
      if p.2.stall.isSome && issuing p.2.mode && p.2.probeAt ≤ now then postOnce s1 .deadlockProbe [p.1] else s1) s

/-- The islands of a die: static shares at every multiple of 1,024, and the gating of those that are idle (R459). -/
def postIslands (s : State) (die now : Nat) : State :=
  (List.range 128).foldl (fun s n =>
    if (getCluster s (die * 256 + 2 * n)).gated then s
    else
      let s1 := if now % 1024 = 0 then postOnce s .ecntStaticShare [die, n] else s
      if islandIdle s1 die n then postOnce s1 .islandGate [die, n] else s1) s

/-- Collective epochs whose time has run out (R458): those of which a contribution has landed long enough ago. -/
def postExpiries (s : State) (die now : Nat) : State :=
  s.parts.foldl (fun s p => if homeOf s p.1 ≠ die then s
    else (p.2.landed.filter (fun c => c.at' + Config.epochExpiry ≤ now)).foldl (fun s c => postOnce s .collectiveExpiry [p.1, c.cid, c.epoch, 0]) s) s

/-- R341: the die counter advances by one, and what its new value brings about is due. Names the die.
Log 6 (DESIGN CHOICE), 98 (DEDUCED). -/
def dieCounterTickEv (s : State) : State :=
  let die := argN s 0
  let s0 := modDie s die (fun d => { d with counter := d.counter + 1 })
  let now := (getDie s0 die).counter
  let s2 := postExpiries (postIslands (postWaits (postLocks (postDeadlines s0 die now) die now) die now) die now) die now
  if now % 559816 = 0 then postOnce s2 .rotationClusterStart [die] else s2

def execDieCounterTick (s : State) : Host.Outcome State Fault Refusal := happens dieCounterTickEv s

end Sys2Proof.Machine
end

