-- ==== Sys2Proof/Machine/Reply.lean ====
section
/-! DEFINITION. What the hypervisor does for each code of hcall (R243, R307, R315, R360, R379, R399, R406, R430, R444, R446, R447,
R457, R458, R461), and its replies. -/

namespace Sys2Proof.Machine

/-- Bytes of near memory as the hypervisor reads them for a request. Log 50 (DEDUCED). -/
def hvRead (s : State) (r : HReq) (a n : Nat) : List Byte := memRead s.mem (phys r.ctx a) n

/- ---------------------------------------------------------------- translations: code 17 -/

/-- The range of an invalidation descriptor (R315): the PID, the first address and the byte after the last. -/
def invPid (b : List Byte) : Nat := fieldOf b 14 2
def invFrom (b : List Byte) : Nat := fieldOf b 0 8
def invTo (b : List Byte) : Nat := invFrom b + fieldOf b 8 6 / 4096 * 4096

/-- Whether a descriptor is in order for a partition (R315). -/
def invOk (s : State) (r : HReq) (b : List Byte) : Bool :=
  let w0 := fieldOf b 0 8
  let w1 := fieldOf b 8 8
  let mine := match getPart? s r.part with | some p => p.cfg.pids.any (fun q => q.1 == invPid b) | none => false
  w0 % 4096 == 0 && w0 / 2 ^ 48 == 0 && bitsAt w1 1 11 == 0 && bitsAt w1 12 36 != 0 && mine

/-- Whether a descriptor's place is legal: 16-byte aligned, in own local memory inside LWIN or in cluster memory. -/
def invPlace (s : State) (r : HReq) : Bool := r.arg % 16 == 0 && slotArea (getCtx s r.ctx) r.ctx r.arg 16

/-- Whether a cached line or page of a PID touches a range. -/
def touches (part pid lo hi : Nat) (p q va n : Nat) : Bool := p == part && q == pid && va < hi && lo < va + n

/-- Every translation of the range leaves the caches of the package, with the instruction lines where the descriptor asks (R315). -/
def invalidateRange (s : State) (part : Nat) (b : List Byte) : State :=
  let hit (p q va n : Nat) : Bool := touches part (invPid b) (invFrom b) (invTo b) p q va n
  let keep (e : Nat × Nat × Nat × List Byte) : Bool := !hit e.1 e.2.1 e.2.2.1 64
  let s1 := { s with dies := s.dies.map (fun d => (d.1, { d.2 with tlb := d.2.tlb.filter (fun e => !hit e.part e.pid e.va e.size) })) }
  if bitAt (fieldOf b 8 8) 0 then
    { s1 with
      cores := s1.cores.map (fun c => (c.1, { c.2 with icache := c.2.icache.filter keep }))
      clusters := s1.clusters.map (fun c => (c.1, { c.2 with icache := c.2.icache.filter keep })) }
  else s1

/-- Whether an order that may have used a translation of the range has not completed, a program that a memory core runs for an order
among them. -/
def ordersIn (s : State) (part : Nat) (b : List Byte) : Bool :=
  let hit (p q va : Nat) : Bool := touches part (invPid b) (invFrom b) (invTo b) p q va 64
  s.chans.any (fun c => c.2.orders.any (fun o => hit o.part o.pid o.va)) ||
    s.ctxs.any (fun x => match x.2.serving with | some v => hit v.part v.pid v.far | none => false)

/-- An invalidation that waits for the orders of its range; what has come back into a cache meanwhile leaves it. -/
def finishInvalidate (s : State) (r : HReq) : State :=
  let s1 := invalidateRange s r.part r.hdr
  if ordersIn s1 r.part r.hdr then pend s1 r else answer s1 r 1 0

/-- The state in which the status of a request may be written: for an invalidation that has been performed, one in which no cache holds
an entry of its range and no order has used one; none while there is such an order (R315). -/
def settledReply (s : State) (r : HReq) : Option State :=
  if r.code = 17 && r.status = 1 then
    let s1 := invalidateRange s r.part r.hdr
    if ordersIn s1 r.part r.hdr then none else some s1
  else some s

def doInvalidate (s : State) (r : HReq) : State :=
  let b := hvRead s r r.arg 16
  if !invPlace s r || !invOk s r b then answer s r 2 0
  else finishInvalidate (invalidateRange s r.part b) { r with hdr := b }

/- ---------------------------------------------------------------- settings and queries -/

/-- Code 18 (R307). -/
def doLoader (s : State) (r : HReq) : State :=
  let a := r.arg
  if a / 2 ^ 56 ≠ 0 || a % 4 ≠ 0 then answer s r 2 0
  else
    answer (modPart s r.part (fun p => { p with
      loaders := if a % 2 ^ 48 = 0 then p.loaders.del (bitsAt a 48 8) else p.loaders.put (bitsAt a 48 8) (a % 2 ^ 48) })) r 1 0

/-- Code 19 (R360). -/
def doQuery (s : State) (r : HReq) : State :=
  let die := dieOf r.ctx
  match getPart? s r.part with
  | none => answer s r 2 0
  | some p =>
    if r.arg ≠ 0 then answer s r 2 0
    else
      let use := (partCores s r.part die).length
      let miss := ((getDie s die).misses.get? r.part).getD 0
      let ents := ((getDie s die).entries.filter (fun e => e.part == r.part && holdsPlace e)).length
      answer s r 1 (p.cfg.cls % 256 * 2 ^ 56 + minimumOf p die % 4096 * 2 ^ 44 + use % 4096 * 2 ^ 32 + miss % 65536 * 2 ^ 16 + ents)

/-- Codes 20 and 21 (R379): a stop spares the context that issued it; its answer follows when every context has settled. -/
def doStop (s : State) (r : HReq) : State :=
  if r.arg ≠ 0 then answer s r 2 0 else whistleStop (putReq s { r with stage := 1 }) r.part (some r.ctx)
def doRelease (s : State) (r : HReq) : State :=
  if r.arg ≠ 0 then answer s r 2 0 else answer (whistleRelease s r.part) r 1 0

/-- The settings word (R399). -/
def settingsWord (p : PartSt) : Nat := (if p.thresh = 0 then 1024 else p.thresh) * 2 ^ 18 + bit p.conf * 2 ^ 17 + p.frac

/-- Code 22 (R399). -/
def doSettings (s : State) (r : HReq) : State :=
  let a := r.arg
  if bitsAt a 34 29 ≠ 0 || 65536 < a % 2 ^ 17 then answer s r 2 0
  else
    let s1 := if bitAt a 63 then modPart s r.part (fun p => { p with thresh := bitsAt a 18 16, conf := bitAt a 17, frac := a % 2 ^ 17 }) else s
    match getPart? s1 r.part with
    | some p => answer s1 r 1 (settingsWord p)
    | none => answer s1 r 2 0

/-- Code 23 (R399). -/
def doCounts (s : State) (r : HReq) : State :=
  match getPart? s r.part with
  | none => answer s r 2 0
  | some p =>
    let m := 2 ^ 21 - 1
    answer s r 1 (min m p.confirmed + min m p.mismatch * 2 ^ 21 + min m p.unverified * 2 ^ 42)

/-- Code 24 (R406). -/
def doArm (s : State) (r : HReq) : State :=
  let a := r.arg
  let core := a % 2 ^ 14
  if a / 2 ^ 22 ≠ 0 || bitsAt a 14 2 ≠ 0 || (getCluster s (clusterOfCore core)).part != some r.part || (getCore s core).fold == .retired ||
      (getCore s core).armed.isSome then answer s r 2 0
  else answer (modCore s core (fun k => { k with armed := some (bitsAt a 16 6) })) r 1 a

/-- The cores whose results for a tag are provisional (R430): those that list it, and those with OVF of a die it was placed on.
Log 84 (DEDUCED). -/
def taintCount (s : State) (tag : Nat) : Nat :=
  let on (die : Nat) : Bool := (getDie s die).placed.contains tag
  (s.cores.filter (fun c => c.2.taint.contains tag || (c.2.taintOvf && on (dieOfCore c.1)))).length +
    (s.chans.filter (fun c => c.2.taint.contains tag || (c.2.taintOvf && on (c.1 / 32)))).length

/-- Code 25 (R430). -/
def doTaint (s : State) (r : HReq) : State :=
  if r.arg / 2 ^ 32 ≠ 0 || partOfTag s r.arg != some r.part then answer s r 2 0 else answer s r 1 (taintCount s r.arg)

/-- Whether removals of a partition's surrogates are under way (R416). -/
def removalsLeft (s : State) (part : Nat) : Bool := s.dies.any (fun d => d.2.removals.any (fun x => x.2.part == part))

/-- Code 26 (R444): the answer follows when every invalidation it causes has been applied. -/
def finishEvict (s : State) (r : HReq) : State := if removalsLeft s r.part then pend s r else answer s r 1 0
def doEvict (s : State) (r : HReq) : State :=
  match (getPart? s r.part).bind (fun p => p.dir.find? (fun e => e.outBase == r.arg)) with
  | none => answer s r 2 0
  | some e => finishEvict (dirEvict s r.part e) r

/-- Code 27 (R368, R444). -/
def doFaultQueue (s : State) (r : HReq) : State :=
  let die := dieOf r.ctx
  match getPart? s r.part with
  | none => answer s r 2 0
  | some p =>
    match (p.faultQ.get? die).getD [] with
    | [] => answer s r 2 ((p.lost.get? die).getD 0)
    | e :: t =>
      if !blockOk r.ctx r.arg then answer s r 2 ((p.lost.get? die).getD 0)
      else
        let (s1, r1) := hvWrite (putPart s r.part { p with faultQ := p.faultQ.put die t }) r (phys r.ctx r.arg) e
        answer s1 r1 1 t.length

/- ---------------------------------------------------------------- cold contexts and identity -/

/-- The entry of a tag of a partition on any die. Log 96 (DEDUCED). -/
def findTag (s : State) (part tag : Nat) : Option (Nat × Entry) :=
  s.dies.findSome? (fun d => (d.2.entries.find? (fun e => e.tag == tag && e.part == part && e.card.isNone)).map (fun e => (d.1, e)))

/-- The block number of the first unit of the lowest free slot of a namespace; a slot is 64 units of 4 KiB (R446).
Log 65 (DESIGN CHOICE). -/
def freeBlock (used : List PagedSlot) : Nat :=
  64 * (((List.range (used.length + 1)).find? (fun i => !used.any (fun g => g.block == 64 * i))).getD used.length)

/-- A member's slot encrypted and written to the namespace. Log 65 (DESIGN CHOICE). -/
def writeSlot (die tag key : Nat) (used : List PagedSlot) (v : SavedCtx) : List PagedSlot :=
  used ++ [slotFrom die tag key (freeBlock used) v]

/-- Code 28 (R446): the slots of the task's members go to the namespace and are freed; its entry stays.
Log 65 (DESIGN CHOICE), 96 (DEDUCED). -/
def doPageOut (s : State) (r : HReq) : State :=
  match findTag s r.part (r.arg % 2 ^ 32), getPart? s r.part with
  | some (die, e), some p =>
    if e.state != .saved || e.paged || Config.namespaceSlots r.part < p.pages.length + e.saved.length then answer s r 2 0
    else
      let s1 := putPart s r.part { p with pages := e.saved.foldl (writeSlot die e.tag p.xtsKey) p.pages }
      answer (modEnt s1 die e.order (fun f => { f with paged := true, pageAsked := false, saved := f.saved.map pageStub })) r 1 0
  | _, _ => answer s r 2 0

/-- Code 29 (R447). Log 96 (DEDUCED). -/
def doPageIn (s : State) (r : HReq) : State :=
  match findTag s r.part (r.arg % 2 ^ 32) with
  | none => answer s r 2 0
  | some (die, e) => if e.paged then answer (askPageIn s die e) r 1 0 else answer s r 2 0

/-- The bytes that code 30 signs (R461): the nonce, the two hashes, the part number and the Almanac revision. -/
def identityBytes (s : State) (r : HReq) : List Byte :=
  let sup := match getPart? s r.part with | some p => p.supImage | none => []
  hvRead s r r.arg 64 ++ sha512 s.hvImage ++ sha512 sup ++ leBytes 8 Config.partNumber ++ leBytes 8 Config.almanacRev

/-- Code 30 (R461). Log 8 (DESIGN CHOICE). -/
def doIdentity (s : State) (r : HReq) : State :=
  if !((List.range 4).all (fun i => blockOk r.ctx (r.arg + i * 128))) then answer s r 2 0
  else
    let m := identityBytes s r
    let sig := identitySign m
    let (s1, r1) := hvWrite s r (phys r.ctx (r.arg + 0x40)) (m.drop 64 ++ sig ++ List.replicate 172 0)
    answer s1 r1 1 0

/- ---------------------------------------------------------------- the reply -/

/-- What a request asks for is done, once (R243). -/
def perform (s : State) (r : HReq) : State :=
  match r.code with
  | 16 => s
  | 17 => doInvalidate s r
  | 18 => doLoader s r
  | 19 => doQuery s r
  | 20 => doStop s r
  | 21 => doRelease s r
  | 22 => doSettings s r
  | 23 => doCounts s r
  | 24 => doArm s r
  | 25 => doTaint s r
  | 26 => doEvict s r
  | 27 => doFaultQueue s r
  | 28 => doPageOut s r
  | 29 => doPageIn s r
  | 30 => doIdentity s r
  | 31 => postContribution s r (hvRead s r r.arg 32)
  | 32 => awaitContribution s r (hvRead s r r.arg 32)
  | _ => answer s r 3 0

/-- How many bytes of near memory a request names for the hypervisor to read, by its code. -/
def readLen (code : Nat) : Nat := if code = 17 then 16 else if code = 30 then 64 else if code = 31 || code = 32 then 32 else 0

/-- A request taken (R243): what it asks for is done, unless a word it names is poisoned. -/
def takeRequest (s : State) (r : HReq) : State :=
  if readLen r.code = 0 then perform s r
  else match hvRefuse s r r.arg (readLen r.code) with
    | some s1 => s1
    | none => perform s r

/-- A request that waits is looked at again. -/
def goOn (s : State) (r : HReq) : State :=
  match r.code with
  | 17 => finishInvalidate s r
  | 26 => finishEvict s r
  | 32 => awaitContribution s r r.hdr
  | _ => s

/-- R243: the hypervisor performs a request, or makes the next of the two writes of its reply. Names the request. -/
def hcallReplyEv (s : State) : State :=
  match findReq s (argN s 0) with
  | none => s
  | some r =>
    match r.stage with
    | 0 => takeRequest s r
    | 1 => goOn s r
    | 2 => replyStep s r
    | 3 => (match settledReply s r with | some s1 => replyStep s1 r | none => postOnce s .hcallReply [r.id])
    | 5 => finishRun s r
    | _ => s

def execHcallReply (s : State) : Host.Outcome State Fault Refusal := happens hcallReplyEv s

end Sys2Proof.Machine
end

