-- ==== Sys2Proof/Machine/Simd.lean ====
section
/-! DEFINITION. Packed integer, floating-point and cross-lane operations (R140 to R154), shapes and tensor indices (R155 to
R157). -/

namespace Sys2Proof.Machine

/-- A lane value under a saturation mode (R144): `f` the exact value from a reading of the operands. -/
def satLane (sat : Sat) (w : Nat) (f : (Nat → Int) → Int) : Nat :=
  match sat with
  | .wrap => wrapInt (f (fun x => signedBits x w)) w
  | .sats => wrapInt (clampInt (f (fun x => signedBits x w)) (-(2 ^ (w - 1))) (2 ^ (w - 1) - 1)) w
  | .satu => wrapInt (clampInt (f (fun x => (x : Int))) 0 (2 ^ w - 1)) w

/-- A lane read as its type says (R143). -/
def laneInt (t : ILane) (x : Nat) : Int := if t.signed then signedBits x t.bits else x

/-- All ones or zero. -/
def laneMask (w : Nat) (b : Bool) : Nat := if b then 2 ^ w - 1 else 0

/-- The lanes of three registers combined one by one. -/
def zipLanes (w : Nat) (a b d : BitVec 128) (f : Nat → Nat → Nat → Nat) : BitVec 128 :=
  packLanes w ((List.range (128 / w)).map (fun i => f (lane a w i) (lane b w i) (lane d w i)))

/-- What issue needs to know of a SIMD instruction. -/
def simdSpec (i : Instr) (wu : Nat) : Spec := { i := i, wu := some wu, kind := .compute, ecls := 2 }

/-- An integer SIMD operation (R143): `f` gives a lane from those of va, vb and the old vd. -/
def simdInt (i : Instr) (wu : Nat) (vd va vb : VReg) (w : Nat) (f : Nat → Nat → Nat → Nat) (s : State) :
    Host.Outcome State Fault Refusal :=
  issue (simdSpec i wu)
    (fun _ s => .ok { st := setCur s (fun x => setV x vd (zipLanes w (getV x va) (getV x vb) (getV x vd) f)) }) s

def execVadd (d a b : VReg) (t : ILane) (sat : Sat) (s : State) : Host.Outcome State Fault Refusal :=
  simdInt (.vadd d a b t sat) 1 d a b t.bits (fun x y _ => satLane sat t.bits (fun r => r x + r y)) s

def execVsub (d a b : VReg) (t : ILane) (sat : Sat) (s : State) : Host.Outcome State Fault Refusal :=
  simdInt (.vsub d a b t sat) 1 d a b t.bits (fun x y _ => satLane sat t.bits (fun r => r x - r y)) s

def execVmul (d a b : VReg) (t : ILane) (sat : Sat) (s : State) : Host.Outcome State Fault Refusal :=
  simdInt (.vmul d a b t sat) 2 d a b t.bits (fun x y _ => satLane sat t.bits (fun r => r x * r y)) s

def execVmla (d a b : VReg) (t : ILane) (sat : Sat) (s : State) : Host.Outcome State Fault Refusal :=
  simdInt (.vmla d a b t sat) 2 d a b t.bits (fun x y z => satLane sat t.bits (fun r => r z + r x * r y)) s

def execVmin (d a b : VReg) (t : ILane) (s : State) : Host.Outcome State Fault Refusal :=
  simdInt (.vmin d a b t) 1 d a b t.bits (fun x y _ => if laneInt t x ≤ laneInt t y then x else y) s

def execVmax (d a b : VReg) (t : ILane) (s : State) : Host.Outcome State Fault Refusal :=
  simdInt (.vmax d a b t) 1 d a b t.bits (fun x y _ => if laneInt t y ≤ laneInt t x then x else y) s

/-- An exact value of the signed reading reduced under a saturation mode (R144, vabs and vneg). -/
def satExact (sat : Sat) (w : Nat) (v : Int) : Nat :=
  match sat with
  | .wrap => wrapInt v w
  | .sats => wrapInt (clampInt v (-(2 ^ (w - 1))) (2 ^ (w - 1) - 1)) w
  | .satu => wrapInt (clampInt v 0 (2 ^ w - 1)) w

def execVabs (d a : VReg) (t : ILane) (sat : Sat) (s : State) : Host.Outcome State Fault Refusal :=
  simdInt (.vabs d a t sat) 1 d a a t.bits (fun x _ _ => satExact sat t.bits (signedBits x t.bits).natAbs) s

def execVneg (d a : VReg) (t : ILane) (sat : Sat) (s : State) : Host.Outcome State Fault Refusal :=
  simdInt (.vneg d a t sat) 1 d a a t.bits (fun x _ _ => satExact sat t.bits (-(signedBits x t.bits))) s

def execVand (d a b : VReg) (t : ILane) (s : State) : Host.Outcome State Fault Refusal :=
  simdInt (.vand d a b t) 1 d a b t.bits (fun x y _ => x &&& y) s

def execVor (d a b : VReg) (t : ILane) (s : State) : Host.Outcome State Fault Refusal :=
  simdInt (.vor d a b t) 1 d a b t.bits (fun x y _ => x ||| y) s

def execVxor (d a b : VReg) (t : ILane) (s : State) : Host.Outcome State Fault Refusal :=
  simdInt (.vxor d a b t) 1 d a b t.bits (fun x y _ => x ^^^ y) s

def execVandn (d a b : VReg) (t : ILane) (s : State) : Host.Outcome State Fault Refusal :=
  simdInt (.vandn d a b t) 1 d a b t.bits (fun x y _ => x &&& (2 ^ t.bits - 1 - y)) s

def execVshl (d a b : VReg) (t : ILane) (sat : Sat) (s : State) : Host.Outcome State Fault Refusal :=
  simdInt (.vshl d a b t sat) 1 d a b t.bits (fun x y _ => satLane sat t.bits (fun r => r x * 2 ^ (y % t.bits))) s

def execVshr (d a b : VReg) (t : ILane) (s : State) : Host.Outcome State Fault Refusal :=
  simdInt (.vshr d a b t) 1 d a b t.bits (fun x y _ => wrapInt (laneInt t x / 2 ^ (y % t.bits)) t.bits) s

def execVceq (d a b : VReg) (t : ILane) (s : State) : Host.Outcome State Fault Refusal :=
  simdInt (.vceq d a b t) 1 d a b t.bits (fun x y _ => laneMask t.bits (x == y)) s

def execVclt (d a b : VReg) (t : ILane) (s : State) : Host.Outcome State Fault Refusal :=
  simdInt (.vclt d a b t) 1 d a b t.bits (fun x y _ => laneMask t.bits (laneInt t x < laneInt t y)) s

def execVcle (d a b : VReg) (t : ILane) (s : State) : Host.Outcome State Fault Refusal :=
  simdInt (.vcle d a b t) 1 d a b t.bits (fun x y _ => laneMask t.bits (laneInt t x ≤ laneInt t y)) s

/-- The bitwise select of R145. -/
def selBits (a b c : BitVec 128) : BitVec 128 := (a &&& c) ||| (b &&& ~~~c)

def execVsel (d a b c : VReg) (s : State) : Host.Outcome State Fault Refusal :=
  issue (simdSpec (.vsel d a b c) 1)
    (fun _ s => .ok { st := setCur s (fun x => setV x d (selBits (getV x a) (getV x b) (getV x c))) }) s

/- ---------------------------------------------------------------- float lanes -/

/-- The format of a float lane type. -/
def flaneFmt : FLane → Fmt
  | .f16 => f16Fmt | .bf16 => bf16Fmt | .f32 => f32Fmt | .f64 => f64Fmt

/-- The formats of operands a and b and of the result (R149): those of the lane type, or with a prefix the registers it
names, each of KIND 1 to 3 and as wide as a lane. -/
def laneFmts (x : Ctx) (t : FLane) : Option (Fmt × Fmt × Fmt) :=
  match prefixOf x with
  | none => some (flaneFmt t, flaneFmt t, flaneFmt t)
  | some p =>
    match fixedReg x p.a, fixedReg x p.b, fixedReg x p.out with
    | some fa, some fb, some fo => if fa.w = t.bits && fb.w = t.bits && fo.w = t.bits then some (fa, fb, fo) else none
    | _, _, _ => none

/-- A floating-point SIMD operation (R147 to R149): `f` gives a lane from the formats, the rounding, and the lanes of va,
vb and the old vd. Log 39 (DEDUCED). -/
def simdFloat (i : Instr) (vd va vb : VReg) (t : FLane) (r : Rnd)
    (f : Fmt → Fmt → Fmt → Nat → Nat → Nat → Nat → RS → Nat × RS) (s : State) : Host.Outcome State Fault Refusal :=
  issue { simdSpec i 2 with fmt := true }
    (fun _ s =>
      let x := cx s
      match laneFmts x t with
      | none => .trap illegal11
      | some (fa, fb, fo) =>
        let w := t.bits
        vectorResult s vd w (eachF (fun j => f fa fb fo (rounding x r) (lane (getV x va) w j) (lane (getV x vb) w j)
          (lane (getV x vd) w j)) (List.range (128 / w)) x.lfsr)) s

/-- A rounding operation in one lane (R147): the addend of vfma has the format of b. -/
def roundLane (op : FOp) (fa fb fo : Fmt) (rnd a b d : Nat) (rs : RS) : Nat × RS :=
  arithF op fo rnd rs (decodeF fa a) (decodeF fb b) (decodeF fb d)

def execVfadd (d a b : VReg) (t : FLane) (r : Rnd) (s : State) : Host.Outcome State Fault Refusal :=
  simdFloat (.vfadd d a b t r) d a b t r (roundLane .add) s

def execVfsub (d a b : VReg) (t : FLane) (r : Rnd) (s : State) : Host.Outcome State Fault Refusal :=
  simdFloat (.vfsub d a b t r) d a b t r (roundLane .sub) s

def execVfmul (d a b : VReg) (t : FLane) (r : Rnd) (s : State) : Host.Outcome State Fault Refusal :=
  simdFloat (.vfmul d a b t r) d a b t r (roundLane .mul) s

def execVfma (d a b : VReg) (t : FLane) (r : Rnd) (s : State) : Host.Outcome State Fault Refusal :=
  simdFloat (.vfma d a b t r) d a b t r (roundLane .fma) s

def execVfmin (d a b : VReg) (t : FLane) (s : State) : Host.Outcome State Fault Refusal :=
  simdFloat (.vfmin d a b t) d a b t .dyn (fun fa fb fo rnd x y _ rs => minMaxF false fa fb fo rnd rs x y) s

def execVfmax (d a b : VReg) (t : FLane) (s : State) : Host.Outcome State Fault Refusal :=
  simdFloat (.vfmax d a b t) d a b t .dyn (fun fa fb fo rnd x y _ rs => minMaxF true fa fb fo rnd rs x y) s

/-- vfabs in one lane (R148, R149): the sign bit of the converted code is cleared. -/
def absLane (fa fo : Fmt) (rnd a : Nat) (rs : RS) : Nat × RS :=
  let r := convF fa fo rnd rs a
  (magCode fo r.1, r.2)

/-- vfneg in one lane: the sign bit is inverted. -/
def negLane (fa fo : Fmt) (rnd a : Nat) (rs : RS) : Nat × RS :=
  let r := convF fa fo rnd rs a
  (withSign fo (!signOf fo r.1) (magCode fo r.1), r.2)

def execVfabs (d a : VReg) (t : FLane) (s : State) : Host.Outcome State Fault Refusal :=
  simdFloat (.vfabs d a t) d a a t .dyn (fun fa _ fo rnd x _ _ rs => absLane fa fo rnd x rs) s

def execVfneg (d a : VReg) (t : FLane) (s : State) : Host.Outcome State Fault Refusal :=
  simdFloat (.vfneg d a t) d a a t .dyn (fun fa _ fo rnd x _ _ rs => negLane fa fo rnd x rs) s

/-- A compare in one lane (R148): `quiet` compares set NV for a signalling operand only. -/
def cmpLane (quiet : Bool) (p : Ordering → Bool) (fa fb fo : Fmt) (a b : Nat) (rs : RS) : Nat × RS :=
  let x := decodeF fa a
  let y := decodeF fb b
  if x.isNan || y.isNan then (0, rs.flagIf (!quiet || x.isSig || y.isSig) fNV)
  else (laneMask fo.w (p (cmpV x y)), rs)

def execVfceq (d a b : VReg) (t : FLane) (s : State) : Host.Outcome State Fault Refusal :=
  simdFloat (.vfceq d a b t) d a b t .dyn (fun fa fb fo _ x y _ rs => cmpLane true (· == .eq) fa fb fo x y rs) s

def execVfclt (d a b : VReg) (t : FLane) (s : State) : Host.Outcome State Fault Refusal :=
  simdFloat (.vfclt d a b t) d a b t .dyn (fun fa fb fo _ x y _ rs => cmpLane false (· == .lt) fa fb fo x y rs) s

def execVfcle (d a b : VReg) (t : FLane) (s : State) : Host.Outcome State Fault Refusal :=
  simdFloat (.vfcle d a b t) d a b t .dyn (fun fa fb fo _ x y _ rs => cmpLane false (· != .gt) fa fb fo x y rs) s

/- ---------------------------------------------------------------- cross-lane -/

/-- vperm (R151). -/
def permLanes (w : Nat) (a b : BitVec 128) : BitVec 128 :=
  packLanes w ((List.range (128 / w)).map (fun i => if lane b w i < 128 / w then lane a w (lane b w i) else 0))

def execVperm (d a b : VReg) (t : Lane) (s : State) : Host.Outcome State Fault Refusal :=
  issue (simdSpec (.vperm d a b t) 1)
    (fun _ s => .ok { st := setCur s (fun x => setV x d (permLanes t.bits (getV x a) (getV x b))) }) s

/-- vdot4 (R152): the old lane is signed, unsigned under satu; the exact sum is reduced at W = 32. -/
def dot4 (t : ILane) (sat : Sat) (a b d : BitVec 128) : BitVec 128 :=
  packLanes 32 ((List.range 4).map (fun j =>
    let acc : Int := if sat = .satu then lane d 32 j else signedBits (lane d 32 j) 32
    satExact sat 32 ((List.range 4).foldl
      (fun n k => n + laneInt t (lane a 8 (4 * j + k)) * laneInt t (lane b 8 (4 * j + k))) acc)))

def execVdot4 (d a b : VReg) (t : ILane) (sat : Sat) (s : State) : Host.Outcome State Fault Refusal :=
  issue (simdSpec (.vdot4 d a b t sat) 2)
    (fun _ s => .ok { st := setCur s (fun x => setV x d (dot4 t sat (getV x a) (getV x b) (getV x d))) }) s

/-- One stage of a reduction's tree (R153): neighbours combine; each value carries the mask of the input lanes in it. -/
def redStage (f : Nat → Nat → RS → Nat × RS) :
    List (Nat × Nat) → BitVec 32 → Nat → Nat → List (Nat × Nat) × BitVec 32 × Nat × Nat
  | (x, mx) :: (y, my) :: t, l, fl, mk =>
    let (r, rs) := f x y ⟨l, 0⟩
    let (rest, l1, fl1, mk1) := redStage f t rs.lfsr (fl ||| rs.flags) (if rs.flags = 0 then mk else mk ||| (mx ||| my))
    ((r, mx ||| my) :: rest, l1, fl1, mk1)
  | t, l, fl, mk => (t, l, fl, mk)

/-- The tree, stage after stage, until one value is left. Log 37 (DEDUCED). -/
def redTree (f : Nat → Nat → RS → Nat × RS) :
    Nat → List (Nat × Nat) → BitVec 32 → Nat → Nat → List (Nat × Nat) × BitVec 32 × Nat × Nat
  | 0, vs, l, fl, mk => (vs, l, fl, mk)
  | n + 1, vs, l, fl, mk =>
    let (vs1, l1, fl1, mk1) := redStage f vs l fl mk
    redTree f n vs1 l1 fl1 mk1

/-- The effect of a float reduction (R153). Log 37 (DEDUCED). -/
def redFloat (vd va : VReg) (t : FLane) (f : Nat → Nat → RS → Nat × RS) (s : State) : Res Out :=
  let x := cx s
  let vs := (lanes (getV x va) t.bits).zipIdx.map (fun p => (p.1, 2 ^ p.2))
  let (r, l, fl, mk) := redTree f 3 vs x.lfsr 0 0
  .ok { st := setCur s (fun x => { setV x vd (BitVec.ofNat 128 ((r.headD (0, 0)).1)) with lfsr := l })
        flags := fl, mask := mk }

/-- The effect of an integer reduction: lane 0 holds the result, the others are zero. -/
def redInt (vd va : VReg) (t : ILane) (f : Int → Int → Int) (s : State) : Res Out :=
  let ls := (lanes (getV (cx s) va) t.bits).map (laneInt t)
  .ok { st := setCur s (fun x => setV x vd (BitVec.ofNat 128 (wrapInt (ls.tail.foldl f (ls.headD 0)) t.bits))) }

/-- A reduction (R153): an integer combination, or one of two codes of a float format. -/
def reduce (i : Instr) (vd va : VReg) (t : Lane) (fi : Int → Int → Int) (ff : Fmt → Nat → Nat → Nat → RS → Nat × RS)
    (s : State) : Host.Outcome State Fault Refusal :=
  issue (simdSpec i 2)
    (fun _ s => match t with
      | .int k => redInt vd va k fi s
      | .flt k => redFloat vd va k (ff (flaneFmt k) (stRnd (cx s))) s) s

def execVredAdd (d a : VReg) (t : Lane) (s : State) : Host.Outcome State Fault Refusal :=
  reduce (.vredAdd d a t) d a t (· + ·)
    (fun f rnd x y rs => arithF .add f rnd rs (decodeF f x) (decodeF f y) (decodeF f y)) s

def execVredMin (d a : VReg) (t : Lane) (s : State) : Host.Outcome State Fault Refusal :=
  reduce (.vredMin d a t) d a t min (fun f _ x y rs => minMaxF false f f f 0 rs x y) s

def execVredMax (d a : VReg) (t : Lane) (s : State) : Host.Outcome State Fault Refusal :=
  reduce (.vredMax d a t) d a t max (fun f _ x y rs => minMaxF true f f f 0 rs x y) s

def execVsplat (d : VReg) (r : Reg) (t : Lane) (s : State) : Host.Outcome State Fault Refusal :=
  issue { simdSpec (.vsplat d r t) 1 with srcs := [r] }
    (fun ws s => .ok { st := setCur s (fun x =>
      setV x d (packLanes t.bits (List.replicate (128 / t.bits) (lowBits (src ws 0).toNat t.bits)))) }) s

/-- A register with one lane replaced. -/
def putLane (v : BitVec 128) (w i n : Nat) : BitVec 128 := packLanes w ((lanes v w).set i n)

def execVins (d : VReg) (r : Reg) (t : Lane) (i : Fin 16) (s : State) : Host.Outcome State Fault Refusal :=
  issue { simdSpec (.vins d r t i) 1 with srcs := [r] }
    (fun ws s => .ok { st := setCur s (fun x =>
      setV x d (putLane (getV x d) t.bits i.val (lowBits (src ws 0).toNat t.bits))) }) s

/-- A lane as vext gives it (R154): sign-extended for T 0 to 3 only. -/
def extLane (t : Lane) (n : Nat) : Word :=
  match t with
  | .int k => if k.signed then wInt (signedBits n k.bits) else w64 n
  | .flt _ => w64 n

def execVext (a : VReg) (r : Reg) (t : Lane) (i : Fin 16) (s : State) : Host.Outcome State Fault Refusal :=
  issue { simdSpec (.vext a r t i) 1 with dst := some r }
    (fun _ s => result s (extLane t (lane (getV (cx s) a) t.bits i.val))) s

/- ---------------------------------------------------------------- shapes -/

/-- ceil_log2 of a number from 1. -/
def ceilLog2 (n : Nat) : Nat := if n ≤ 1 then 0 else (n - 1).log2 + 1

/-- The product of a list. -/
def product (l : List Nat) : Nat := l.foldl (· * ·) 1

/-- The entry that tset writes (R156). -/
def shapeOf (d : List Nat) : Shape :=
  let k := d.take 4
  { ndim := d.length
    dims := d ++ List.replicate (5 - d.length) 0
    muls := k.map (fun x => ceilDiv (2 ^ (40 + ceilLog2 x)) x) ++ List.replicate (4 - k.length) 0
    shfs := k.map (fun x => 40 + ceilLog2 x) ++ List.replicate (4 - k.length) 0 }

/-- The effect of tset (R156): the sizes stand in `n` registers. -/
def tsetBody (e : Fin 16) (a : Reg) (n : Nat) : Body := fun ws s =>
  if n = 0 then .ok { st := setCur s (fun x => { x with shp := x.shp.set e { x.shp[e] with ndim := 0 } }) }
  else
    let d := ws.map BitVec.toNat
    if 27 < a.val + n - 1 || d.any (fun x => x == 0 || 2 ^ 40 < x) || 2 ^ 40 < product d then .trap illegal11
    else .ok { st := setCur s (fun x => { x with shp := x.shp.set e (shapeOf d) }) }

/-- The registers from `a` upward that tset reads; none beyond g27. -/
def tsetSrcs (a : Reg) (n : Nat) : List Reg :=
  if 27 < a.val + n - 1 then [] else (List.range n).map (regPlus a)

def execTset (e : Fin 16) (a : Reg) (n : Fin 6) (s : State) : Host.Outcome State Fault Refusal :=
  issue { simdSpec (.tset e a n) 16 with srcs := tsetSrcs a n.val } (tsetBody e a n.val) s

/-- The coordinates of an index (R157): division by multiplication for every dimension but the last. -/
def splitIndex (shp : Shape) (k : Nat) : Nat → Nat → List Nat
  | 0, _ => []
  | 1, x => [x]
  | n + 2, x =>
    let q := x * shp.muls.getD k 0 / 2 ^ shp.shfs.getD k 0
    (x - q * shp.dims.getD k 0) :: splitIndex shp (k + 1) (n + 1) q

/-- Coordinates written to consecutive registers from `d`. -/
def putCoords (x : Ctx) (d : Reg) (cs : List Nat) : Ctx :=
  cs.zipIdx.foldl (fun x p => setReg x (regPlus d p.2) (w64 p.1)) x

/-- The effect of tidx (R157). -/
def tidxBody (d : Reg) (e : Fin 16) : Body := fun ws s =>
  let shp := (cx s).shp[e]
  let x := (src ws 0).toNat
  let p := if shp.ndim = 0 then 0 else product (shp.dims.take shp.ndim)
  if 0 < shp.ndim && 27 < d.val + shp.ndim - 1 then .trap illegal11
  else if shp.ndim = 0 || p ≤ x then .trap ⟨cTIDX_RANGE, 0, false, x, p, none⟩
  else .ok { st := setCur s (fun c => putCoords c d (splitIndex shp 0 shp.ndim x)) }

def execTidx (d a : Reg) (e : Fin 16) (s : State) : Host.Outcome State Fault Refusal :=
  issue { simdSpec (.tidx d a e) 4 with srcs := [a] } (tidxBody d e) s

end Sys2Proof.Machine
end

