-- ==== Sys2Proof/Machine/Sync.lean ====
section
/-! DEFINITION. Ports (R126 to R128), barriers (R131 to R133) and rings (R134 to R136). -/

namespace Sys2Proof.Machine

/- ---------------------------------------------------------------- ports -/

/-- The free count a sending core may rely on (R127): what was last reported to it, and never more than the true one. -/
def reportedFree (s : State) (core dst : Nat) (q : Fin 4) : Nat :=
  min (((getCore s core).freeRep.get? (dst * 4 + q.val)).getD 8) (freeIn s dst q)

/-- The word of ppoll (R127). -/
def ppollVal (s : State) (k : Fin 4) : Nat :=
  let b := (cx s).pbind[k]
  let free := if wBits b 63 1 = 1 then reportedFree s (coreOf s.cur) (bindCore b) (bindQueue b) else 15
  ((getCore s (coreOf s.cur)).rq[k]).length + free * 256

def execPpoll (d : Reg) (k : Fin 4) (s : State) : Host.Outcome State Fault Refusal :=
  issue { i := .ppoll d k, wu := some 2, kind := .compute, dst := some d }
    (fun _ s => .ok { st := s, val := some (w64 (ppollVal s k)), unv := true }) s

/-- Every word of a queue discarded (R127): they count as received, and their senders will hear of the room. Log 127 (DESIGN CHOICE). -/
def drainQueue (s : State) (k : Fin 4) : State :=
  let core := coreOf s.cur
  let ws := (getCore s core).rq[k]
  let s1 := modCore s core (fun q => { q with rq := q.rq.set k [] })
  let s2 := setCur s1 (fun x => { x with recv := x.recv.set k (x.recv[k] + BitVec.ofNat 32 ws.length) })
  ws.foldl (fun s w => post { s with freeWires := s.freeWires ++ [(core, coreOf w.src, k.val)] } .freeCountReport
    [core, coreOf w.src, k.val]) s2

def execPdrain (d : Reg) (k : Fin 4) (s : State) : Host.Outcome State Fault Refusal :=
  issue { i := .pdrain d k, wu := some 2, kind := .compute, dst := some d }
    (fun _ s => .ok { st := drainQueue s k, val := some (w64 ((getCore s (coreOf s.cur)).rq[k]).length), unv := true }) s

/-- The first element of a list that a test accepts, removed. -/
def takeFirst {α : Type} (p : α → Bool) : List α → Option (α × List α)
  | [] => none
  | x :: t => if p x then some (x, t) else (takeFirst p t).map (fun r => (r.1, x :: r.2))

/-- R126: the oldest word on its way from a core to a queue arrives there. Names the sending core, the destination core
and the queue. -/
def portWordArrivalEv (s : State) : State :=
  let dst := argN s 1
  let q := chanIx (argN s 2)
  match takeFirst (fun w => w.1 == argN s 0 && w.2.1 == dst && w.2.2.1 == q.val) s.wires with
  | none => s
  | some (w, rest) => modCore { s with wires := rest } dst (fun k => { k with rq := k.rq.set q (k.rq[q] ++ [w.2.2.2]) })

def execPortWordArrival (s : State) : Host.Outcome State Fault Refusal := happens portWordArrivalEv s

/-- R127: a destination's free count reaches a sending core. Names the destination core, the sending core and the queue. -/
def freeCountReportEv (s : State) : State :=
  let dst := argN s 0
  let q := chanIx (argN s 2)
  match takeFirst (fun w => w.1 == dst && w.2.1 == argN s 1 && w.2.2 == q.val) s.freeWires with
  | none => s
  | some (_, rest) => modCore { s with freeWires := rest } (argN s 1)
      (fun k => { k with freeRep := k.freeRep.put (dst * 4 + q.val) (freeIn s dst q) })

def execFreeCountReport (s : State) : Host.Outcome State Fault Refusal := happens freeCountReportEv s

/-- The destination core of a context's stalled port write (R128). -/
def stallDst (x : Ctx) : Option Nat := x.stall.map (fun k => bindCore x.pbind[chanIx k])

/-- R128: a stalled context sends a probe to the core that owns the full queue. Names the context. Log 48 (DEDUCED). -/
def deadlockProbeEv (s : State) : State :=
  let c := argN s 0
  let x := getCtx s c
  match stallDst x with
  | none => s
  | some dst =>
    if issuing x.mode && x.probeAt ≤ dieCounter s c then
      let (n, s1) := fresh (modCtx s c (fun x => { x with probeAt := x.probeAt + Config.probeCycles }))
      post { s1 with probes := s1.probes ++ [⟨n, false, dst, [c], coreOf c⟩] } .deadlockProbeArrival [n]
    else s

def execDeadlockProbe (s : State) : Host.Outcome State Fault Refusal := happens deadlockProbeEv s

/-- The lowest-numbered context of a core with a stalled port write (R128). -/
def stalledAt (s : State) (core : Nat) : Option Nat :=
  (ctxsOf core).find? (fun c => (getCtx s c).stall.isSome && issuing (getCtx s c).mode)

/-- R128: a probe reaches a core: back at its origin it has found a ring and a notice goes out, at a core with a stalled
write it goes on, elsewhere it is dropped. Names the probe. Log 48 (DEDUCED). -/
def deadlockProbeArrivalEv (s : State) : State :=
  match takeFirst (fun p => p.id == argN s 0 && !p.notice) s.probes with
  | none => s
  | some (p, rest) =>
    let s1 := { s with probes := rest }
    if p.at' = p.origin then
      let low := p.path.foldl min (p.path.headD 0)
      post { s1 with probes := s1.probes ++ [{ p with notice := true, at' := low, origin := p.path.headD 0 }] }
        .deadlockNoticeArrival [p.id]
    else
      match stalledAt s p.at' with
      | none => s1
      | some c =>
        if p.path.contains c then s1
        else
          let dst := (stallDst (getCtx s c)).getD 0
          post { s1 with probes := s1.probes ++ [{ p with at' := dst, path := p.path ++ [c] }] } .deadlockProbeArrival [p.id]

def execDeadlockProbeArrival (s : State) : Host.Outcome State Fault Refusal := happens deadlockProbeArrivalEv s

/-- R128: a notice reaches the context it names, which raises PORT_DEADLOCK at its stalled write; a context that is no
longer stalled discards it. Names the notice. -/
def deadlockNoticeArrivalEv (s : State) : State :=
  match takeFirst (fun p => p.id == argN s 0 && p.notice) s.probes with
  | none => s
  | some (p, rest) =>
    let s1 := { s with probes := rest }
    modCtx s1 p.at' (fun x => if x.stall.isSome then { x with notice := some (p.origin, p.path.length) } else x)

def execDeadlockNoticeArrival (s : State) : Host.Outcome State Fault Refusal := happens deadlockNoticeArrivalEv s

/- ---------------------------------------------------------------- objects -/

/-- A slot with KIND 0 (R129). -/
def Obj.free : Obj := ⟨List.replicate 8 0, [], []⟩

/-- The object of a slot of the context's cluster. -/
def objAt (s : State) (n : Nat) : Obj := ((getCluster s (clusterOf s.cur)).objs.get? n).getD Obj.free

/-- The state with an object replaced. -/
def putObj (s : State) (n : Nat) (o : Obj) : State :=
  modCluster s (clusterOf s.cur) (fun k => { k with objs := k.objs.put n o })

/-- KIND of a slot. -/
def objKind (o : Obj) : Nat := o.words.getD 0 0 % 256

/-- An object operation (R129): the slot's address and kind are checked, earlier stores perform (order sc), the object
and the rest of the effect follow; kind 0 stands for any. -/
def withObj (s : State) (a : Word) (kind : Nat) (f : Nat → Obj → State → Res Out) : Res Out :=
  let n := a.toNat
  if !(0xF000000 ≤ n && n < 0xF001000) then .trap (Trap.at cADDRESS n)
  else if n % 64 ≠ 0 then .trap (Trap.at cALIGN n)
  else
    let i := (n - 0xF000000) / 64
    if kind ≠ 0 && objKind (objAt s i) ≠ kind then .trap illegal11
    else f i (objAt s i) (drain s s.cur)

/-- An object operation's end (R331): the context's view goes into the object, and the object's into the context where
the operation merges it; the operation synchronises and is an event of R390. -/
def objDone (s : State) (i : Nat) (o : Obj) (merge : Bool) (v : Option Word) : Res Out :=
  let x := cx s
  let o1 := { o with view := mergeView o.view x.view }
  let s1 := putObj s i o1
  .ok { st := if merge then setCur s1 (fun y => { y with view := mergeView y.view o1.view }) else s1
        val := v, sync := true, unv := true }

/-- The words of a barrier slot (R131). -/
def barWords (phase drops expected member arrived : Nat) : List Nat :=
  [phase % 2 ^ 16 * 2 ^ 32 + drops * 2 ^ 16 + expected * 2 ^ 8 + 1, member * 2 ^ 32 + arrived, 0, 0, 0, 0, 0, 0]

def barPhase (o : Obj) : Nat := bitsAt (o.words.getD 0 0) 32 16
def barDrops (o : Obj) : Nat := bitsAt (o.words.getD 0 0) 16 8
def barExpected (o : Obj) : Nat := bitsAt (o.words.getD 0 0) 8 8
def barMember (o : Obj) : Nat := bitsAt (o.words.getD 1 0) 32 32
def barArrived (o : Obj) : Nat := bitsAt (o.words.getD 1 0) 0 32

/-- The effect of bar.init (R132). -/
def barInitBody : Body := fun ws s =>
  withObj s (src ws 0) 0 fun i o s1 =>
    let g := (src ws 1).toNat
    let member := bitsAt g 32 32
    let expected := bitsAt g 0 8
    if bitsAt g 8 24 ≠ 0 || expected = 0 || 32 < expected || popCount 32 member < expected || !o.waiters.isEmpty then
      .trap illegal11
    else objDone s1 i { o with words := barWords 0 0 expected member 0 } false none

/-- The object after an arrival (R133); where the phase turns, no context waits on it any more. -/
def barArrive (o : Obj) (i : Nat) (drop : Bool) : Obj :=
  let arrived := barArrived o + 2 ^ i
  let member := if drop then barMember o - 2 ^ i else barMember o
  let drops := barDrops o + (if drop then 1 else 0)
  if popCount 32 arrived = barExpected o then
    { o with words := barWords (barPhase o + 1) 0 (barExpected o - drops) member 0, waiters := [] }
  else { o with words := barWords (barPhase o) drops (barExpected o) member arrived }

/-- The effect of bar.arr and bar.drop (R133). -/
def barArrBody (drop : Bool) : Body := fun ws s =>
  withObj s (src ws 0) 1 fun i o s1 =>
    let k := (cx s).barIdx
    if !bitAt (barMember o) k || bitAt (barArrived o) k then
      .trap ⟨cBAR_OVER, (src ws 0).toNat, false, o.words.getD 0 0, o.words.getD 1 0, none⟩
    else objDone s1 i (barArrive o k drop) true (some (w64 (barPhase o)))

/-- A context joins an object's waiters, once (R133, R136). -/
def joinWaiters (s : State) (i : Nat) (o : Obj) : State :=
  if o.waiters.contains s.cur then s else putObj s i { o with waiters := o.waiters ++ [s.cur] }

/-- The effect of bar.wait (R133). -/
def barWaitBody : Body := fun ws s =>
  withObj s (src ws 0) 1 fun i o s1 =>
    if barPhase o ≠ wBits (src ws 1) 0 16 then
      objDone s1 i { o with waiters := o.waiters.filter (· != s.cur) } true (some (w64 (barPhase o)))
    else .wait (joinWaiters s1 i o)

/-- The effect of bar.q (R133). -/
def barQBody : Body := fun ws s =>
  withObj s (src ws 0) 1 fun i o s1 =>
    objDone s1 i o false (some (w64 (barArrived o * 2 ^ 32 + barPhase o * 2 ^ 16 + barDrops o * 2 ^ 8 + barExpected o)))

/-- What issue needs to know of an object instruction (R130). -/
def objSpec (i : Instr) (srcs : List Reg) (dst : Option Reg) : Spec :=
  { i := i, wu := some 2, kind := .compute, srcs := srcs, dst := dst, ecls := 3 }

def execBarInit (a b : Reg) (s : State) : Host.Outcome State Fault Refusal :=
  issue (objSpec (.barInit a b) [a, b] none) barInitBody s

def execBarArr (d a : Reg) (s : State) : Host.Outcome State Fault Refusal :=
  issue (objSpec (.barArr d a) [a] (some d)) (barArrBody false) s

def execBarDrop (d a : Reg) (s : State) : Host.Outcome State Fault Refusal :=
  issue (objSpec (.barDrop d a) [a] (some d)) (barArrBody true) s

def execBarWait (d a b : Reg) (s : State) : Host.Outcome State Fault Refusal :=
  issue (objSpec (.barWait d a b) [a, b] (some d)) barWaitBody s

def execBarQ (d a : Reg) (s : State) : Host.Outcome State Fault Refusal :=
  issue (objSpec (.barQ d a) [a] (some d)) barQBody s

/-- A ring slot's fields (R134). -/
structure Ring where
  base : Nat
  slotsz : Nat
  cap : Nat
  pub : Nat
  rsv : Nat
  pbmap : Nat
  free : Nat
  take : Nat
  deriving DecidableEq, Repr

/-- The fields of a ring slot's words. -/
def ringOf (o : Obj) : Ring :=
  let w0 := o.words.getD 0 0
  let w1 := o.words.getD 1 0
  let w3 := o.words.getD 3 0
  ⟨bitsAt w0 32 32, bitsAt w0 16 16, bitsAt w0 8 8, bitsAt w1 32 32, bitsAt w1 0 32, o.words.getD 2 0,
    bitsAt w3 32 32, bitsAt w3 0 32⟩

/-- The words of a ring slot's fields. -/
def ringWords (r : Ring) : List Nat :=
  [r.base * 2 ^ 32 + r.slotsz * 2 ^ 16 + r.cap * 2 ^ 8 + 2, r.pub % 2 ^ 32 * 2 ^ 32 + r.rsv % 2 ^ 32, r.pbmap,
    r.free % 2 ^ 32 * 2 ^ 32 + r.take % 2 ^ 32, 0, 0, 0, 0]

/-- A difference of indices modulo 2^32 (R134). -/
def idxDiff (a b : Nat) : Nat := (a + 2 ^ 32 - b % 2 ^ 32) % 2 ^ 32

/-- A RING fault (R135, R136). -/
def ringTrap (a operand : Word) : Trap := ⟨cRING, a.toNat, false, operand.toNat, 0, none⟩

/-- The effect of rng.init (R135). -/
def rngInitBody : Body := fun ws s =>
  withObj s (src ws 0) 0 fun i o s1 =>
    let g := (src ws 1).toNat
    let base := bitsAt g 32 32
    let sz := bitsAt g 16 16
    let cap := bitsAt g 8 8
    if g % 256 ≠ 0 || cap < 1 || 64 < cap || sz < 8 || 4096 < sz || sz % 8 ≠ 0 || base % 8 ≠ 0 || base < 0x100000 ||
        0x200000 < base + cap * sz || !o.waiters.isEmpty then
      .trap (ringTrap (src ws 0) (src ws 1))
    else objDone s1 i { o with words := ringWords ⟨base, sz, cap, 0, 0, 0, 0, 0⟩ } false none

/-- The effect of rng.rsv (R136). -/
def rngRsvBody : Body := fun ws s =>
  withObj s (src ws 0) 2 fun i o s1 =>
    let r := ringOf o
    let n := (src ws 1).toNat
    if n = 0 || r.cap < n then .trap (ringTrap (src ws 0) (src ws 1))
    else if r.cap < idxDiff r.rsv r.free + n then objDone s1 i o true (some (w64 (2 ^ 64 - 1)))
    else objDone s1 i { o with words := ringWords { r with rsv := (r.rsv + n) % 2 ^ 32 } } true
      (some (w64 (n * 2 ^ 32 + r.rsv)))

/-- PUB and PBMAP after the published prefix has been covered (R136); at most CAP slots. -/
def coverPub : Nat → Ring → Ring
  | 0, r => r
  | n + 1, r =>
    let k := r.pub % r.cap
    if bitAt r.pbmap k then coverPub n { r with pub := (r.pub + 1) % 2 ^ 32, pbmap := r.pbmap - 2 ^ k } else r

/-- The effect of rng.pub (R136). -/
def rngPubBody : Body := fun ws s =>
  withObj s (src ws 0) 2 fun i o s1 =>
    let r := ringOf o
    let g := (src ws 1).toNat
    let f := bitsAt g 0 32
    let n := bitsAt g 32 7
    let bad := (List.range n).any (fun j =>
      let x := (f + j) % 2 ^ 32
      !(idxDiff x r.pub < idxDiff r.rsv r.pub) || bitAt r.pbmap (x % r.cap))
    if bitsAt g 39 25 ≠ 0 || n = 0 || bad then .trap (ringTrap (src ws 0) (src ws 1))
    else
      let m := (List.range n).foldl (fun m j => if bitAt m ((f + j) % 2 ^ 32 % r.cap) then m
        else m + 2 ^ ((f + j) % 2 ^ 32 % r.cap)) r.pbmap
      objDone s1 i { o with words := ringWords (coverPub 64 { r with pbmap := m }) } false none

/-- The effect of rng.take (R136): takers that wait are served in the order their waits began. -/
def rngTakeBody : Body := fun ws s =>
  withObj s (src ws 0) 2 fun i o s1 =>
    let r := ringOf o
    let g := (src ws 1).toNat
    let t := bitsAt g 0 8
    let m := bitsAt g 8 8
    if bitsAt g 16 48 ≠ 0 || r.cap < t || idxDiff r.take r.free < m then .trap (ringTrap (src ws 0) (src ws 1))
    else if 0 < t && (r.pub = r.take || (o.waiters.headD s.cur) ≠ s.cur) then .wait (joinWaiters s1 i o)
    else
      let k := min t (idxDiff r.pub r.take)
      let r1 := { r with free := (r.free + m) % 2 ^ 32, take := (r.take + k) % 2 ^ 32 }
      objDone s1 i { o with words := ringWords r1, waiters := o.waiters.filter (· != s.cur) } true
        (some (w64 (k * 2 ^ 32 + r.take)))

/-- The effect of rng.q (R136). -/
def rngQBody : Body := fun ws s =>
  withObj s (src ws 0) 2 fun i o s1 =>
    let r := ringOf o
    objDone s1 i o false (some (w64 ((r.cap - idxDiff r.rsv r.free) * 2 ^ 32 + idxDiff r.pub r.take)))

def execRngInit (a b : Reg) (s : State) : Host.Outcome State Fault Refusal :=
  issue (objSpec (.rngInit a b) [a, b] none) rngInitBody s

def execRngRsv (d a b : Reg) (s : State) : Host.Outcome State Fault Refusal :=
  issue (objSpec (.rngRsv d a b) [a, b] (some d)) rngRsvBody s

def execRngPub (a b : Reg) (s : State) : Host.Outcome State Fault Refusal :=
  issue (objSpec (.rngPub a b) [a, b] none) rngPubBody s

def execRngTake (d a b : Reg) (s : State) : Host.Outcome State Fault Refusal :=
  issue (objSpec (.rngTake d a b) [a, b] (some d)) rngTakeBody s

def execRngQ (d a : Reg) (s : State) : Host.Outcome State Fault Refusal :=
  issue (objSpec (.rngQ d a) [a] (some d)) rngQBody s

end Sys2Proof.Machine
end

