-- ==== Sys2Proof/Machine/Token.lean ====
section
/-! DEFINITION. Token instructions, efence and ebusy (R225 to R231), task.join, halt and flock.id (R234 to R236). -/

namespace Sys2Proof.Machine

/-- The effect of tok.exp (R226). -/
def tokExpBody (t : TokId) : Body := fun ws s =>
  let n := (src ws 0).toNat
  let k := (cx s).tok[t]
  if tokMax < n || tokMax < k.sfree + n || tokMax < k.vis + n then .trap (Trap.at cTOK_OVERFLOW 0)
  else .ok { st := modTok s s.cur t (fun k => { k with sfree := k.sfree + n, vis := k.vis + n }) }

def execTokExp (a : Reg) (t : TokId) (s : State) : Host.Outcome State Fault Refusal :=
  issue { i := .tokExp a t, kind := .compute, srcs := [a] } (tokExpBody t) s

/-- The effect of tok.wait.src (R227). -/
def tokWaitSrcBody (t : TokId) : Body := fun _ s =>
  let k := (cx s).tok[t]
  match k.fault with
  | some h => .trap (heldTrap h t.val false)
  | none => if k.sfree = 0 then .ok { st := s } else .wait s

/-- The effect of tok.wait.vis (R227): its retirement joins every operation counted on the token. -/
def tokWaitVisBody (t : TokId) : Body := fun _ s =>
  let k := (cx s).tok[t]
  match k.fault with
  | some h => .trap (heldTrap h t.val false)
  | none => if k.vis = 0 then .ok { st := joinThreads s s.cur (fun _ n => n == t.val) } else .wait s

def execTokWaitSrc (t : TokId) (s : State) : Host.Outcome State Fault Refusal :=
  issue { i := .tokWaitSrc t, kind := .compute } (tokWaitSrcBody t) s

def execTokWaitVis (t : TokId) (s : State) : Host.Outcome State Fault Refusal :=
  issue { i := .tokWaitVis t, kind := .compute } (tokWaitVisBody t) s

/-- Whether a counter lies in the issuing partition's range (R287). -/
def counterOk (s : State) (n : Nat) : Bool :=
  match (partOf s s.cur).bind (getPart? s) with
  | none => false
  | some p => n != 0 && p.cfg.ownsCtr (dieOf s.cur) n

/-- The effect of tok.bind (R228). -/
def tokBindBody (t : TokId) : Body := fun ws s =>
  let g := (src ws 0).toNat
  if g / 2 ^ 16 ≠ 0 || g = 0 || (cx s).tok[t].bind ≠ 0 || !counterOk s g then .trap illegal11
  else .ok { st := fireBind (modTok s s.cur t (fun k => { k with bind := g })) s.cur t, unv := true }

def execTokBind (a : Reg) (t : TokId) (s : State) : Host.Outcome State Fault Refusal :=
  issue { i := .tokBind a t, kind := .compute, srcs := [a] } (tokBindBody t) s

/-- The word of a token (R20). -/
def tokWord (k : Token) : Nat := k.sfree + k.vis * 2 ^ 20 + k.bind * 2 ^ 40 + bit k.fault.isSome * 2 ^ 56

def execTokRd (d : Reg) (t : TokId) (s : State) : Host.Outcome State Fault Refusal :=
  issue { i := .tokRd d t, kind := .compute, dst := some d }
    (fun _ s => .ok { st := s, val := some (w64 (tokWord (cx s).tok[t])), unv := true }) s

/-- The first held fault among the tokens, then among the channels where copy is named (R229), as its trap. -/
def firstHeld (x : Ctx) (copy : Bool) : Option Trap :=
  match (List.finRange 8).findSome? (fun t => (x.tok[t].fault).map (fun h => heldTrap h t.val false)) with
  | some t => some t
  | none => if copy then (List.finRange 4).findSome? (fun k => (x.chfault[k]).map (fun h => heldTrap h 0 true)) else none

/-- The effect of efence (R229); the mask's bits name matrix, vector and copy. -/
def efenceBody (e : Nat) : Body := fun _ s =>
  let c := s.cur
  match firstHeld (cx s) (bitAt e 2) with
  | some t => .trap t
  | none =>
    if (bitAt e 0 && busyMat s c) || (bitAt e 1 && busyVec s c) || (bitAt e 2 && busyCopy s c) then .wait s
    else .ok { st := joinThreads s c (fun g _ => bitAt e g) }

def execEfence (e : Fin 8) (s : State) : Host.Outcome State Fault Refusal :=
  issue { i := .efence e, kind := .compute } (efenceBody e.val) s

/-- The word of ebusy (R229). -/
def ebusyVal (s : State) : Nat :=
  let k := getCore s (coreOf s.cur)
  let run := (List.finRange 4).foldl (fun n i => n + bit (k.chans[i].isSome) * 2 ^ i.val) 0
  bit (busyMat s s.cur) + 2 * bit (busyVec s s.cur) + 4 * bit (busyCopy s s.cur) + run * 16 +
    min 2 (waitingCmds k.mat) * 2 ^ 8 + min 2 (waitingCmds k.vec) * 2 ^ 10 + min 2 k.copyQ.length * 2 ^ 12

def execEbusy (d : Reg) (s : State) : Host.Outcome State Fault Refusal :=
  issue { i := .ebusy d, kind := .compute, dst := some d }
    (fun _ s => .ok { st := s, val := some (w64 (ebusyVal s)), unv := true }) s

/-- What task.join gives (R288). -/
def joinCode (k : Counter) : Nat := if k.abt then 0xFF else if k.lost then 7 else if k.rev then 6 else 0

/-- The effect of task.join (R234, R287, R289): the counter's view is acquired. -/
def taskJoinBody : Body := fun ws s =>
  let g := (src ws 0).toNat
  if g / 2 ^ 16 ≠ 0 || g = 0 || !counterOk s g then .trap illegal11
  else
    let k := getCtr s (dieOf s.cur) g
    if k.value = 0 then
      .ok { st := setCur s (fun x => { x with view := mergeView x.view k.view }), val := some (w64 (joinCode k)) }
    else .wait s

def execTaskJoin (d a : Reg) (s : State) : Host.Outcome State Fault Refusal :=
  issue { i := .taskJoin d a, kind := .compute, srcs := [a], dst := some d } taskJoinBody s

/-- Contexts that retired halt: they end at TASK_COMPLETION (R236). -/
def haltCtxs (s : State) (ms : List Nat) : State :=
  postOnce (ms.foldl (fun s m => modCtx s m (fun x => { x with mode := .halted, halted := true, apx := none })) s) .taskCompletion
    [ms.headD s.cur]

/-- Whether the task's record has the retain-successor flag (R284). -/
def mayRetain (s : State) : Bool :=
  match entOfCtx s s.cur with
  | some e => e.retain
  | none => false

/-- A served order's program halts (R309). -/
def haltServing (s : State) : State :=
  setCur s (fun x => { x with serving := x.serving.map (fun v => { v with halted := true }), mode := .halted })

/-- The effect of halt (R236); in a flock the last member's halt ends every member at once (R235). -/
def haltBody (a : Reg) : Body := fun ws s =>
  if isMem s.cur then .ok { st := postOnce (haltServing s) .pushDelivery [s.cur], sync := true }
  else
    match firstHeld (cx s) true with
    | some t => .trap t
    | none =>
      if a.val ≠ 0 && !mayRetain s then .trap illegal11
      else
        let s1 := setCur s (fun x => { x with successor := if a.val = 0 then 0 else wBits (src ws 0) 0 32 })
        let leader := match entOfCtx s s.cur with | some e => e.members.headD s.cur | none => s.cur
        let ms := flockOf s leader
        let all := if ms.length ≤ 1 then [s.cur] else ms
        .ok { st := if all.getLast? == some s.cur then haltCtxs s1 all else s1, sync := true }

def execHalt (a : Reg) (s : State) : Host.Outcome State Fault Refusal :=
  issue { i := .halt a, noEnd := true, srcs := [a] } (haltBody a) s

/-- The word of flock.id (R235). -/
def flockIdVal (x : Ctx) : Nat := wBits x.flock 4 3 + wBits x.flock 0 4 * 2 ^ 8

def execFlockId (d : Reg) (s : State) : Host.Outcome State Fault Refusal :=
  issue { i := .flockId d, kind := .compute, dst := some d }
    (fun _ s => result s (if wBits (cx s).st 19 1 = 1 then w64 (flockIdVal (cx s)) else 0x100)) s

end Sys2Proof.Machine
end

