-- ==== Sys2Proof/Machine/Dispatch.lean ====
section
/-! DEFINITION. The dispatch: each constructor of Instr to its meaning. -/

namespace Sys2Proof.Machine

/-- What a step of the part does: an instruction issued by the context `cur`, or an event that happens to what `arg`
names. -/
def exec (i : Instr) (s : State) : Host.Outcome State Fault Refusal :=
  match i with
  | .add x1 x2 x3 x4 x5 => Sys2Proof.Machine.execAdd x1 x2 x3 x4 x5 s
  | .sub x1 x2 x3 x4 x5 => Sys2Proof.Machine.execSub x1 x2 x3 x4 x5 s
  | .mul x1 x2 x3 x4 x5 => Sys2Proof.Machine.execMul x1 x2 x3 x4 x5 s
  | .mulh x1 x2 x3 x4 => Sys2Proof.Machine.execMulh x1 x2 x3 x4 s
  | .mulhu x1 x2 x3 x4 => Sys2Proof.Machine.execMulhu x1 x2 x3 x4 s
  | .div x1 x2 x3 x4 => Sys2Proof.Machine.execDiv x1 x2 x3 x4 s
  | .divu x1 x2 x3 x4 => Sys2Proof.Machine.execDivu x1 x2 x3 x4 s
  | .rem x1 x2 x3 x4 => Sys2Proof.Machine.execRem x1 x2 x3 x4 s
  | .remu x1 x2 x3 x4 => Sys2Proof.Machine.execRemu x1 x2 x3 x4 s
  | .and x1 x2 x3 x4 => Sys2Proof.Machine.execAnd x1 x2 x3 x4 s
  | .or x1 x2 x3 x4 => Sys2Proof.Machine.execOr x1 x2 x3 x4 s
  | .xor x1 x2 x3 x4 => Sys2Proof.Machine.execXor x1 x2 x3 x4 s
  | .andn x1 x2 x3 x4 => Sys2Proof.Machine.execAndn x1 x2 x3 x4 s
  | .shl x1 x2 x3 x4 => Sys2Proof.Machine.execShl x1 x2 x3 x4 s
  | .shr x1 x2 x3 x4 => Sys2Proof.Machine.execShr x1 x2 x3 x4 s
  | .sar x1 x2 x3 x4 => Sys2Proof.Machine.execSar x1 x2 x3 x4 s
  | .rot x1 x2 x3 x4 => Sys2Proof.Machine.execRot x1 x2 x3 x4 s
  | .min x1 x2 x3 x4 => Sys2Proof.Machine.execMin x1 x2 x3 x4 s
  | .max x1 x2 x3 x4 => Sys2Proof.Machine.execMax x1 x2 x3 x4 s
  | .minu x1 x2 x3 x4 => Sys2Proof.Machine.execMinu x1 x2 x3 x4 s
  | .maxu x1 x2 x3 x4 => Sys2Proof.Machine.execMaxu x1 x2 x3 x4 s
  | .seq x1 x2 x3 x4 => Sys2Proof.Machine.execSeq x1 x2 x3 x4 s
  | .sne x1 x2 x3 x4 => Sys2Proof.Machine.execSne x1 x2 x3 x4 s
  | .slt x1 x2 x3 x4 => Sys2Proof.Machine.execSlt x1 x2 x3 x4 s
  | .sltu x1 x2 x3 x4 => Sys2Proof.Machine.execSltu x1 x2 x3 x4 s
  | .sel x1 x2 x3 x4 => Sys2Proof.Machine.execSel x1 x2 x3 x4 s
  | .addi x1 x2 x3 => Sys2Proof.Machine.execAddi x1 x2 x3 s
  | .andi x1 x2 x3 => Sys2Proof.Machine.execAndi x1 x2 x3 s
  | .ori x1 x2 x3 => Sys2Proof.Machine.execOri x1 x2 x3 s
  | .xori x1 x2 x3 => Sys2Proof.Machine.execXori x1 x2 x3 s
  | .shli x1 x2 x3 => Sys2Proof.Machine.execShli x1 x2 x3 s
  | .shri x1 x2 x3 => Sys2Proof.Machine.execShri x1 x2 x3 s
  | .sari x1 x2 x3 => Sys2Proof.Machine.execSari x1 x2 x3 s
  | .roti x1 x2 x3 => Sys2Proof.Machine.execRoti x1 x2 x3 s
  | .ldk x1 x2 x3 => Sys2Proof.Machine.execLdk x1 x2 x3 s
  | .mov x1 x2 => Sys2Proof.Machine.execMov x1 x2 s
  | .clz x1 x2 => Sys2Proof.Machine.execClz x1 x2 s
  | .ctz x1 x2 => Sys2Proof.Machine.execCtz x1 x2 s
  | .popc x1 x2 => Sys2Proof.Machine.execPopc x1 x2 s
  | .ext x1 x2 x3 x4 => Sys2Proof.Machine.execExt x1 x2 x3 x4 s
  | .bfx x1 x2 x3 x4 x5 => Sys2Proof.Machine.execBfx x1 x2 x3 x4 x5 s
  | .bfi x1 x2 x3 x4 => Sys2Proof.Machine.execBfi x1 x2 x3 x4 s
  | .beq x1 x2 x3 => Sys2Proof.Machine.execBeq x1 x2 x3 s
  | .bne x1 x2 x3 => Sys2Proof.Machine.execBne x1 x2 x3 s
  | .blt x1 x2 x3 => Sys2Proof.Machine.execBlt x1 x2 x3 s
  | .bge x1 x2 x3 => Sys2Proof.Machine.execBge x1 x2 x3 s
  | .bltu x1 x2 x3 => Sys2Proof.Machine.execBltu x1 x2 x3 s
  | .bgeu x1 x2 x3 => Sys2Proof.Machine.execBgeu x1 x2 x3 s
  | .jmp x1 => Sys2Proof.Machine.execJmp x1 s
  | .call x1 => Sys2Proof.Machine.execCall x1 s
  | .jr x1 => Sys2Proof.Machine.execJr x1 s
  | .callr x1 x2 => Sys2Proof.Machine.execCallr x1 x2 s
  | .loop x1 x2 x3 => Sys2Proof.Machine.execLoop x1 x2 x3 s
  | .ld x1 x2 x3 x4 => Sys2Proof.Machine.execLd x1 x2 x3 x4 s
  | .st x1 x2 x3 x4 => Sys2Proof.Machine.execSt x1 x2 x3 x4 s
  | .ldV x1 x2 x3 => Sys2Proof.Machine.execLdV x1 x2 x3 s
  | .stV x1 x2 x3 => Sys2Proof.Machine.execStV x1 x2 x3 s
  | .amoAdd x1 x2 x3 x4 x5 x6 => Sys2Proof.Machine.execAmoAdd x1 x2 x3 x4 x5 x6 s
  | .amoMin x1 x2 x3 x4 x5 x6 => Sys2Proof.Machine.execAmoMin x1 x2 x3 x4 x5 x6 s
  | .amoMax x1 x2 x3 x4 x5 x6 => Sys2Proof.Machine.execAmoMax x1 x2 x3 x4 x5 x6 s
  | .amoAnd x1 x2 x3 x4 x5 x6 => Sys2Proof.Machine.execAmoAnd x1 x2 x3 x4 x5 x6 s
  | .amoOr x1 x2 x3 x4 x5 x6 => Sys2Proof.Machine.execAmoOr x1 x2 x3 x4 x5 x6 s
  | .amoXor x1 x2 x3 x4 x5 x6 => Sys2Proof.Machine.execAmoXor x1 x2 x3 x4 x5 x6 s
  | .amoSwp x1 x2 x3 x4 x5 x6 => Sys2Proof.Machine.execAmoSwp x1 x2 x3 x4 x5 x6 s
  | .amoCas x1 x2 x3 x4 x5 x6 => Sys2Proof.Machine.execAmoCas x1 x2 x3 x4 x5 x6 s
  | .ldScoped x1 x2 x3 x4 x5 x6 => Sys2Proof.Machine.execLdScoped x1 x2 x3 x4 x5 x6 s
  | .stScoped x1 x2 x3 x4 x5 x6 => Sys2Proof.Machine.execStScoped x1 x2 x3 x4 x5 x6 s
  | .fence x1 x2 => Sys2Proof.Machine.execFence x1 x2 s
  | .barInit x1 x2 => Sys2Proof.Machine.execBarInit x1 x2 s
  | .barArr x1 x2 => Sys2Proof.Machine.execBarArr x1 x2 s
  | .barDrop x1 x2 => Sys2Proof.Machine.execBarDrop x1 x2 s
  | .barWait x1 x2 x3 => Sys2Proof.Machine.execBarWait x1 x2 x3 s
  | .barQ x1 x2 => Sys2Proof.Machine.execBarQ x1 x2 s
  | .rngInit x1 x2 => Sys2Proof.Machine.execRngInit x1 x2 s
  | .rngRsv x1 x2 x3 => Sys2Proof.Machine.execRngRsv x1 x2 x3 s
  | .rngPub x1 x2 => Sys2Proof.Machine.execRngPub x1 x2 s
  | .rngTake x1 x2 x3 => Sys2Proof.Machine.execRngTake x1 x2 x3 s
  | .rngQ x1 x2 => Sys2Proof.Machine.execRngQ x1 x2 s
  | .ppoll x1 x2 => Sys2Proof.Machine.execPpoll x1 x2 s
  | .pdrain x1 x2 => Sys2Proof.Machine.execPdrain x1 x2 s
  | .fld x1 x2 x3 x4 => Sys2Proof.Machine.execFld x1 x2 x3 x4 s
  | .fst x1 x2 x3 x4 => Sys2Proof.Machine.execFst x1 x2 x3 x4 s
  | .push x1 x2 x3 => Sys2Proof.Machine.execPush x1 x2 x3 s
  | .pull x1 x2 x3 => Sys2Proof.Machine.execPull x1 x2 x3 s
  | .vadd x1 x2 x3 x4 x5 => Sys2Proof.Machine.execVadd x1 x2 x3 x4 x5 s
  | .vsub x1 x2 x3 x4 x5 => Sys2Proof.Machine.execVsub x1 x2 x3 x4 x5 s
  | .vmul x1 x2 x3 x4 x5 => Sys2Proof.Machine.execVmul x1 x2 x3 x4 x5 s
  | .vmla x1 x2 x3 x4 x5 => Sys2Proof.Machine.execVmla x1 x2 x3 x4 x5 s
  | .vmin x1 x2 x3 x4 => Sys2Proof.Machine.execVmin x1 x2 x3 x4 s
  | .vmax x1 x2 x3 x4 => Sys2Proof.Machine.execVmax x1 x2 x3 x4 s
  | .vabs x1 x2 x3 x4 => Sys2Proof.Machine.execVabs x1 x2 x3 x4 s
  | .vneg x1 x2 x3 x4 => Sys2Proof.Machine.execVneg x1 x2 x3 x4 s
  | .vand x1 x2 x3 x4 => Sys2Proof.Machine.execVand x1 x2 x3 x4 s
  | .vor x1 x2 x3 x4 => Sys2Proof.Machine.execVor x1 x2 x3 x4 s
  | .vxor x1 x2 x3 x4 => Sys2Proof.Machine.execVxor x1 x2 x3 x4 s
  | .vandn x1 x2 x3 x4 => Sys2Proof.Machine.execVandn x1 x2 x3 x4 s
  | .vshl x1 x2 x3 x4 x5 => Sys2Proof.Machine.execVshl x1 x2 x3 x4 x5 s
  | .vshr x1 x2 x3 x4 => Sys2Proof.Machine.execVshr x1 x2 x3 x4 s
  | .vceq x1 x2 x3 x4 => Sys2Proof.Machine.execVceq x1 x2 x3 x4 s
  | .vclt x1 x2 x3 x4 => Sys2Proof.Machine.execVclt x1 x2 x3 x4 s
  | .vcle x1 x2 x3 x4 => Sys2Proof.Machine.execVcle x1 x2 x3 x4 s
  | .vsel x1 x2 x3 x4 => Sys2Proof.Machine.execVsel x1 x2 x3 x4 s
  | .vfadd x1 x2 x3 x4 x5 => Sys2Proof.Machine.execVfadd x1 x2 x3 x4 x5 s
  | .vfsub x1 x2 x3 x4 x5 => Sys2Proof.Machine.execVfsub x1 x2 x3 x4 x5 s
  | .vfmul x1 x2 x3 x4 x5 => Sys2Proof.Machine.execVfmul x1 x2 x3 x4 x5 s
  | .vfma x1 x2 x3 x4 x5 => Sys2Proof.Machine.execVfma x1 x2 x3 x4 x5 s
  | .vfmin x1 x2 x3 x4 => Sys2Proof.Machine.execVfmin x1 x2 x3 x4 s
  | .vfmax x1 x2 x3 x4 => Sys2Proof.Machine.execVfmax x1 x2 x3 x4 s
  | .vfabs x1 x2 x3 => Sys2Proof.Machine.execVfabs x1 x2 x3 s
  | .vfneg x1 x2 x3 => Sys2Proof.Machine.execVfneg x1 x2 x3 s
  | .vfceq x1 x2 x3 x4 => Sys2Proof.Machine.execVfceq x1 x2 x3 x4 s
  | .vfclt x1 x2 x3 x4 => Sys2Proof.Machine.execVfclt x1 x2 x3 x4 s
  | .vfcle x1 x2 x3 x4 => Sys2Proof.Machine.execVfcle x1 x2 x3 x4 s
  | .vperm x1 x2 x3 x4 => Sys2Proof.Machine.execVperm x1 x2 x3 x4 s
  | .vdot4 x1 x2 x3 x4 x5 => Sys2Proof.Machine.execVdot4 x1 x2 x3 x4 x5 s
  | .vredAdd x1 x2 x3 => Sys2Proof.Machine.execVredAdd x1 x2 x3 s
  | .vredMin x1 x2 x3 => Sys2Proof.Machine.execVredMin x1 x2 x3 s
  | .vredMax x1 x2 x3 => Sys2Proof.Machine.execVredMax x1 x2 x3 s
  | .vsplat x1 x2 x3 => Sys2Proof.Machine.execVsplat x1 x2 x3 s
  | .vins x1 x2 x3 x4 => Sys2Proof.Machine.execVins x1 x2 x3 x4 s
  | .vext x1 x2 x3 x4 => Sys2Proof.Machine.execVext x1 x2 x3 x4 s
  | .tidx x1 x2 x3 => Sys2Proof.Machine.execTidx x1 x2 x3 s
  | .tset x1 x2 x3 => Sys2Proof.Machine.execTset x1 x2 x3 s
  | .fadd x1 x2 x3 x4 x5 => Sys2Proof.Machine.execFadd x1 x2 x3 x4 x5 s
  | .fsub x1 x2 x3 x4 x5 => Sys2Proof.Machine.execFsub x1 x2 x3 x4 x5 s
  | .fmul x1 x2 x3 x4 x5 => Sys2Proof.Machine.execFmul x1 x2 x3 x4 x5 s
  | .fma x1 x2 x3 x4 x5 => Sys2Proof.Machine.execFma x1 x2 x3 x4 x5 s
  | .fdiv x1 x2 x3 x4 x5 => Sys2Proof.Machine.execFdiv x1 x2 x3 x4 x5 s
  | .fsqrt x1 x2 x3 x4 => Sys2Proof.Machine.execFsqrt x1 x2 x3 x4 s
  | .fmin x1 x2 x3 x4 => Sys2Proof.Machine.execFmin x1 x2 x3 x4 s
  | .fmax x1 x2 x3 x4 => Sys2Proof.Machine.execFmax x1 x2 x3 x4 s
  | .fcmp x1 x2 x3 x4 => Sys2Proof.Machine.execFcmp x1 x2 x3 x4 s
  | .cvt x1 x2 x3 x4 x5 x6 => Sys2Proof.Machine.execCvt x1 x2 x3 x4 x5 x6 s
  | .fmtw x1 x2 => Sys2Proof.Machine.execFmtw x1 x2 s
  | .fmtr x1 x2 => Sys2Proof.Machine.execFmtr x1 x2 s
  | .qnt x1 x2 x3 x4 x5 x6 => Sys2Proof.Machine.execQnt x1 x2 x3 x4 x5 x6 s
  | .dqt x1 x2 x3 x4 x5 x6 => Sys2Proof.Machine.execDqt x1 x2 x3 x4 x5 x6 s
  | .amxRd x1 x2 => Sys2Proof.Machine.execAmxRd x1 x2 s
  | .fsin x1 x2 x3 => Sys2Proof.Machine.execFsin x1 x2 x3 s
  | .fcos x1 x2 x3 => Sys2Proof.Machine.execFcos x1 x2 x3 s
  | .fexp2 x1 x2 x3 => Sys2Proof.Machine.execFexp2 x1 x2 x3 s
  | .flog2 x1 x2 x3 => Sys2Proof.Machine.execFlog2 x1 x2 x3 s
  | .frcp x1 x2 x3 => Sys2Proof.Machine.execFrcp x1 x2 x3 s
  | .frsq x1 x2 x3 => Sys2Proof.Machine.execFrsq x1 x2 x3 s
  | .ftanh x1 x2 x3 => Sys2Proof.Machine.execFtanh x1 x2 x3 s
  | .fmtp x1 x2 x3 x4 => Sys2Proof.Machine.execFmtp x1 x2 x3 x4 s
  | .mma x1 x2 x3 x4 => Sys2Proof.Machine.execMma x1 x2 x3 x4 s
  | .mmaL x1 x2 x3 x4 => Sys2Proof.Machine.execMmaL x1 x2 x3 x4 s
  | .mmaZ x1 x2 x3 x4 => Sys2Proof.Machine.execMmaZ x1 x2 x3 x4 s
  | .mmaZL x1 x2 x3 x4 => Sys2Proof.Machine.execMmaZL x1 x2 x3 x4 s
  | .accz x1 x2 => Sys2Proof.Machine.execAccz x1 x2 s
  | .accld x1 x2 x3 x4 => Sys2Proof.Machine.execAccld x1 x2 x3 x4 s
  | .drn x1 x2 x3 x4 x5 x6 => Sys2Proof.Machine.execDrn x1 x2 x3 x4 x5 x6 s
  | .drnT x1 x2 x3 x4 x5 x6 => Sys2Proof.Machine.execDrnT x1 x2 x3 x4 x5 x6 s
  | .psumAdd x1 x2 x3 x4 => Sys2Proof.Machine.execPsumAdd x1 x2 x3 x4 s
  | .mqStat x1 => Sys2Proof.Machine.execMqStat x1 s
  | .mqNan x1 x2 => Sys2Proof.Machine.execMqNan x1 x2 s
  | .mqCap x1 => Sys2Proof.Machine.execMqCap x1 s
  | .vxEw x1 x2 x3 x4 x5 => Sys2Proof.Machine.execVxEw x1 x2 x3 x4 x5 s
  | .vxRed x1 x2 x3 x4 => Sys2Proof.Machine.execVxRed x1 x2 x3 x4 s
  | .vxCvt x1 x2 x3 x4 => Sys2Proof.Machine.execVxCvt x1 x2 x3 x4 s
  | .vxSfn x1 x2 x3 x4 => Sys2Proof.Machine.execVxSfn x1 x2 x3 x4 s
  | .vxGth x1 x2 x3 => Sys2Proof.Machine.execVxGth x1 x2 x3 s
  | .vxSct x1 x2 x3 => Sys2Proof.Machine.execVxSct x1 x2 x3 s
  | .cpyGo x1 x2 x3 => Sys2Proof.Machine.execCpyGo x1 x2 x3 s
  | .taskSpawn x1 x2 x3 => Sys2Proof.Machine.execTaskSpawn x1 x2 x3 s
  | .taskCard x1 x2 x3 => Sys2Proof.Machine.execTaskCard x1 x2 x3 s
  | .tokExp x1 x2 => Sys2Proof.Machine.execTokExp x1 x2 s
  | .tokWaitSrc x1 => Sys2Proof.Machine.execTokWaitSrc x1 s
  | .tokWaitVis x1 => Sys2Proof.Machine.execTokWaitVis x1 s
  | .tokBind x1 x2 => Sys2Proof.Machine.execTokBind x1 x2 s
  | .tokRd x1 x2 => Sys2Proof.Machine.execTokRd x1 x2 s
  | .efence x1 => Sys2Proof.Machine.execEfence x1 s
  | .ebusy x1 => Sys2Proof.Machine.execEbusy x1 s
  | .taskJoin x1 x2 => Sys2Proof.Machine.execTaskJoin x1 x2 s
  | .halt x1 => Sys2Proof.Machine.execHalt x1 s
  | .flockId x1 => Sys2Proof.Machine.execFlockId x1 s
  | .mfc x1 x2 => Sys2Proof.Machine.execMfc x1 x2 s
  | .mtc x1 x2 => Sys2Proof.Machine.execMtc x1 x2 s
  | .mtcSeed x1 => Sys2Proof.Machine.execMtcSeed x1 s
  | .mtcPbind x1 x2 => Sys2Proof.Machine.execMtcPbind x1 x2 s
  | .mtcChhead x1 x2 => Sys2Proof.Machine.execMtcChhead x1 x2 s
  | .mtcSvec x1 => Sys2Proof.Machine.execMtcSvec x1 s
  | .mtcDbgctl x1 => Sys2Proof.Machine.execMtcDbgctl x1 s
  | .trap x1 x2 => Sys2Proof.Machine.execTrap x1 x2 s
  | .sys x1 x2 => Sys2Proof.Machine.execSys x1 x2 s
  | .ebrk x1 x2 => Sys2Proof.Machine.execEbrk x1 x2 s
  | .budx x1 x2 => Sys2Proof.Machine.execBudx x1 x2 s
  | .seal x1 => Sys2Proof.Machine.execSeal x1 s
  | .unseal x1 => Sys2Proof.Machine.execUnseal x1 s
  | .scanGo x1 => Sys2Proof.Machine.execScanGo x1 s
  | .scanQ x1 x2 => Sys2Proof.Machine.execScanQ x1 x2 s
  | .hcallTranslatorRun x1 x2 => Sys2Proof.Machine.execHcallTranslatorRun x1 x2 s
  | .hcallInvalidate x1 x2 => Sys2Proof.Machine.execHcallInvalidate x1 x2 s
  | .hcallLoaderWrite x1 x2 => Sys2Proof.Machine.execHcallLoaderWrite x1 x2 s
  | .hcallPartitionQuery x1 x2 => Sys2Proof.Machine.execHcallPartitionQuery x1 x2 s
  | .hcallWhistleStop x1 x2 => Sys2Proof.Machine.execHcallWhistleStop x1 x2 s
  | .hcallWhistleRelease x1 x2 => Sys2Proof.Machine.execHcallWhistleRelease x1 x2 s
  | .hcallTransitSettings x1 x2 => Sys2Proof.Machine.execHcallTransitSettings x1 x2 s
  | .hcallTransitCounts x1 x2 => Sys2Proof.Machine.execHcallTransitCounts x1 x2 s
  | .hcallArmFault x1 x2 => Sys2Proof.Machine.execHcallArmFault x1 x2 s
  | .hcallTaintQuery x1 x2 => Sys2Proof.Machine.execHcallTaintQuery x1 x2 s
  | .hcallDirectoryEvict x1 x2 => Sys2Proof.Machine.execHcallDirectoryEvict x1 x2 s
  | .hcallFaultQueueTake x1 x2 => Sys2Proof.Machine.execHcallFaultQueueTake x1 x2 s
  | .hcallPageOut x1 x2 => Sys2Proof.Machine.execHcallPageOut x1 x2 s
  | .hcallPageIn x1 x2 => Sys2Proof.Machine.execHcallPageIn x1 x2 s
  | .hcallIdentity x1 x2 => Sys2Proof.Machine.execHcallIdentity x1 x2 s
  | .hcallContributionPost x1 x2 => Sys2Proof.Machine.execHcallContributionPost x1 x2 s
  | .hcallContributionWait x1 x2 => Sys2Proof.Machine.execHcallContributionWait x1 x2 s
  | .phint x1 x2 => Sys2Proof.Machine.execPhint x1 x2 s
  | .apxBeg x1 x2 x3 => Sys2Proof.Machine.execApxBeg x1 x2 x3 s
  | .apxInv x1 => Sys2Proof.Machine.execApxInv x1 s
  | .apxQ x1 x2 => Sys2Proof.Machine.execApxQ x1 x2 s
  | .rplQ x1 => Sys2Proof.Machine.execRplQ x1 s
  | .kAdd x1 x2 x3 => Sys2Proof.Machine.execKAdd x1 x2 x3 s
  | .kSub x1 x2 x3 => Sys2Proof.Machine.execKSub x1 x2 x3 s
  | .kAnd x1 x2 x3 => Sys2Proof.Machine.execKAnd x1 x2 x3 s
  | .kOr x1 x2 x3 => Sys2Proof.Machine.execKOr x1 x2 x3 s
  | .kXor x1 x2 x3 => Sys2Proof.Machine.execKXor x1 x2 x3 s
  | .kShl x1 x2 x3 => Sys2Proof.Machine.execKShl x1 x2 x3 s
  | .kShr x1 x2 x3 => Sys2Proof.Machine.execKShr x1 x2 x3 s
  | .kSar x1 x2 x3 => Sys2Proof.Machine.execKSar x1 x2 x3 s
  | .kMul x1 x2 x3 => Sys2Proof.Machine.execKMul x1 x2 x3 s
  | .kSlt x1 x2 x3 => Sys2Proof.Machine.execKSlt x1 x2 x3 s
  | .kSltu x1 x2 x3 => Sys2Proof.Machine.execKSltu x1 x2 x3 s
  | .kSeq x1 x2 x3 => Sys2Proof.Machine.execKSeq x1 x2 x3 s
  | .kAddi x1 x2 x3 => Sys2Proof.Machine.execKAddi x1 x2 x3 s
  | .kLdk x1 x2 x3 => Sys2Proof.Machine.execKLdk x1 x2 x3 s
  | .kLdD x1 x2 x3 => Sys2Proof.Machine.execKLdD x1 x2 x3 s
  | .kLdW x1 x2 x3 => Sys2Proof.Machine.execKLdW x1 x2 x3 s
  | .kStD x1 x2 x3 => Sys2Proof.Machine.execKStD x1 x2 x3 s
  | .kStW x1 x2 x3 => Sys2Proof.Machine.execKStW x1 x2 x3 s
  | .kBeq x1 x2 x3 => Sys2Proof.Machine.execKBeq x1 x2 x3 s
  | .kBne x1 x2 x3 => Sys2Proof.Machine.execKBne x1 x2 x3 s
  | .kBlt x1 x2 x3 => Sys2Proof.Machine.execKBlt x1 x2 x3 s
  | .kBltu x1 x2 x3 => Sys2Proof.Machine.execKBltu x1 x2 x3 s
  | .kJmp x1 => Sys2Proof.Machine.execKJmp x1 s
  | .kCall x1 => Sys2Proof.Machine.execKCall x1 s
  | .kJr x1 => Sys2Proof.Machine.execKJr x1 s
  | .kEmit x1 x2 => Sys2Proof.Machine.execKEmit x1 x2 s
  | .kEmap x1 x2 => Sys2Proof.Machine.execKEmap x1 x2 s
  | .kLda x1 x2 x3 => Sys2Proof.Machine.execKLda x1 x2 x3 s
  | .kMtr x1 => Sys2Proof.Machine.execKMtr x1 s
  | .kTfail x1 => Sys2Proof.Machine.execKTfail x1 s
  | .ret => Sys2Proof.Machine.execRet s
  | .loopx0 => Sys2Proof.Machine.execLoopx0 s
  | .loopx1 => Sys2Proof.Machine.execLoopx1 s
  | .loopx2 => Sys2Proof.Machine.execLoopx2 s
  | .loopx3 => Sys2Proof.Machine.execLoopx3 s
  | .storePerform => Sys2Proof.Machine.execStorePerform s
  | .portWordArrival => Sys2Proof.Machine.execPortWordArrival s
  | .deadlockProbe => Sys2Proof.Machine.execDeadlockProbe s
  | .deadlockProbeArrival => Sys2Proof.Machine.execDeadlockProbeArrival s
  | .deadlockNoticeArrival => Sys2Proof.Machine.execDeadlockNoticeArrival s
  | .pushDelivery => Sys2Proof.Machine.execPushDelivery s
  | .amxClr0 => Sys2Proof.Machine.execAmxClr0 s
  | .amxClr1 => Sys2Proof.Machine.execAmxClr1 s
  | .amxClr2 => Sys2Proof.Machine.execAmxClr2 s
  | .amxClr3 => Sys2Proof.Machine.execAmxClr3 s
  | .matrixCommandStart => Sys2Proof.Machine.execMatrixCommandStart s
  | .matrixCommandComplete => Sys2Proof.Machine.execMatrixCommandComplete s
  | .vectorCommandStart => Sys2Proof.Machine.execVectorCommandStart s
  | .vectorCommandComplete => Sys2Proof.Machine.execVectorCommandComplete s
  | .copyChainStart => Sys2Proof.Machine.execCopyChainStart s
  | .recordFinishedReading => Sys2Proof.Machine.execRecordFinishedReading s
  | .writePointerAdvance => Sys2Proof.Machine.execWritePointerAdvance s
  | .transferRecordComplete => Sys2Proof.Machine.execTransferRecordComplete s
  | .recordFault => Sys2Proof.Machine.execRecordFault s
  | .lineForward => Sys2Proof.Machine.execLineForward s
  | .translationWalk => Sys2Proof.Machine.execTranslationWalk s
  | .orderAtHead => Sys2Proof.Machine.execOrderAtHead s
  | .lineCommit => Sys2Proof.Machine.execLineCommit s
  | .farLineArrival => Sys2Proof.Machine.execFarLineArrival s
  | .taskCompletion => Sys2Proof.Machine.execTaskCompletion s
  | .tret => Sys2Proof.Machine.execTret s
  | .scanPatternsEnd => Sys2Proof.Machine.execScanPatternsEnd s
  | .hcallReply => Sys2Proof.Machine.execHcallReply s
  | .apxEnd => Sys2Proof.Machine.execApxEnd s
  | .kTend => Sys2Proof.Machine.execKTend s
  | .imagePrepare => Sys2Proof.Machine.execImagePrepare s
  | .translatorRunStart => Sys2Proof.Machine.execTranslatorRunStart s
  | .meter => Sys2Proof.Machine.execMeter s
  | .spawnDecision => Sys2Proof.Machine.execSpawnDecision s
  | .cardDecision => Sys2Proof.Machine.execCardDecision s
  | .budgetExtensionDecision => Sys2Proof.Machine.execBudgetExtensionDecision s
  | .counterSignal => Sys2Proof.Machine.execCounterSignal s
  | .taskPlacement => Sys2Proof.Machine.execTaskPlacement s
  | .chunkDeal => Sys2Proof.Machine.execChunkDeal s
  | .argumentPushComplete => Sys2Proof.Machine.execArgumentPushComplete s
  | .deadlinePass => Sys2Proof.Machine.execDeadlinePass s
  | .dieCounterTick => Sys2Proof.Machine.execDieCounterTick s
  | .revocationTest => Sys2Proof.Machine.execRevocationTest s
  | .preemptionRequestArrival => Sys2Proof.Machine.execPreemptionRequestArrival s
  | .hintWindowExpiry => Sys2Proof.Machine.execHintWindowExpiry s
  | .drainComplete => Sys2Proof.Machine.execDrainComplete s
  | .saveComplete => Sys2Proof.Machine.execSaveComplete s
  | .restoreComplete => Sys2Proof.Machine.execRestoreComplete s
  | .whistleSettled => Sys2Proof.Machine.execWhistleSettled s
  | .programOrderStart => Sys2Proof.Machine.execProgramOrderStart s
  | .programInstructionLimit => Sys2Proof.Machine.execProgramInstructionLimit s
  | .retentionLockAge => Sys2Proof.Machine.execRetentionLockAge s
  | .replayPlacement => Sys2Proof.Machine.execReplayPlacement s
  | .foldScanStart => Sys2Proof.Machine.execFoldScanStart s
  | .observationTake => Sys2Proof.Machine.execObservationTake s
  | .closedFormFit => Sys2Proof.Machine.execClosedFormFit s
  | .sgdStep => Sys2Proof.Machine.execSgdStep s
  | .weightsArrival => Sys2Proof.Machine.execWeightsArrival s
  | .regionReset => Sys2Proof.Machine.execRegionReset s
  | .cacheRemoval => Sys2Proof.Machine.execCacheRemoval s
  | .rotationClusterStart => Sys2Proof.Machine.execRotationClusterStart s
  | .uncorrectable => Sys2Proof.Machine.execUncorrectable s
  | .parityResend => Sys2Proof.Machine.execParityResend s
  | .laneTest => Sys2Proof.Machine.execLaneTest s
  | .flitReceive => Sys2Proof.Machine.execFlitReceive s
  | .contributionLand => Sys2Proof.Machine.execContributionLand s
  | .collectiveExpiry => Sys2Proof.Machine.execCollectiveExpiry s
  | .doorbellSubmit => Sys2Proof.Machine.execDoorbellSubmit s
  | .commandTake => Sys2Proof.Machine.execCommandTake s
  | .launchDecision => Sys2Proof.Machine.execLaunchDecision s
  | .doorbellRelease => Sys2Proof.Machine.execDoorbellRelease s
  | .resetDoorbell => Sys2Proof.Machine.execResetDoorbell s
  | .completionWrite => Sys2Proof.Machine.execCompletionWrite s
  | .ecntStaticShare => Sys2Proof.Machine.execEcntStaticShare s
  | .islandWake => Sys2Proof.Machine.execIslandWake s
  | .islandGate => Sys2Proof.Machine.execIslandGate s
  | .pageIn => Sys2Proof.Machine.execPageIn s
  | .migrationPrecopyRound => Sys2Proof.Machine.execMigrationPrecopyRound s
  | .migrationRelease => Sys2Proof.Machine.execMigrationRelease s
  | .supervisorStart => Sys2Proof.Machine.execSupervisorStart s
  | .partitionCreate => Sys2Proof.Machine.execPartitionCreate s
  | .powerOn => Sys2Proof.Machine.execPowerOn s
  | .illegalWord => Sys2Proof.Machine.execIllegalWord s
  | .fetchFault => Sys2Proof.Machine.execFetchFault s
  | .hcall => Sys2Proof.Machine.execHcall s
  | .observationArrival => Sys2Proof.Machine.execObservationArrival s
  | .hostWrite => Sys2Proof.Machine.execHostWrite s
  | .freeCountReport => Sys2Proof.Machine.execFreeCountReport s
  | .partitionRelease => Sys2Proof.Machine.execPartitionRelease s
  | .launchQueueCreate => Sys2Proof.Machine.execLaunchQueueCreate s
  | .recoveryBootImage => Sys2Proof.Machine.execRecoveryBootImage s

end Sys2Proof.Machine
end

