-- ==== Sys2Proof/Machine/Sched.lean ====
section
/-! DEFINITION. Who moves next (R296, R336): a core issues from the context with the earliest deadline that can, an event
happens, or a die counter advances; and the placing of one instruction where the part fetches next. -/

namespace Sys2Proof.Machine

/-- Whether a row of the table is an event: it has no encoding, and the part does it without an instruction. Log 80 (DESIGN CHOICE). -/
def isEvent (i : Instr) : Bool :=
  match i with
  | .storePerform | .portWordArrival | .deadlockProbe | .deadlockProbeArrival | .deadlockNoticeArrival | .pushDelivery
  | .matrixCommandStart | .matrixCommandComplete | .vectorCommandStart | .vectorCommandComplete | .copyChainStart
  | .recordFinishedReading | .writePointerAdvance | .transferRecordComplete | .recordFault | .lineForward | .translationWalk
  | .orderAtHead | .lineCommit | .farLineArrival | .taskCompletion | .scanPatternsEnd | .hcallReply | .imagePrepare
  | .translatorRunStart | .meter | .spawnDecision | .cardDecision | .budgetExtensionDecision | .counterSignal | .taskPlacement
  | .chunkDeal | .argumentPushComplete | .deadlinePass | .dieCounterTick | .revocationTest | .preemptionRequestArrival
  | .hintWindowExpiry | .drainComplete | .saveComplete | .restoreComplete | .whistleSettled | .programOrderStart
  | .programInstructionLimit | .retentionLockAge | .replayPlacement | .foldScanStart | .observationTake | .closedFormFit
  | .sgdStep | .weightsArrival | .regionReset | .cacheRemoval | .rotationClusterStart | .uncorrectable | .parityResend
  | .laneTest | .flitReceive | .contributionLand | .collectiveExpiry | .doorbellSubmit | .commandTake | .launchDecision
  | .doorbellRelease | .resetDoorbell | .completionWrite | .ecntStaticShare | .islandWake | .islandGate | .pageIn
  | .migrationPrecopyRound | .migrationRelease | .supervisorStart | .partitionCreate | .powerOn | .observationArrival
  | .hostWrite | .freeCountReport | .partitionRelease | .launchQueueCreate | .recoveryBootImage => true
  | _ => false

/-- The core a context key belongs to; memory cores are numbered after the compute cores. -/
def groupOf (c : Nat) : Nat := if isMem c then memBase + mcoreOf c else coreOf c

/-- Whether a context may issue (R296): it holds a task or an order, no stop has come into effect, it does not follow a
flock's leader, and a served program has not reached its limit. Log 5 (DEDUCED). -/
def canIssue (x : Ctx) : Bool :=
  issuing x.mode && !x.follower &&
    (match x.serving with
     | some v => !(programLimit v ≤ v.retired) && v.fault.isNone
     | none => true)

/-- One context inserted in the order of issue: earliest DEADLINE first, then the lower number (R296). -/
def insertByDeadline (p : Nat × Nat) : List (Nat × Nat) → List (Nat × Nat)
  | [] => [p]
  | q :: t => if p.1 < q.1 || (p.1 == q.1 && p.2 < q.2) then p :: q :: t else q :: insertByDeadline p t

/-- The contexts of a core that may issue, in their order. Log 5 (DEDUCED). -/
def issueOrder (s : State) (group : Nat) : List Nat :=
  let cs := s.ctxs.filter (fun p => groupOf p.1 == group && canIssue p.2)
  ((cs.map (fun p => (p.2.deadline.toNat, p.1))).foldr insertByDeadline []).map Prod.snd

/-- The contexts of its core that come before one in the order of issue, and it: none where it may not issue (R296).
Log 4 (DESIGN CHOICE). -/
def issueUpTo (s : State) (c : Nat) : List Nat :=
  if canIssue (getCtx s c) then (issueOrder s (groupOf c)).takeWhile (· != c) ++ [c] else []

/-- A context issues the instruction at its pc. -/
def runCtx (s : State) (c : Nat) : Host.Outcome State Fault Refusal :=
  let (s1, i) := fetchInstr { s with cur := c } c
  exec i s1

/-- The first context of a list whose instruction does not wait issues (R88, R296). Log 4 (DESIGN CHOICE), 5 (DEDUCED). -/
def coreTurn : List Nat → State → Host.Outcome State Fault Refusal
  | [], s => .next s
  | c :: cs, s =>
    match runCtx s c with
    | .next s1 => if (getCtx s1 c).waiting then coreTurn cs s1 else .next s1
    | o => o

/-- An event happens to what `a` names. Log 4 (DESIGN CHOICE). -/
def eventTurn (i : Instr) (a : EvArg) (s : State) : Host.Outcome State Fault Refusal :=
  if isEvent i then exec i { s with arg := a } else .next s

/-- The next core, in ascending order and then from the first, with a context that may issue: its first context. Log 4 (DESIGN CHOICE). -/
def nextCtx (s : State) : Nat :=
  let cs := (s.ctxs.filter (fun p => canIssue p.2)).map Prod.fst
  match cs.find? (fun c => groupOf s.cur < groupOf c) with
  | some c => c
  | none => cs.headD s.cur

/-- The oldest event that is due. -/
def agendaTurn (s : State) : Host.Outcome State Fault Refusal :=
  match s.agenda with
  | [] => .next s
  | (i, a) :: t => eventTurn i a { s with agenda := t }

/-- One step of the part: a turn chosen from outside, a named context's only while none of its core that comes before it can issue
(R296), or in rotation a core's turn, the oldest event that is due, and one cycle of a die counter.
Log 3 (DESIGN CHOICE), 4 (DESIGN CHOICE). -/
def takeTurn (s : State) : Host.Outcome State Fault Refusal :=
  match s.sched with
  | .core g :: t => coreTurn (issueOrder s g) { s with sched := t }
  | .ctx c :: t => coreTurn (issueUpTo s c) { s with sched := t }
  | .event i a :: t => eventTurn i a { s with sched := t }
  | [] =>
    if s.phase = 0 then coreTurn (issueOrder s (groupOf s.cur)) { s with phase := 1 }
    else if s.phase = 1 then agendaTurn { s with phase := 2 }
    else eventTurn .dieCounterTick (EvArg.of [dieOf s.cur]) { s with phase := 0, cur := nextCtx s }

/-- The far address at which a placed instruction lies. -/
def placePc : Nat := 0x40000000

/-- Page tables in the reserved device memory of die 0 that map one page of code for a placed instruction (R312). Log 3 (DESIGN CHOICE). -/
def placeTables (m : Memory) : Memory :=
  let m1 := memWrite m 0x10000 (leBytes 8 0x11001)
  let m2 := memWrite m1 (0x11000 + 8) (leBytes 8 0x12001)
  let m3 := memWrite m2 0x12000 (leBytes 8 0x13001)
  memWrite m3 0x13000 (leBytes 8 0x2011B)

/-- The partition whose task a placed instruction belongs to. Log 3 (DESIGN CHOICE). -/
def placePart : PartSt :=
  { cfg := ⟨[0], 7, 8, 1, 16, 16, [(1, 0x10000)], 0, 0, true, 4096, [], [], [], (0, 0), (0, 0)⟩, minG := [], loaders := [], svec := 0, dbgctl := 0
    faultQ := [], lost := [], dir := [], thresh := 0, conf := false, frac := 0, unverified := 0, mismatch := 0
    confirmed := 0, whistled := false, spared := none, settled := false, landed := [], expired := [], supImage := []
    supPid := 1, migRound := 0, migDirty := [], stopClk := [], migImage := [], xtsKey := 0, pages := [], posted := [] }

/-- The context a word is placed on: a memory core's for majors 0x1B and 0x1C, else the first compute context. Log 3 (DESIGN CHOICE). -/
def placeCtx (w : Nat) : Nat := if bitsAt w 26 6 = 0x1B || bitsAt w 26 6 = 0x1C then memBase else 0

/-- A translator run for the majors that only root mode executes. Log 3 (DESIGN CHOICE). -/
def placeRoot (w : Nat) : Option RootRun :=
  if 0x3C ≤ bitsAt w 26 6 && bitsAt w 26 6 ≤ 0x3E then
    some ⟨0, 1000, 0, placePc, 4096, placePc, 4096, 1024, placePc, 4096, placePc, [], []⟩
  else none

/-- The order a placed memory-core instruction serves. Log 3 (DESIGN CHOICE). -/
def placeServing (w : Nat) : Option Serving :=
  if isMem (placeCtx w) then some ⟨0, 0, 0, 1, 0, false, 0, 0, 4096, 0, [], [], false, none⟩ else none

/-- A running task of partition 0 on the context, its pc at the placed instruction. Log 3 (DESIGN CHOICE). -/
def placeTask (w : Nat) (x : Ctx) : Ctx :=
  { x with
    pc := pc48 placePc, pid := 1, mode := .running, waiting := false, follower := false, run := 0
    budget := 0x7FFFFFFFFFFFFFFF, lwin := 0x0003000000000000
    root := placeRoot w, serving := placeServing w
    st := if (placeRoot w).isSome then 4 else x.st }

/-- The state with one instruction where the next step fetches: the load of a program into partition 0, a task that
starts at it, and that task's turn. Log 3 (DESIGN CHOICE). -/
def placeWord (s : State) (w : Nat) : State :=
  let c := placeCtx w
  let s1 := { s with
    mem := memWrite (placeTables s.mem) 0x20000 (leBytes 4 w)
    parts := s.parts.put 0 placePart
    sched := [.ctx c] }
  let s2 := modCluster s1 0 (fun k => { k with part := some 0, icache := [], gated := false })
  let s3 := modDie (modCore s2 0 (fun k => { k with icache := [] })) 0 (fun d => { d with tlb := [] })
  modCtx s3 c (placeTask w)

end Sys2Proof.Machine
end

