-- ==== Sys2Proof/Machine/Step.lean ====
section
/-! DEFINITION. One step of the part. -/

namespace Sys2Proof.Machine

/-- One step: who moves next moves. Log 3 (DESIGN CHOICE), 4 (DESIGN CHOICE), 105 (DEDUCED). -/
def step (s : State) : Host.Outcome State Fault Refusal := takeTurn s

/-- The state with an instruction of the table placed where the next step fetches; every instruction is one 32-bit word
(R67). Log 3 (DESIGN CHOICE). -/
def State.withFetchWord (s : State) (_nbits w : Nat) : State := placeWord s w

end Sys2Proof.Machine
end

