-- ==== Sys2Proof/Certificates/Slice0/Terms.lean ====
section
/-! DEFINITION. The words that the statements are made of: what retirement leaves of a context, when nothing else than its own
effect decides what an instruction does, and the state that its effect leaves. -/

namespace Sys2Proof.Claims

open Sys2Proof.Machine

/-- The context whose turn it is. -/
abbrev me (s : State) : Ctx := getCtx s s.cur

/-- Energy counted in pJ, which stops at its largest value (R279). -/
def energyPlus (e : BitVec 48) (pj : Nat) : BitVec 48 := BitVec.ofNat 48 (min (2 ^ 48 - 1) (e.toNat + pj))

/-- What every retirement changes (R89): work units and energy are charged in a compute context; a translator run or a served
program counts one instruction; the context no longer waits. -/
def charged (c wu pj : Nat) (x : Ctx) : Ctx :=
  { x with
    charge := if isMem c then x.charge else x.charge + w64 wu
    ecnt := if isMem c then x.ecnt else energyPlus x.ecnt pj
    root := x.root.map (fun r => { r with count := r.count + 1 })
    serving := x.serving.map (fun v => { v with retired := v.retired + 1 })
    waiting := false
    stall := none
    notice := none }

/-- A retirement whose next word is at `next`: the end-of-body rule goes first (R89, R109). -/
def retiredTo (c wu pj : Nat) (next : BitVec 48) (x : Ctx) : Ctx :=
  let l := loopRule x x.pc.toNat [3, 2, 1, 0] x.lc
  { charged c wu pj x with
    lc := l.1
    pc := match l.2 with | some t => pc48 t | none => next }

/-- A retirement that goes on to the next word, but for the end-of-body rule (R89, R109). -/
def retired (c wu pj : Nat) (x : Ctx) : Ctx := retiredTo c wu pj (x.pc + 4) x

/-- A retirement of an instruction that may not end a loop body, to a target (R89, R110). -/
def jumped (c wu : Nat) (t : BitVec 48) (x : Ctx) : Ctx := { charged c wu 4 x with pc := t }

/-- A retirement of an instruction that takes formats: the prefix is used up, and the sticky flags that its effect set are joined
to ST (R30, R161). -/
def retiredFmt (c wu pj flags : Nat) (x : Ctx) : Ctx :=
  { retired c wu pj x with
    st := w64 (putBits x.st.toNat 3 1 0 ||| flags * 128)
    pfx := 0 }

/-- The conditions under which an instruction of the context that has the turn does its own effect: the context is in no flock;
its run or program has not reached its limit; and the work units fit its BUDGET (R86, R262, R299, R309, R349). -/
structure Free (s : State) (wu : Nat) : Prop where
  alone : flockOf s s.cur = []
  meter : meterFull (me s) = false
  budget : isMem s.cur = true ∨ (me s).charge.toNat + wu ≤ (me s).budget.toNat
  paid : owes (me s) = false
  limit : ∀ v, (me s).serving = some v → v.retired + 1 < programLimit v

/-- The same for an instruction that takes no formats: no prefix is pending (R86 step 10). -/
structure Ready (s : State) (wu : Nat) : Prop extends Free s wu where
  plain : wBits (me s).st 3 1 = 0

/-- The same for an instruction that takes formats and executes on compute cores only (R87); a prefix may be pending. -/
structure FreeCompute (s : State) (wu : Nat) : Prop extends Free s wu where
  compute : isMem s.cur = false

/-- The conditions in a compute context with no prefix pending. -/
structure ReadyCompute (s : State) (wu : Nat) : Prop extends Ready s wu where
  compute : isMem s.cur = false

/-- A register field that names no port (R15). -/
abbrev notPort (r : Reg) : Prop := r.val < 28

/-- The value of a register field of the context that has the turn. -/
abbrev val (s : State) (r : Reg) : Word := getReg (me s) r

/-- What an effect that leaves the state `s1` and no result leaves in the end: the instruction of context `c` retires. -/
def did (s1 : State) (c wu pj : Nat) : State := modCtx s1 c (retired c wu pj)

/-- The same with a result for a register. -/
def wrote (s1 : State) (c wu pj : Nat) (d : Reg) (v : Word) : State := modCtx s1 c (fun x => retired c wu pj (setReg x d v))

/- ---------------------------------------------------------------- integers of a width (R93) -/

/-- The low bits of a register that an operation of a width reads. -/
abbrev low (wd : Width) (a : Word) : BitVec wd.bits := a.setWidth wd.bits

/-- A result of a width as it is written: sign-extended to 64 bits. -/
abbrev written {n : Nat} (r : BitVec n) : Word := r.signExtend 64

/-- A shift or rotate count: the low bits, modulo the width. -/
abbrev count (wd : Width) (b : Word) : Nat := (low wd b).toNat % wd.bits

/-- A signed result held within the width (R95). -/
def heldSigned (wd : Width) (v : Int) : Word :=
  written (BitVec.ofInt wd.bits (max (-(2 ^ (wd.bits - 1))) (min (2 ^ (wd.bits - 1) - 1) v)))

/-- An unsigned result held within the width (R95). -/
def heldUnsigned (wd : Width) (v : Int) : Word := written (BitVec.ofInt wd.bits (max 0 (min (2 ^ wd.bits - 1) v)))

/-- Sums, differences and products under a saturation mode (R95): `f` wraps, `g` is exact. -/
def saturated (sat : Sat) (wd : Width) (a b : Word) (f : BitVec wd.bits → BitVec wd.bits → BitVec wd.bits)
    (g : Int → Int → Int) : Word :=
  match sat with
  | .wrap => written (f (low wd a) (low wd b))
  | .sats => heldSigned wd (g (low wd a).toInt (low wd b).toInt)
  | .satu => heldUnsigned wd (g (low wd a).toNat (low wd b).toNat)

/-- A truth value as a register (R94). -/
def truth (p : Prop) [Decidable p] : Word := if p then 1 else 0

/-- The instructions that combine two registers into one, by R92 to R97 and R101: destination, sources, work units, and the
result. -/
def twoRegisters : Instr → Option (Reg × Reg × Reg × Nat × (Word → Word → Word))
  | .add d a b sat wd => some (d, a, b, 1, fun x y => saturated sat wd x y (· + ·) (· + ·))
  | .sub d a b sat wd => some (d, a, b, 1, fun x y => saturated sat wd x y (· - ·) (· - ·))
  | .mul d a b sat wd => some (d, a, b, 2, fun x y => saturated sat wd x y (· * ·) (· * ·))
  | .mulh d a b wd => some (d, a, b, 2, fun x y =>
      written (BitVec.ofInt wd.bits ((low wd x).toInt * (low wd y).toInt / 2 ^ wd.bits)))
  | .mulhu d a b wd => some (d, a, b, 2, fun x y =>
      written (BitVec.ofNat wd.bits ((low wd x).toNat * (low wd y).toNat / 2 ^ wd.bits)))
  | .div d a b wd => some (d, a, b, 16, fun x y =>
      if low wd y = 0 then BitVec.allOnes 64 else written ((low wd x).sdiv (low wd y)))
  | .divu d a b wd => some (d, a, b, 16, fun x y =>
      if low wd y = 0 then BitVec.allOnes 64 else written (low wd x / low wd y))
  | .rem d a b wd => some (d, a, b, 16, fun x y =>
      if low wd y = 0 then written (low wd x) else written ((low wd x).srem (low wd y)))
  | .remu d a b wd => some (d, a, b, 16, fun x y =>
      if low wd y = 0 then written (low wd x) else written (low wd x % low wd y))
  | .and d a b wd => some (d, a, b, 1, fun x y => written (low wd x &&& low wd y))
  | .or d a b wd => some (d, a, b, 1, fun x y => written (low wd x ||| low wd y))
  | .xor d a b wd => some (d, a, b, 1, fun x y => written (low wd x ^^^ low wd y))
  | .andn d a b wd => some (d, a, b, 1, fun x y => written (low wd x &&& ~~~ low wd y))
  | .shl d a b wd => some (d, a, b, 1, fun x y => written (low wd x <<< count wd y))
  | .shr d a b wd => some (d, a, b, 1, fun x y => written (low wd x >>> count wd y))
  | .sar d a b wd => some (d, a, b, 1, fun x y => written ((low wd x).sshiftRight (count wd y)))
  | .rot d a b wd => some (d, a, b, 1, fun x y => written ((low wd x).rotateRight (count wd y)))
  | .min d a b wd => some (d, a, b, 1, fun x y => written (if (low wd x).sle (low wd y) then low wd x else low wd y))
  | .max d a b wd => some (d, a, b, 1, fun x y => written (if (low wd x).sle (low wd y) then low wd y else low wd x))
  | .minu d a b wd => some (d, a, b, 1, fun x y => written (if low wd x ≤ low wd y then low wd x else low wd y))
  | .maxu d a b wd => some (d, a, b, 1, fun x y => written (if low wd x ≤ low wd y then low wd y else low wd x))
  | .seq d a b wd => some (d, a, b, 1, fun x y => truth (low wd x = low wd y))
  | .sne d a b wd => some (d, a, b, 1, fun x y => truth (low wd x ≠ low wd y))
  | .slt d a b wd => some (d, a, b, 1, fun x y => truth ((low wd x).slt (low wd y) = true))
  | .sltu d a b wd => some (d, a, b, 1, fun x y => truth (low wd x < low wd y))
  | .bfi d a l p => some (d, a, d, 1, fun x y =>
      let mask : Word := BitVec.ofNat 64 (2 ^ (l.val + 1) - 1)
      (y &&& ~~~ (mask <<< p.val)) ||| ((x &&& mask) <<< p.val))
  | _ => none

/-- The instructions that make one register of one register and an immediate, by R98 to R101: destination, source, and the
result. -/
def oneRegister : Instr → Option (Reg × Reg × (Word → Word))
  | .addi d a i => some (d, a, fun x => x + (BitVec.ofNat 16 i.val).signExtend 64)
  | .andi d a i => some (d, a, fun x => x &&& (BitVec.ofNat 16 i.val).setWidth 64)
  | .ori d a i => some (d, a, fun x => x ||| (BitVec.ofNat 16 i.val).setWidth 64)
  | .xori d a i => some (d, a, fun x => x ^^^ (BitVec.ofNat 16 i.val).setWidth 64)
  | .shli d a n => some (d, a, fun x => x <<< n.val)
  | .shri d a n => some (d, a, fun x => x >>> n.val)
  | .sari d a n => some (d, a, fun x => x.sshiftRight n.val)
  | .roti d a n => some (d, a, fun x => x.rotateRight n.val)
  | .ldk d k c => some (d, d, fun x =>
      (x &&& ~~~ ((0xFFFF : Word) <<< (16 * k.val))) ||| (BitVec.ofNat 64 c.val <<< (16 * k.val)))
  | .mov d a => some (d, a, fun x => x)
  | .clz d a => some (d, a, fun x => BitVec.ofNat 64 (((List.range 64).map (fun i => x.getMsbD i)).takeWhile (· == false)).length)
  | .ctz d a => some (d, a, fun x => BitVec.ofNat 64 (((List.range 64).map (fun i => x.getLsbD i)).takeWhile (· == false)).length)
  | .popc d a => some (d, a, fun x => BitVec.ofNat 64 (((List.range 64).filter (fun i => x.getLsbD i)).length))
  | .ext d a z wd => some (d, a, fun x => if z then (low wd x).setWidth 64 else written (low wd x))
  | .bfx d a l sg p => some (d, a, fun x =>
      if sg then written (x.extractLsb' p.val (l.val + 1)) else (x.extractLsb' p.val (l.val + 1)).setWidth 64)
  | _ => none

/-- The root instructions that combine two registers, at width d (R255). -/
def rootTwoRegisters : Instr → Option (KReg × KReg × KReg × (Word → Word → Word))
  | .kAdd d a b => some (d, a, b, fun x y => x + y)
  | .kSub d a b => some (d, a, b, fun x y => x - y)
  | .kAnd d a b => some (d, a, b, fun x y => x &&& y)
  | .kOr d a b => some (d, a, b, fun x y => x ||| y)
  | .kXor d a b => some (d, a, b, fun x y => x ^^^ y)
  | .kShl d a b => some (d, a, b, fun x y => x <<< (y.toNat % 64))
  | .kShr d a b => some (d, a, b, fun x y => x >>> (y.toNat % 64))
  | .kSar d a b => some (d, a, b, fun x y => x.sshiftRight (y.toNat % 64))
  | .kMul d a b => some (d, a, b, fun x y => x * y)
  | .kSlt d a b => some (d, a, b, fun x y => truth (x.slt y = true))
  | .kSltu d a b => some (d, a, b, fun x y => truth (x < y))
  | .kSeq d a b => some (d, a, b, fun x y => truth (x = y))
  | _ => none

/- ---------------------------------------------------------------- control flow -/

/-- The target of a 16-bit displacement in words (R69, R102). -/
def target16 (pc : BitVec 48) (d : Fin 65536) : BitVec 48 := pc + (BitVec.ofNat 16 d.val).signExtend 48 * 4

/-- The target of a 26-bit displacement in words (R69, R103). -/
def target26 (pc : BitVec 48) (d : Fin 67108864) : BitVec 48 := pc + (BitVec.ofNat 26 d.val).signExtend 48 * 4

/-- The conditional branches: sources, displacement and comparison (R102, R255). -/
def branches : Instr → Option (Reg × Reg × Fin 65536 × (Word → Word → Bool))
  | .beq a b d => some (a, b, d, fun x y => x == y)
  | .bne a b d => some (a, b, d, fun x y => x != y)
  | .blt a b d => some (a, b, d, fun x y => x.slt y)
  | .bge a b d => some (a, b, d, fun x y => y.sle x)
  | .bltu a b d => some (a, b, d, fun x y => x.ult y)
  | .bgeu a b d => some (a, b, d, fun x y => y.ule x)
  | .kBeq a b d => some (kreg a, kreg b, d, fun x y => x == y)
  | .kBne a b d => some (kreg a, kreg b, d, fun x y => x != y)
  | .kBlt a b d => some (kreg a, kreg b, d, fun x y => x.slt y)
  | .kBltu a b d => some (kreg a, kreg b, d, fun x y => x.ult y)
  | _ => none

/-- A target that a context may go to: any, but in root mode one in the translator section (R260). -/
def inReach (s : State) (t : BitVec 48) : Prop := ∀ r, (me s).root = some r → inSection r t.toNat = true

/-- A register value that is a target (R104). -/
def goodTarget (v : Word) : Prop := v.toNat < 2 ^ 48 ∧ v.toNat % 4 = 0

/-- The jumps whose target is a register, and which (R103, R104, R255). -/
def registerJump : Instr → Option Reg
  | .jr a => some a
  | .callr _ a => some a
  | .ret => some 1
  | .kJr a => some (kreg a)
  | _ => none

/-- The branches, jumps, calls and returns, which may not end the body of a loop (R110). -/
def transfers (i : Instr) : Bool :=
  (branches i).isSome || (registerJump i).isSome || (match i with
    | .jmp _ => true
    | .call _ => true
    | .kJmp _ => true
    | .kCall _ => true
    | _ => false)

/-- The address of the next word, as a call links it (R103). -/
def link (s : State) : Word := ((me s).pc + 4).setWidth 64

/-- The level at which a loopx ends loops (R111). -/
def loopxLevel : Instr → Option Nat
  | .loopx0 => some 0
  | .loopx1 => some 1
  | .loopx2 => some 2
  | .loopx3 => some 3
  | _ => none

/- ---------------------------------------------------------------- near memory -/

/-- A 13-bit offset in units of `n` bytes, sign-extended (R69, R115). -/
def wordOff (o : Fin 8192) (n : Nat) : Word := (BitVec.ofNat 13 o.val).signExtend 64 * BitVec.ofNat 64 n

/-- The plain loads of general registers: destination, base, size and offset in bytes (R115, R119). -/
def loads : Instr → Option (Reg × Reg × LdSize × Word)
  | .ld d b z o => some (d, b, z, wordOff o z.width.bytes)
  | .ldScoped d a o z _ .plain => some (d, a, z, w64 (o.val * z.width.bytes))
  | _ => none

/-- The plain stores of general registers: base, data, width and offset in bytes (R115, R119). -/
def stores : Instr → Option (Reg × Reg × Width × Word)
  | .st d b z o => some (b, d, z, wordOff o z.bytes)
  | .stScoped d a o z _ .plain => some (a, d, z, w64 (o.val * z.bytes))
  | _ => none

/-- The bytes of a load as a register: little-endian, extended as the size says (R12, R115). -/
def loaded (z : LdSize) (bs : List Byte) : Word :=
  if z.signed then written (BitVec.ofNat z.width.bits (leNat bs)) else (BitVec.ofNat z.width.bits (leNat bs)).setWidth 64

/-- The bytes of a register that a store of a width writes, the lowest first (R12, R115). -/
def storedBytes (z : Width) (v : Word) : List Byte := (List.range z.bytes).map (fun i => v.extractLsb' (8 * i) 8)

/-- The atomics: operation, destination, address, operand, width, scope and order (R124). -/
def atomics : Instr → Option (AmoOp × Reg × Reg × Reg × Bool × Scope × Order)
  | .amoAdd d a b w sc o => some (.add, d, a, b, w, sc, o)
  | .amoMin d a b w sc o => some (.min, d, a, b, w, sc, o)
  | .amoMax d a b w sc o => some (.max, d, a, b, w, sc, o)
  | .amoAnd d a b w sc o => some (.and, d, a, b, w, sc, o)
  | .amoOr d a b w sc o => some (.or, d, a, b, w, sc, o)
  | .amoXor d a b w sc o => some (.xor, d, a, b, w, sc, o)
  | .amoSwp d a b w sc o => some (.swp, d, a, b, w, sc, o)
  | .amoCas d a b w sc o => some (.cas, d, a, b, w, sc, o)
  | _ => none

/-- The numbers of the operations (R79). -/
def amoNumber : AmoOp → Nat
  | .add => 0 | .min => 1 | .max => 2 | .and => 3 | .or => 4 | .xor => 5 | .swp => 6 | .cas => 7

/-- The value an atomic leaves: from the old value, the operand and, for cas, the comparand in d (R124). -/
def amoValue {n : Nat} (op : AmoOp) (old b d : BitVec n) : BitVec n :=
  match op with
  | .add => old + b
  | .min => if old.sle b then old else b
  | .max => if b.sle old then old else b
  | .and => old &&& b
  | .or => old ||| b
  | .xor => old ^^^ b
  | .swp => b
  | .cas => if old = d then b else old

/- ---------------------------------------------------------------- ports and objects -/

/-- A register holds the near address of slot `i` of the objects page, whose kind is the one asked for, 0 for any (R129). -/
def slotAt (s : State) (v : Word) (i kind : Nat) : Prop :=
  i < 64 ∧ v.toNat = 0xF000000 + 64 * i ∧ (kind = 0 ∨ objKind (objAt s i) = kind)

/-- What an object operation leaves (R129, R331): every earlier store of the context has performed, the object stands in its slot
with the context's view joined to it, and where the operation acquires, the object's view joins the context's. -/
def objLeft (s : State) (i : Nat) (o : Obj) (acquire : Bool) : State :=
  let s1 := drain s s.cur
  let o1 := { o with view := mergeView o.view (me s1).view }
  let s2 := putObj s1 i o1
  if acquire then modCtx s2 s.cur (fun x => { x with view := mergeView x.view o1.view }) else s2

/-- The end of an object operation with a result: it retires, the region ends, and the task is marked (R326, R390). -/
def objWrote (s : State) (i : Nat) (o : Obj) (acquire : Bool) (d : Reg) (v : Nat) : State :=
  markUnv (endRegion (wrote (objLeft s i o acquire) s.cur 2 11 d (w64 v)) s.cur) s.cur

/-- The end of an object operation without a result. -/
def objDid (s : State) (i : Nat) (o : Obj) : State :=
  markUnv (endRegion (did (objLeft s i o false) s.cur 2 11) s.cur) s.cur

/-- The barrier instructions that arrive: destination, slot register, and whether the member leaves (R133). -/
def arrivals : Instr → Option (Reg × Reg × Bool)
  | .barArr d a => some (d, a, false)
  | .barDrop d a => some (d, a, true)
  | _ => none

/-- The register field of a port (R15). -/
def portReg (k : Fin 4) : Reg := ⟨28 + k.val, by omega⟩

/-- The instructions of general registers: destination, the source fields in the order in which they are served, work units, and the
result of the words served (R16, R92 to R101). -/
def operands (i : Instr) : Option (Reg × List Reg × Nat × (List Word → Word)) :=
  match i with
  | .sel d a b c => some (d, [a, b, c], 1, fun ws => if ws.getD 2 0 = 0 then ws.getD 1 0 else ws.getD 0 0)
  | _ =>
    match twoRegisters i, oneRegister i with
    | some (d, a, b, wu, f), _ => some (d, [a, b], wu, fun ws => f (ws.getD 0 0) (ws.getD 1 0))
    | none, some (d, a, f) => some (d, [a], 1, fun ws => f (ws.getD 0 0))
    | none, none => none

/-- The words that source fields get and the queues that they leave: a field that names a port takes the oldest word of its queue
(R16); none where a queue holds too few. -/
def served (x : Ctx) : List Reg → Vector (List PortWord) 4 → Option (List Word × Vector (List PortWord) 4)
  | [], q => some ([], q)
  | r :: rs, q =>
    if h : 28 ≤ r.val then
      match q[r.val - 28] with
      | [] => none
      | w :: t => (served x rs (q.set (r.val - 28) t)).map (fun p => (w.val :: p.1, p.2))
    else (served x rs q).map (fun p => (getReg x r :: p.1, p.2))

/-- Whether a port word may be sent (R17, R125, R434, R442): the port is bound, to a core that the sender may reach and that is in
service, and its queue has room. -/
def sendable (s : State) (k : Fin 4) : Prop :=
  wBits ((me s).pbind[k]) 63 1 = 1 ∧ permitted s (coreOf s.cur) (bindCore (me s).pbind[k]) = true ∧
  coreSealed s (bindCore (me s).pbind[k]) = false ∧ 0 < freeIn s (bindCore (me s).pbind[k]) (bindQueue (me s).pbind[k])

/-- The words in the queues of the core come from cores in service (R434). -/
def wordsInService (s : State) : Prop := ∀ k : Fin 4, ∀ w ∈ (getCore s (coreOf s.cur)).rq[k], coreSealed s (coreOf w.src) = false

/- ---------------------------------------------------------------- SIMD (R140 to R154) -/

/-- An exact integer as a lane under a saturation mode (R95, R144). -/
def laneHeld {n : Nat} (sat : Sat) (v : Int) : BitVec n :=
  match sat with
  | .wrap => BitVec.ofInt n v
  | .sats => BitVec.ofInt n (max (-(2 ^ (n - 1))) (min (2 ^ (n - 1) - 1) v))
  | .satu => BitVec.ofInt n (max 0 (min (2 ^ n - 1) v))

/-- How a saturation mode reads a lane (R144). -/
def laneRead {n : Nat} (sat : Sat) (x : BitVec n) : Int := if sat = .satu then x.toNat else x.toInt

/-- How a lane type reads a lane (R143). -/
def laneTyped {n : Nat} (t : ILane) (x : BitVec n) : Int := if t.signed then x.toInt else x.toNat

/-- A mask lane. -/
def laneTruth {n : Nat} (p : Prop) [Decidable p] : BitVec n := if p then BitVec.allOnes n else 0

/-- A lane-wise integer operation: its registers, its lane width, its work units and what it gives from the lanes of va, vb and the
old vd. -/
structure LaneOp where
  d : VReg
  a : VReg
  b : VReg
  bits : Nat
  wu : Nat
  f : BitVec bits → BitVec bits → BitVec bits → BitVec bits

/-- The lane-wise integer operations (R143, R144). -/
def laneOps : Instr → Option LaneOp
  | .vadd d a b t sat => some ⟨d, a, b, t.bits, 1, fun x y _ => laneHeld sat (laneRead sat x + laneRead sat y)⟩
  | .vsub d a b t sat => some ⟨d, a, b, t.bits, 1, fun x y _ => laneHeld sat (laneRead sat x - laneRead sat y)⟩
  | .vmul d a b t sat => some ⟨d, a, b, t.bits, 2, fun x y _ => laneHeld sat (laneRead sat x * laneRead sat y)⟩
  | .vmla d a b t sat => some ⟨d, a, b, t.bits, 2, fun x y z => laneHeld sat (laneRead sat z + laneRead sat x * laneRead sat y)⟩
  | .vmin d a b t => some ⟨d, a, b, t.bits, 1, fun x y _ => if laneTyped t x ≤ laneTyped t y then x else y⟩
  | .vmax d a b t => some ⟨d, a, b, t.bits, 1, fun x y _ => if laneTyped t x ≤ laneTyped t y then y else x⟩
  | .vabs d a t sat => some ⟨d, a, a, t.bits, 1, fun x _ _ => laneHeld sat |x.toInt|⟩
  | .vneg d a t sat => some ⟨d, a, a, t.bits, 1, fun x _ _ => laneHeld sat (-x.toInt)⟩
  | .vand d a b t => some ⟨d, a, b, t.bits, 1, fun x y _ => x &&& y⟩
  | .vor d a b t => some ⟨d, a, b, t.bits, 1, fun x y _ => x ||| y⟩
  | .vxor d a b t => some ⟨d, a, b, t.bits, 1, fun x y _ => x ^^^ y⟩
  | .vandn d a b t => some ⟨d, a, b, t.bits, 1, fun x y _ => x &&& ~~~y⟩
  | .vshl d a b t sat => some ⟨d, a, b, t.bits, 1, fun x y _ => laneHeld sat (laneRead sat x * 2 ^ (y.toNat % t.bits))⟩
  | .vshr d a b t => some ⟨d, a, b, t.bits, 1, fun x y _ =>
      if t.signed then x.sshiftRight (y.toNat % t.bits) else x >>> (y.toNat % t.bits)⟩
  | .vceq d a b t => some ⟨d, a, b, t.bits, 1, fun x y _ => laneTruth (x = y)⟩
  | .vclt d a b t => some ⟨d, a, b, t.bits, 1, fun x y _ => laneTruth (laneTyped t x < laneTyped t y)⟩
  | .vcle d a b t => some ⟨d, a, b, t.bits, 1, fun x y _ => laneTruth (laneTyped t x ≤ laneTyped t y)⟩
  | _ => none

/-- Lane `i` of a SIMD register (R18). -/
def laneAt (v : BitVec 128) (w i : Nat) : BitVec w := v.extractLsb' (i * w) w

/-- A SIMD register of the context that has the turn. -/
abbrev vec (s : State) (v : VReg) : BitVec 128 := (me s).v[v]

/-- A SIMD instruction's end: its result stands in a SIMD register, and it retires. -/
def wroteV (s : State) (wu : Nat) (d : VReg) (r : BitVec 128) : State :=
  modCtx s s.cur (fun x => retired s.cur wu 14 { x with v := x.v.set d r })

/-- The lane-wise float operations (R147, R148): registers, lane type, rounding field, and what they give from the three formats,
the rounding in force, the lanes of va, vb and the old vd, and the rounding state. -/
def floatLanes : Instr → Option (VReg × VReg × VReg × FLane × Rnd × (Fmt → Fmt → Fmt → Nat → Nat → Nat → Nat → RS → Nat × RS))
  | .vfadd d a b t r => some (d, a, b, t, r, fun fa fb fo k x y _ rs => arithF .add fo k rs (decodeF fa x) (decodeF fb y) (decodeF fb y))
  | .vfsub d a b t r => some (d, a, b, t, r, fun fa fb fo k x y _ rs => arithF .sub fo k rs (decodeF fa x) (decodeF fb y) (decodeF fb y))
  | .vfmul d a b t r => some (d, a, b, t, r, fun fa fb fo k x y _ rs => arithF .mul fo k rs (decodeF fa x) (decodeF fb y) (decodeF fb y))
  | .vfma d a b t r => some (d, a, b, t, r, fun fa fb fo k x y z rs => arithF .fma fo k rs (decodeF fa x) (decodeF fb y) (decodeF fb z))
  | .vfmin d a b t => some (d, a, b, t, .dyn, fun fa fb fo k x y _ rs => minMaxF false fa fb fo k rs x y)
  | .vfmax d a b t => some (d, a, b, t, .dyn, fun fa fb fo k x y _ rs => minMaxF true fa fb fo k rs x y)
  | .vfabs d a t => some (d, a, a, t, .dyn, fun fa _ fo k x _ _ rs =>
      (((convF fa fo k rs x).1 % 2 ^ (fo.w - 1)), (convF fa fo k rs x).2))
  | .vfneg d a t => some (d, a, a, t, .dyn, fun fa _ fo k x _ _ rs =>
      (withSign fo (!signOf fo (convF fa fo k rs x).1) (magCode fo (convF fa fo k rs x).1), (convF fa fo k rs x).2))
  | .vfceq d a b t => some (d, a, b, t, .dyn, fun fa fb fo _ x y _ rs => cmpLane true (· == .eq) fa fb fo x y rs)
  | .vfclt d a b t => some (d, a, b, t, .dyn, fun fa fb fo _ x y _ rs => cmpLane false (· == .lt) fa fb fo x y rs)
  | .vfcle d a b t => some (d, a, b, t, .dyn, fun fa fb fo _ x y _ rs => cmpLane false (· != .gt) fa fb fo x y rs)
  | _ => none

/-- The reductions (R153): registers, lane type, how integers combine, and how float codes combine under a rounding. -/
def reductions : Instr → Option (VReg × VReg × Lane × (Int → Int → Int) × (Fmt → Nat → Nat → Nat → RS → Nat × RS))
  | .vredAdd d a t => some (d, a, t, (· + ·), fun f k x y rs => arithF .add f k rs (decodeF f x) (decodeF f y) (decodeF f y))
  | .vredMin d a t => some (d, a, t, min, fun f _ x y rs => minMaxF false f f f 0 rs x y)
  | .vredMax d a t => some (d, a, t, max, fun f _ x y rs => minMaxF true f f f 0 rs x y)
  | _ => none

/-- The scalar float operations (R163, R175): destination, sources, work units, whether they are of width 64, the prefix fields
they use beside fmt-A, the rounding field, and what they give from the formats, the rounding, the state of rounding and the codes of
their sources. -/
structure ScalarOp where
  d : Reg
  srcs : List Reg
  wu : Nat
  dbl : Bool
  useB : Bool
  useOut : Bool
  r : Rnd
  f : Fmt → Fmt → Fmt → Nat → RS → List Nat → Nat × RS

/-- A rounding operation on two codes, and on three. -/
def two (op : FOp) (fa fb fo : Fmt) (k : Nat) (rs : RS) (cs : List Nat) : Nat × RS :=
  arithF op fo k rs (decodeF fa (cs.getD 0 0)) (decodeF fb (cs.getD 1 0)) (decodeF fb (cs.getD 2 0))

/-- A special function of one code. -/
def one (g : Sfn) (fa _fb fo : Fmt) (k : Nat) (rs : RS) (cs : List Nat) : Nat × RS := sfnF g fo k rs (decodeF fa (cs.getD 0 0))

/-- The scalar float operations and the special functions. -/
def scalarOps : Instr → Option ScalarOp
  | .fadd d a b r dbl => some ⟨d, [a, b], if dbl then 2 else 1, dbl, true, true, r, two .add⟩
  | .fsub d a b r dbl => some ⟨d, [a, b], if dbl then 2 else 1, dbl, true, true, r, two .sub⟩
  | .fmul d a b r dbl => some ⟨d, [a, b], if dbl then 2 else 1, dbl, true, true, r, two .mul⟩
  | .fma d a b r dbl => some ⟨d, [a, b, d], if dbl then 2 else 1, dbl, true, true, r, two .fma⟩
  | .fdiv d a b r dbl => some ⟨d, [a, b], if dbl then 32 else 16, dbl, true, true, r, two .div⟩
  | .fsqrt d a r dbl => some ⟨d, [a], if dbl then 32 else 16, dbl, false, true, r, two .sqrt⟩
  | .fmin d a b dbl => some ⟨d, [a, b], if dbl then 2 else 1, dbl, true, true, .dyn,
      fun fa fb fo k rs cs => minMaxF false fa fb fo k rs (cs.getD 0 0) (cs.getD 1 0)⟩
  | .fmax d a b dbl => some ⟨d, [a, b], if dbl then 2 else 1, dbl, true, true, .dyn,
      fun fa fb fo k rs cs => minMaxF true fa fb fo k rs (cs.getD 0 0) (cs.getD 1 0)⟩
  | .fcmp d a b dbl => some ⟨d, [a, b], if dbl then 2 else 1, dbl, true, false, .dyn, fun fa fb _ _ rs cs =>
      ((cmpCode (decodeF fa (cs.getD 0 0)) (decodeF fb (cs.getD 1 0))).1,
        rs.flag (cmpCode (decodeF fa (cs.getD 0 0)) (decodeF fb (cs.getD 1 0))).2)⟩
  | .fsin d a r => some ⟨d, [a], 8, false, false, true, r, one .sin⟩
  | .fcos d a r => some ⟨d, [a], 8, false, false, true, r, one .cos⟩
  | .fexp2 d a r => some ⟨d, [a], 8, false, false, true, r, one .exp2⟩
  | .flog2 d a r => some ⟨d, [a], 8, false, false, true, r, one .log2⟩
  | .frcp d a r => some ⟨d, [a], 8, false, false, true, r, one .rcp⟩
  | .frsq d a r => some ⟨d, [a], 8, false, false, true, r, one .rsq⟩
  | .ftanh d a r => some ⟨d, [a], 8, false, false, true, r, one .tanh⟩
  | _ => none

/-- A float instruction's end: the LFSR as it was left, the result, the flags joined to ST, and retirement. -/
def wroteF (s : State) (wu pj : Nat) (d : Reg) (v : Word) (rs : RS) : State :=
  modCtx s s.cur (fun x => retiredFmt s.cur wu pj rs.flags (setReg { x with lfsr := rs.lfsr } d v))

/-- An enabled flag among those an instruction sets is trapped only where the context goes on (R30, R369). -/
def mayTrap (s : State) (flags : Nat) : Prop := flags &&& bitsAt (me s).st.toNat 13 6 ≠ 0 → issuing (me s).mode = true

/-- What comes after a float instruction that retired as `t` (R30, R141, R171): with an enabled flag among those it set, the FP trap at
the next instruction, whose record holds the flags at their places in ST and the mask of the elements that set one. -/
def floated (s t : State) (flags mask : Nat) : State :=
  if flags &&& bitsAt (me s).st.toNat 13 6 = 0 then t
  else takeTrap t s.cur ⟨cFP, 0, false, flags * 128, mask, none⟩ (getCtx t s.cur).pc.toNat

/-- A binary floating-point number, (-1)^n × m × 2^e, as a rational. -/
def ratOf (n : Bool) (m : Nat) (e : Int) : ℚ := (if n then -1 else 1) * (m : ℚ) * (2 : ℚ) ^ e

/-- Whether a code of a format is a finite number, and which. -/
def finiteCode (f : Fmt) (code : Nat) : Option ℚ :=
  match decodeF f code with
  | .fin n m e => some (ratOf n m e)
  | _ => none

/-- The integer that a side of cvt reads from a register (R166, R167). -/
def intSide : CvType → Word → ℤ
  | .ds, w => w.toInt
  | .dz, w => w.toNat
  | .ws, w => (w.setWidth 32).toInt
  | _, w => (w.setWidth 32).toNat

/-- The format of the result of cvt: that of its side, a narrow one from the register the instruction or its prefix names (R167). -/
def cvtTo (x : Ctx) (n : Fin 8) (t : CvType) : Fmt := sideFmt x t (match prefixOf x with | some q => q.out | none => n)

/-- A result is a real number rounded once into a format (R55, R56). OF is set only for a number beyond every number of the format; without
it the result is a number of the format: under RNE none is nearer and a tie goes to the even code; under the others it is the next on
their side; NX tells whether it differs. -/
def roundsTo (f : Fmt) (rnd : Nat) (out : Nat × RS) (q : ℝ) : Prop :=
  (out.2.flags &&& fOF ≠ 0 → ∀ (code : Nat) (w : ℚ), code < 2 ^ f.w → finiteCode f code = some w → |(w : ℝ)| < |q|) ∧
  (out.2.flags &&& fOF = 0 → ∃ v : ℚ, finiteCode f out.1 = some v ∧
    (out.2.flags &&& fNX = 0 ↔ (v : ℝ) = q) ∧
    ∀ (code : Nat) (w : ℚ), code < 2 ^ f.w → finiteCode f code = some w →
      (rnd = 0 → |(v : ℝ) - q| ≤ |(w : ℝ) - q| ∧ (|(v : ℝ) - q| = |(w : ℝ) - q| → w = v ∨ out.1 % 2 = 0)) ∧
      (rnd = 1 → |(v : ℝ)| ≤ |q| ∧ 0 ≤ v * q ∧ (|(w : ℝ)| ≤ |q| → |w| ≤ |v|)) ∧
      (rnd = 2 → q ≤ v ∧ (q ≤ w → v ≤ w)) ∧ (rnd = 3 → v ≤ q ∧ (w ≤ q → w ≤ v)))

/-- The instructions that clear a running maximum, and which (R174). -/
def clears : Instr → Option (Fin 4)
  | .amxClr0 => some 0
  | .amxClr1 => some 1
  | .amxClr2 => some 2
  | .amxClr3 => some 3
  | _ => none

/- ---------------------------------------------------------------- control registers (R28 to R32, R125, R238, R239) -/

/-- The control registers that read as they stand. -/
def plainCr (x : Ctx) (n : Nat) : Option Word :=
  match n with
  | 1 => some (x.tvec.setWidth 64) | 2 => some (x.tframe.setWidth 64) | 3 => some (x.tag.setWidth 64)
  | 4 => some (x.pid.setWidth 64) | 5 => some x.budget | 7 => some x.deadline | 9 => some x.lwin | 10 => some x.flock
  | 11 => some (x.hintgap.setWidth 64) | 13 => some x.apxctl | 14 => some (x.seed.setWidth 64) | 15 => some (x.pfx.setWidth 64)
  | 16 => some x.pbind[0] | 17 => some x.pbind[1] | 18 => some x.pbind[2] | 19 => some x.pbind[3]
  | 20 => some (x.chhead[0].setWidth 64) | 21 => some (x.chhead[1].setWidth 64) | 22 => some (x.chhead[2].setWidth 64)
  | 23 => some (x.chhead[3].setWidth 64)
  | 33 => some (x.sepc.setWidth 64) | 34 => some x.sest | 35 => some (x.scode.setWidth 64) | 36 => some x.sarg
  | 48 => some (x.hepc.setWidth 64) | 49 => some x.hest
  | _ => none

/-- The writes of mtc to the registers without a row of their own: whether the value is taken, and the registers after it. -/
structure CrWrite where
  takes : Ctx → Word → Prop
  after : Ctx → Word → Ctx

/-- The table of those writes (R28, R30, R238, R239, R253). -/
def crWrites (n : Nat) : Option CrWrite :=
  match n with
  | 0 => some ⟨fun _ v => (v >>> 4).toNat % 8 ≤ 4, fun x v =>
      { x with st := (x.st &&& ~~~0x7FFF0#64) ||| (v &&& 0x7FFF0#64) }⟩
  | 1 => some ⟨fun _ v => v.toNat < 2 ^ 48 ∧ v.toNat % 4 = 0, fun x v => { x with tvec := v.setWidth 48 }⟩
  | 2 => some ⟨fun _ v => v.toNat < 2 ^ 32, fun x v => { x with tframe := v.setWidth 32 &&& ~~~63#32 }⟩
  | 3 => some ⟨fun x v => 1 ≤ privOf x ∧ v.toNat < 2 ^ 32, fun x v => { x with tag := v.setWidth 32 }⟩
  | 4 => some ⟨fun x v => 1 ≤ privOf x ∧ v.toNat < 2 ^ 16, fun x v => { x with pid := v.setWidth 16 }⟩
  | 7 => some ⟨fun x _ => 1 ≤ privOf x, fun x v => { x with deadline := v }⟩
  | 9 => some ⟨fun x _ => 1 ≤ privOf x, fun x v => { x with lwin := v }⟩
  | 11 => some ⟨fun _ v => v.toNat < 2 ^ 16, fun x v => { x with hintgap := BitVec.ofNat 16 (max 64 (min 16384 v.toNat)) }⟩
  | 13 => some ⟨fun _ v => v.toNat < 2 ^ 24 ∧ (v >>> 1).toNat % 32 ≤ 16, fun x v => { x with apxctl := v }⟩
  | 33 => some ⟨fun _ v => v.toNat < 2 ^ 48, fun x v => { x with sepc := v.setWidth 48 }⟩
  | 34 => some ⟨fun _ _ => True, fun x v => { x with sest := v }⟩
  | 35 => some ⟨fun _ v => v.toNat < 2 ^ 16, fun x v => { x with scode := v.setWidth 16 }⟩
  | 36 => some ⟨fun _ _ => True, fun x v => { x with sarg := v }⟩
  | 48 => some ⟨fun _ v => v.toNat < 2 ^ 48, fun x v => { x with hepc := v.setWidth 48 }⟩
  | 49 => some ⟨fun _ _ => True, fun x v => { x with hest := v }⟩
  | _ => none

/-- The instructions that need a level above task mode and the level (R29, R86 step 11, R254, R258). -/
def needs : Instr → Option Nat
  | .mfc _ c => if c.val < 32 then none else if c.val < 48 then some 1 else some 2
  | .mtc _ c => if c.val < 32 then none else if c.val < 48 then some 1 else some 2
  | .mtcSvec _ => some 1
  | .mtcDbgctl _ => some 1
  | .seal _ => some 1
  | .unseal _ => some 1
  | .scanGo _ => some 1
  | .scanQ _ _ => some 1
  | _ => none

/-- A trap that names nothing but a cause and a reason or value in SPEC1; an ILLEGAL or PRIVILEGE record holds the word in SPEC0
(R86). -/
def wordTrap (cause : Nat) (i : Instr) (spec1 : Nat) : Trap := ⟨cause, 0, false, (encodeNat i).getD 0, spec1, none⟩

/-- The instructions of task mode, other than branches and calls, that may not end a loop body (R110). -/
def endsTask : Instr → Bool
  | .trap _ _ => true
  | .ebrk _ _ => true
  | .sys _ _ => true
  | .tret => true
  | .halt _ => true
  | _ => false

/-- A member of a flock that nothing bars from an instruction which takes no formats (R86, R299, R349). -/
structure Member (s : State) (c wu : Nat) : Prop where
  compute : isMem c = false
  plain : wBits (getCtx s c).st 3 1 = 0
  meter : meterFull (getCtx s c) = false
  budget : (getCtx s c).charge.toNat + wu ≤ (getCtx s c).budget.toNat
  paid : owes (getCtx s c) = false
  program : (getCtx s c).serving = none

/-- The context that has the turn leads a flock outside a handler, no member is barred, and all stand at one place of one stream (R299). -/
structure LockStep (s : State) (wu : Nat) : Prop where
  two : 2 ≤ (flockOf s s.cur).length
  leads : (flockOf s s.cur).head? = some s.cur
  once : (flockOf s s.cur).Nodup
  handler : wBits (me s).st 23 1 = 0
  free : ∀ c ∈ flockOf s s.cur, Member s c wu
  stream : ∀ c ∈ flockOf s s.cur, (getCtx s c).pc = (me s).pc ∧ (getCtx s c).ls = (me s).ls ∧ (getCtx s c).le = (me s).le ∧
    (getCtx s c).lc = (me s).lc

/-- The registers of a context when its handler starts (R364). -/
def entered (x : Ctx) (r : FaultRec) : Ctx :=
  { x with
    latch := r
    shadow := x.ls.toList ++ x.le.toList ++ x.lc.toList
    lc := Vector.replicate 4 0
    st := (x.st &&& ~~~0x7E008#64) ||| 0x800000#64
    pfx := 0
    pc := x.tvec
    waiting := false
    stall := none
    notice := none
    budx := none }

/-- A task-mode context that may take a trap: it has a handler, is in none, the record fits at TFRAME and the handler's first word
can be fetched once the record is written. `u` is the state in which it runs its handler. -/
def handles (s : State) (c : Nat) (r : FaultRec) (u : State) : Prop :=
  privOf (getCtx s c) = 0 ∧ (getCtx s c).tvec ≠ 0 ∧ wBits (getCtx s c).st 23 1 = 0 ∧
  recordCheck s c (getCtx s c).tframe.toNat = none ∧
  ∃ w, fetchWord (modCtx (writeRecord s c (getCtx s c).tframe.toNat r) c (fun x => enterHandler x r)) c
    (getCtx s c).tvec.toNat = .ok (u, w)

/- ---------------------------------------------------------------- root mode and engines -/

/-- The root loads: destination, base, size, offset (R255). -/
def rootLoads : Instr → Option (KReg × KReg × LdSize × Fin 8192)
  | .kLdD d b o => some (d, b, .d, o)
  | .kLdW d b o => some (d, b, .wz, o)
  | _ => none

/-- The root stores: data, base, width, offset (R255). -/
def rootStores : Instr → Option (KReg × KReg × Width × Fin 8192)
  | .kStD d b o => some (d, b, .d, o)
  | .kStW d b o => some (d, b, .w, o)
  | _ => none

/-- A translator run in which the context that has the turn is (R258, R260). -/
def inRun (s : State) (r : RootRun) : Prop := (me s).root = some r ∧ isRoot (me s) = true

/-- What the issue of an engine command does before its own part (R180, R206, R333): every earlier store of the context performs,
the command takes a number, its ranges are marked for its engine, and VIS of its token rises. -/
def issued (s : State) (eng : Nat) (t : TokId) (rs : List ERange) : State :=
  let s1 := { drain s s.cur with nextId := s.nextId + 1 }
  modTok (markRanges s1 s.cur (engParty (coreOf s.cur) eng) s.nextId t.val rs) s.cur t (fun q => { q with vis := q.vis + 1 })

/-- The conditions of R180 on a command's ranges and token: no range fails R34 or R434, no line is marked against it, and the token
has room. -/
structure Issuable (s : State) (eng : Nat) (t : TokId) (rs : List ERange) : Prop where
  ranges : rangeTrap s s.cur rs = none
  lines : issueConflict s s.cur (engParty (coreOf s.cur) eng) rs = none
  room : (me s).tok[t].vis + 1 < 2 ^ 20

/-- The four mma forms: op number, sources, token, accumulator, whether B comes from the weight stack, and whether the accumulator
is overwritten (R185 to R187). -/
def mmaForms : Instr → Option (Nat × Reg × Reg × TokId × Fin 4 × Bool × Bool)
  | .mma a b t k => some (0, a, b, t, k, true, false)
  | .mmaL a b t k => some (1, a, b, t, k, false, false)
  | .mmaZ a b t k => some (2, a, b, t, k, true, true)
  | .mmaZL a b t k => some (3, a, b, t, k, false, true)
  | _ => none

/-- accld and psum.add (R192, R193). -/
def accLoads : Instr → Option (Nat × Reg × Reg × TokId × Fin 4)
  | .accld a b t k => some (5, a, b, t, k)
  | .psumAdd a b t k => some (8, a, b, t, k)
  | _ => none

/-- The drains: op number, sources, token, running maximum, whether the accumulator is kept, accumulator (R194). -/
def drains : Instr → Option (Nat × Reg × Reg × TokId × AmxSel × Bool × Fin 4)
  | .drn a b t m e k => some (6, a, b, t, m, e, k)
  | .drnT a b t m e k => some (7, a, b, t, m, e, k)
  | _ => none

/-- The vector commands: op number, sources, token, running maximum, and whether Y is one element (R207). -/
def vectorForms : Instr → Option (Nat × Reg × Reg × TokId × AmxSel × Bool)
  | .vxEw a b t m y => some (0, a, b, t, m, y)
  | .vxRed a b t m => some (1, a, b, t, m, false)
  | .vxCvt a b t m => some (2, a, b, t, m, false)
  | .vxSfn a b t m => some (3, a, b, t, m, false)
  | .vxGth a b t => some (4, a, b, t, none, false)
  | .vxSct a b t => some (5, a, b, t, none, false)
  | _ => none

/-- The end of a command's issue: it retires under a prefix or without one, and an event of R390 marks the task. -/
def commanded (s1 : State) (c wu : Nat) (fmt unv : Bool) : State :=
  let s2 := if fmt then modCtx s1 c (retiredFmt c wu 0 0) else modCtx s1 c (retired c wu 0)
  if unv then markUnv s2 c else s2

/-- The format register that operand A, B or the output of a command takes: a prefix's, else the one its fields name (R161). -/
def regA (x : Ctx) (n : Nat) : BitVec 32 := x.fmt[match prefixOf x with | some p => p.a | none => fmtIx n]
def regB (x : Ctx) (n : Nat) : BitVec 32 := x.fmt[match prefixOf x with | some p => p.b | none => fmtIx n]
def regO (x : Ctx) (n : Nat) : BitVec 32 := x.fmt[match prefixOf x with | some p => p.out | none => fmtIx n]

/-- The exact number a finite value stands for. -/
def ratV : FVal → ℚ
  | .fin n m e => ratOf n m e
  | _ => 0

/-- Whether a value is a finite number. -/
def finiteV : FVal → Bool
  | .fin _ _ _ => true
  | _ => false

/-- Element `i` of a stream of elements of `w` bits that begins at an address (R60). -/
def elemAt (m : Memory) (p w i : Nat) : Nat := memNat m p (ceilDiv ((i + 1) * w) 8) / 2 ^ (i * w) % 2 ^ w

/-- Results `v` stand in a format as a stream at `p`, each rounded with its own state of the LFSR (R56, R59); block-scaled ones by R63, with
the scale bytes from `q` on. -/
def coded (m : Memory) (f : Fmt) (rnd : Nat) (l : BitVec 32) (p q n : Nat) (v : Nat → FVal) : Prop :=
  let at_ (i : Nat) : BitVec 32 := lfsrSteps (if rnd = rSR then i else 0) l
  (f.scale = false → ∀ i, i < n → elemAt m p f.w i = (encodeF f rnd ⟨at_ i, 0⟩ (v i)).1 % 2 ^ f.w) ∧
  (f.scale = true → ∀ b, 4 * b < n →
    let k := blockQ f rnd (at_ (4 * b)) ((List.range (min 4 (n - 4 * b))).map (fun j => v (4 * b + j)))
    (memGet m (q + b)).toNat = k.1 ∧ ∀ j, j < 4 → 4 * b + j < n → elemAt m p f.w (4 * b + j) = k.2.1.getD j 0 % 2 ^ f.w)

/-- The place of row `i` of a drained copy, whose word of the command is `cw`; its scale bytes stand where a row 16 would (R195). -/
def copyRow (c cw i : Nat) : Nat := phys c (bitsAt cw 0 32 + i * bitsAt cw 32 16)

/-- The rows of a drained copy lie one behind the other, at a stride that R182 permits. -/
def copyPlaced (c : Nat) (f : Fmt) (cw : Nat) : Prop :=
  strideOk (bitsAt cw 32 16) (2 * f.w) = true ∧ ∀ i, i ≤ 16 → copyRow c cw i = copyRow c cw 0 + i * bitsAt cw 32 16

/-- A byte of a drained copy. -/
def inCopy (c : Nat) (f : Fmt) (cw a : Nat) : Prop :=
  (∃ i, i < 16 ∧ copyRow c cw i ≤ a ∧ a < copyRow c cw i + 2 * f.w) ∨ (f.scale = true ∧ copyRow c cw 16 ≤ a ∧ a < copyRow c cw 16 + 64)

/-- A drained copy stands in memory (R195 to R197): word `w i j` at position `j` of row `i`. -/
def drainedCopy (m : Memory) (c : Nat) (f : Fmt) (rnd : Nat) (l : BitVec 32) (cw : Nat) (w : Nat → Nat → Nat) : Prop :=
  ∀ i, i < 16 →
    if f = f32Fmt then ∀ j, j < 16 → memNat m (copyRow c cw i + 4 * j) 4 = w i j
    else coded m f rnd (lfsrSteps (if rnd = rSR then 16 * i else 0) l) (copyRow c cw i) (copyRow c cw 16 + 4 * i) 16
      (fun j => decodeF f32Fmt (w i j))

/-- The LFSR of the context that has the turn after the draws a command will make (R59, R194). -/
def afterDraws (draws : Nat) (s : State) : State := modCtx s s.cur (fun y => { y with lfsr := lfsrSteps draws y.lfsr })

/- ---------------------------------------------------------------- the copy engine and far orders -/

/-- Bytes that all lie in a context's own window of local memory. -/
def ownBytes (s : State) (c p n : Nat) : Prop := ∀ i, i < n → ∃ o, areaFor c (p + i) = .own o ∧ inWindow (getCtx s c) o = true

/-- The entries that a walk reads below a root table (R313), each where the one above it points: the addresses of those of levels 2 to 0,
and the four. -/
def pte3 (m : Memory) (va root : Nat) : Nat := memNat m (root + 8 * (va / 2 ^ 39 % 512)) 8
def pteAt2 (m : Memory) (va root : Nat) : Nat := pteAddr (pte3 m va root) + 8 * (va / 2 ^ 30 % 512)
def pte2 (m : Memory) (va root : Nat) : Nat := memNat m (pteAt2 m va root) 8
def pteAt1 (m : Memory) (va root : Nat) : Nat := pteAddr (pte2 m va root) + 8 * (va / 2 ^ 21 % 512)
def pte1 (m : Memory) (va root : Nat) : Nat := memNat m (pteAt1 m va root) 8
def pteAt0 (m : Memory) (va root : Nat) : Nat := pteAddr (pte1 m va root) + 8 * (va / 2 ^ 12 % 512)
def pte0 (m : Memory) (va root : Nat) : Nat := memNat m (pteAt0 m va root) 8

/-- A walk ends at a leaf `e` at address `a` that maps a page of `size` bytes: 1 GiB, 2 MiB, 64 KiB or 4 KiB (R313). -/
def leafAt (m : Memory) (va root a e size : Nat) : Prop :=
  pteOk (pte3 m va root) 3 = true ∧ pteOk (pte2 m va root) 2 = true ∧
  if pteLeaf (pte2 m va root) = true then a = pteAt2 m va root ∧ e = pte2 m va root ∧ size = 2 ^ 30
  else pteOk (pte1 m va root) 1 = true ∧
    if pteLeaf (pte1 m va root) = true then a = pteAt1 m va root ∧ e = pte1 m va root ∧ size = 2 ^ 21
    else pteOk (pte0 m va root) 0 = true ∧ a = pteAt0 m va root ∧ e = pte0 m va root ∧
      size = if pteC64 e = true then 2 ^ 16 else 2 ^ 12

/-- A walk meets an entry that may not stand at its level (R313). -/
def brokenAt (m : Memory) (va root : Nat) : Prop :=
  pteOk (pte3 m va root) 3 = false ∨ pteOk (pte2 m va root) 2 = false ∨
  (pteLeaf (pte2 m va root) = false ∧ (pteOk (pte1 m va root) 1 = false ∨
    (pteLeaf (pte1 m va root) = false ∧ pteOk (pte0 m va root) 0 = false)))

/-- The record a channel runs has both sides near (R217). The event's first argument names the core. -/
def nearRecord (s : State) (k : Fin 4) (r : ChainRun) (q : RunRec) : Prop :=
  runOf s (argN s 0) k = some (r, q) ∧ recKind q ≤ 1 ∧ recSfar q = false ∧ recDfar q = false

/-- A piece of a record of at most a line, whose near bytes lie one behind the other. -/
def onePiece (c : Nat) (l : FarLine) : Prop :=
  l.len ≤ 128 ∧ l.near + l.len < 2 ^ 32 ∧ ∀ i, i ≤ l.len → phys c (l.near + i) = phys c l.near + i

/-- What the move of a record's next piece, the bytes `bs`, leaves (R220, R305). A byte of a 16-byte unit of the slice that a piece behind it
also writes waits; every other byte stands in memory, and no byte besides. The write pointer stands behind the piece, or at its first byte
that waits. -/
def staged (s t : State) (core : Nat) (k : Fin 4) (c : Nat) (q : RunRec) (l : FarLine) (bs : List Byte) : Prop :=
  let p := phys c l.near
  let waits (i : Nat) : Prop := sliceByte c (l.near + i) = true ∧ ∃ m ∈ q.lines.drop (q.moved + 1),
    m.near < (l.near + i) / 16 * 16 + 16 ∧ (l.near + i) / 16 * 16 < m.near + m.len
  (∀ i, i < l.len → (¬waits i → memGet t.mem (p + i) = bs.getD i 0) ∧ (waits i → memGet t.mem (p + i) = memGet s.mem (p + i))) ∧
  (∀ a, a < p ∨ p + l.len ≤ a → memGet t.mem a = memGet s.mem a) ∧
  ((∀ i, i < l.len → ¬waits i) → wBits (getCtx t c).wp[k] 0 32 = l.near + l.len) ∧
  (∀ i, i < l.len → waits i → (∀ j, j < i → ¬waits j) → wBits (getCtx t c).wp[k] 0 32 = l.near + i) ∧
  ∃ r2 q2, runOf t core k = some (r2, q2) ∧ q2.moved = q.moved + 1 ∧ ((∀ i, i < l.len → ¬waits i) → q2.tail = [])

/-- By how much a record lowers a count of a token (R206, R223): by one as its own token, and at the end of its chain by one as the chain
token. -/
def tokenDrops (r : ChainRun) (q : RunRec) (n : TokId) : Nat :=
  (if rTv q.words = true ∧ rTok q.words = n then 1 else 0) + if rEnd q.words = true ∧ r.chain.tok.map tokIx = some n then 1 else 0

/-- Nothing waits behind the chains that a core's channels run. -/
def idleBehind (s : State) (core : Nat) : Prop := (getCore s core).copyQ = [] ∧ (getCore s core).held = []

/-- The record a channel runs has one far side and a next line `l` to forward (R311). -/
def farRecord (s : State) (k : Fin 4) (r : ChainRun) (q : RunRec) (l : FarLine) : Prop :=
  runOf s (argN s 0) k = some (r, q) ∧ recKind q ≤ 1 ∧ recSfar q = !recDfar q ∧ q.suspended = false ∧ q.fault = none ∧ q.poisoned = false ∧
  outstanding q < 64 ∧ q.lines[q.fwd]? = some l ∧ 0 < l.len

/-- A line order to device memory at a stage, with no earlier order of its party before it that has still to pass that stage
(R318). -/
def plainOrder (s : State) (ch : Nat) (o : FarOrder) (stage : Nat) : Prop :=
  o.stage = stage ∧ o.host = false ∧ o.shadow = false ∧ partyBehind s ch o (stage + 1) = false

/-- A 12-bit offset in units of `n` bytes, sign-extended (R138). -/
def farOff (o : Fin 4096) (n : Nat) : Word := (BitVec.ofNat 12 o.val).signExtend 64 * BitVec.ofNat 64 n

/-- The order a memory-core context serves belongs to no task of which a far access could be an event of R390. -/
def plainOwner (s : State) (m : Nat) : Prop := ∀ c, ownerOf s m = some c → ∀ e, entOfCtx s c = some e → e.telig = false

/-- The operands of push and pull fit the order and the staging window (R139). -/
def orderFits (v : Serving) (a b n : Nat) : Prop :=
  8 ≤ n ∧ n ≤ 4096 ∧ n % 8 = 0 ∧ a + n ≤ v.len ∧ b + n ≤ 0x4000 ∧ a % 8 = 0 ∧ b % 8 = 0

/- ---------------------------------------------------------------- tasks -/

/-- What an accepted command to the Drover leaves (R180, R233, R289): every earlier store has performed, VIS of its token has risen,
the request waits on the die with who made it, and the instruction has retired at the end of a region. -/
def requested (s : State) (t : TokId) (wu : Nat) (r : DReq) : State :=
  let s1 := drain s s.cur
  let g := spawnGraph s1 s.cur
  let r1 : DReq := { r with
    ctx := s.cur, part := (partOf s s.cur).getD 0, pid := (me s).pid.toNat, graph := g.1, opc := (me s).pc.toNat, tok := t.val
    view := (me s1).view, win := defaultWin (me s), place := defaultPlace s s.cur }
  markUnv (endRegion (did (addReq (modTok g.2 s.cur t (fun q => { q with vis := q.vis + 1 })) (dieOf s.cur) r1) s.cur wu 4) s.cur) s.cur

/-- The oldest request of the die that an event names. -/
def oldest (s : State) (kind : Nat) (r : DReq) : Prop := (getDie s (argN s 0)).reqs.head? = some r ∧ r.kind = kind

/-- A partition with nothing that keeps an entry of it from being placed (R295, R379). -/
def placeable (s : State) (die : Nat) (e : Entry) : Prop := isWhistled s e.part = false ∧ earlierReady s die e = []

/-- A task of one context with nothing to push, restore or retain (R295). -/
def plainTask (s : State) (e : Entry) (core : Nat) : Prop :=
  e.flw = 0 ∧ e.saved = [] ∧ e.argLen = 0 ∧ e.rootReq = none ∧ e.paged = false ∧ e.heldFor = [] ∧
  (getDie s (dieOfCore core)).retained = [] ∧
  gatedGroup s core = false

/-- The entry of a task that one context runs, the context alone in it. -/
def soleEntry (s : State) (c : Nat) (e : Entry) : Prop :=
  entOfCtx s c = some e ∧ e.members = [c] ∧ (getCtx s c).run = 0
/-- The conditions under which an instruction that is not tested against BUDGET does its own effect (R244). -/
structure Exempt (s : State) : Prop where
  compute : isMem s.cur = false
  alone : flockOf s s.cur = []
  plain : wBits (me s).st 3 1 = 0
  meter : meterFull (me s) = false
  program : (me s).serving = none

/- ---------------------------------------------------------------- seal, scan, errors -/

/-- The cores of a die whose tasks an instruction or event tells to give way: each task placed on the core is asked. -/
def askedAway (s t : State) (core : Nat) : Prop :=
  ∀ e ∈ (getDie s (dieOfCore core)).entries, e.state = .placed → (∃ c ∈ e.members, coreOf c = core) →
    ∃ f ∈ (getDie t (dieOfCore core)).entries, f.order = e.order ∧ f.state = .asked

/-- The four contexts of a core hold no task. -/
def coreEmpty (s : State) (core : Nat) : Prop := ∀ c ∈ ctxsOf core, (getCtx s c).mode = .free

/-- The fault queue of a partition on a die. -/
def faultsOf (q : PartSt) (die : Nat) : List (List Byte) := (q.faultQ.get? die).getD []

/- ---------------------------------------------------------------- hypervisor calls -/

/-- The rows of hcall: code, argument and reply slot (R243). -/
def hcalls : Instr → Option (Nat × Reg × Reg)
  | .hcallTranslatorRun a b => some (16, a, b)
  | .hcallInvalidate a b => some (17, a, b)
  | .hcallLoaderWrite a b => some (18, a, b)
  | .hcallPartitionQuery a b => some (19, a, b)
  | .hcallWhistleStop a b => some (20, a, b)
  | .hcallWhistleRelease a b => some (21, a, b)
  | .hcallTransitSettings a b => some (22, a, b)
  | .hcallTransitCounts a b => some (23, a, b)
  | .hcallArmFault a b => some (24, a, b)
  | .hcallTaintQuery a b => some (25, a, b)
  | .hcallDirectoryEvict a b => some (26, a, b)
  | .hcallFaultQueueTake a b => some (27, a, b)
  | .hcallPageOut a b => some (28, a, b)
  | .hcallPageIn a b => some (29, a, b)
  | .hcallIdentity a b => some (30, a, b)
  | .hcallContributionPost a b => some (31, a, b)
  | .hcallContributionWait a b => some (32, a, b)
  | _ => none

/-- What an hcall leaves (R243): every earlier store has performed, the request waits for the hypervisor with who made it, the task
has one outstanding, and the instruction has retired at the end of a region. -/
def called (s : State) (code : Nat) (arg slot : Word) : State :=
  let s1 := { drain s s.cur with nextId := (drain s s.cur).nextId + 1 }
  let r : HReq := { bareHReq (drain s s.cur).nextId code arg.toNat slot.toNat s.cur with
    tag := match entOfCtx s1 s.cur with | some e => e.tag | none => (me s).tag.toNat
    part := (partOf s s.cur).getD 0, pid := (me s).pid.toNat, view := (me s1).view }
  let s2 := modCtx { s1 with hreqs := s1.hreqs ++ [r] } s.cur (fun x => { x with hcallOut := true })
  markUnv (endRegion (did (post s2 (if code = 16 then .imagePrepare else .hcallReply) [r.id]) s.cur 1 4) s.cur) s.cur

/-- A hypervisor call may be made (R243): the mode, the reply slot, and no call of the task outstanding. -/
structure Callable (s : State) (slot : Word) : Prop where
  mode : 1 ≤ privOf (me s)
  slot : slotCheck (me s) s.cur slot.toNat = none
  one : ∀ m ∈ membersOf s s.cur, (getCtx s m).hcallOut = false

/-- A run (1 the replay, 2 the third) of an entry has ended in a context: it has halted before its deadline with no engine work left
(R394, R395). -/
def runEnded (s : State) (c run : Nat) (e : Entry) : Prop :=
  isMem c = false ∧ engineWork s c = false ∧ (getCtx s c).mode = .halted ∧ (getCtx s c).run = run ∧ entOfCtx s c = some e ∧
  e.transit.runCtx = some c ∧ e.transit.phase = run + 2 ∧ dieCounter s c < (getCtx s c).deadline.toNat

/-- A selected task is released (R395, R396): its entry is gone, and in confirm mode its counter is signalled, aborted or not. -/
def selectedGone (s t : State) (c : Nat) (e : Entry) (abt : Bool) : Prop :=
  (∀ f ∈ (getDie t (homeDie s c)).entries, f.order ≠ e.order) ∧
  (e.transit.conf = true → e.counter ≠ 0 →
    ∃ v, (⟨e.counter, abt, false, v⟩ : Signal) ∈ (getDie t (homeDie s c)).signals) ∧
  (e.transit.conf = false → (getDie t (homeDie s c)).signals = (getDie s (homeDie s c)).signals)

/-- A core confirmed once: every 4,096th confirmation lowers its score by 1 (R397). -/
def confirmedOnce (s t : State) (core : Nat) : Prop :=
  (getCore t core).confirms = (getCore s core).confirms + 1 ∧
  (getCore t core).score = (if ((getCore s core).confirms + 1) % 4096 = 0 then (getCore s core).score - 1 else (getCore s core).score)

/-- A core's score raised (R397), to at most 65,535. -/
def raisedBy (s t : State) (core n : Nat) : Prop := (getCore t core).score = min 65535 ((getCore s core).score + n)

/-- The supervisor's fault queue has one entry more, REPLAY_MISMATCH with an outcome (R400). -/
def mismatchTold (s t : State) (c : Nat) (e : Entry) (outcome : Nat) : Prop :=
  ∀ p, getPart? s e.part = some p → ∃ q, getPart? t e.part = some q ∧
    faultsOf q (homeDie s c) = faultsOf p (homeDie s c) ++ [mismatchEntry t e outcome]

/-- A request of the hypervisor is decided with a status and a result, or waits (R243). -/
def hvAnswered (t : State) (r : HReq) (status result : Nat) : Prop :=
  ∃ q, findReq t r.id = some q ∧ q.stage = 2 ∧ q.status = status ∧ q.result = result
def hvWaiting (t : State) (r : HReq) : Prop := ∃ q, findReq t r.id = some q ∧ q.stage = 1

/-- The request that an event names, at a stage. -/
def requestAt (s : State) (r : HReq) (stage : Nat) : Prop := findReq s (argN s 0) = some r ∧ r.stage = stage

/- ---------------------------------------------------------------- approximable regions -/

/-- The context that has the turn makes no replay or third run of a task, in which an event of R390 is a failure (R394). -/
def inOriginal (s : State) : Prop := ∀ e, entOfCtx s s.cur = some e → e.transit.runCtx ≠ some s.cur

/-- The inputs, the descriptor and the threshold of an apx.beg are in order, and APXCTL.EN is set, outside a replay (R248, R394). -/
def beginsApx (s : State) (v : VReg) (a b : Reg) : Prop :=
  apxOk (me s) v (wBits (val s a) 0 32) (val s b).toNat = true ∧ wBits (me s).apxctl 0 1 = 1 ∧ (me s).run = 0 ∧ inOriginal s

/-- The inputs of an apx.beg. -/
def apxIn (s : State) (v : VReg) (b : Reg) : List Nat := f32Lanes (me s) v.val ((apxKey s (val s b).toNat).nin + 1)

/-- The cache entry that an apx.beg finds: its inputs are finite and the core's cache has the key. -/
def apxHit (s : State) (v : VReg) (b : Reg) (e : SurrEnt) : Prop :=
  (apxIn s v b).all finiteF = true ∧ (getCore s (coreOf s.cur)).surr.find? (fun e => e.key == apxKey s (val s b).toNat) = some e

/-- The oldest observation of a die's buffer may be taken: no reset goes before it and its values are finite (R409, R420). -/
def takes (s : State) (o : Obs) (rest : List Obs) : Prop :=
  (getDie s (argN s 0)).obsBuf = o :: rest ∧ (∀ r ∈ (getDie s (argN s 0)).resets, ¬(r.key = o.key ∧ r.id ≤ o.id)) ∧ (o.xs ++ o.ys).all finiteF = true

/-- The region of a die that an event names. -/
def regionAt (s : State) (r : Region) : Prop := (getDie s (argN s 0)).regions.find? (fun r => r.id == argN s 1) = some r

/- ---------------------------------------------------------------- the host and the package -/

/-- The launch queue that an event names by partition and number. -/
def queueAt (s : State) (x : LaunchQ) : Prop := getQueue s (argN s 0) (argN s 1) = some x

/-- A Span link has retired (R456): the flits of its replay buffer wait on the first link that remains to the same package, with no
failure of theirs counted there. -/
def linkGone (s t : State) (n : Nat) (k : LinkSt) : Prop :=
  (getLink t n).retired = true ∧ (getLink t n).replay = [] ∧
  ∀ m, otherLink s n = some m → getLink t m = { getLink s m with
    replay := (getLink s m).replay ++ k.replay.map (fun f => { f with fails := 0 }) }

/-- A launch queue that takes commands, with `n` submitted and not taken. -/
def takesCommands (x : LaunchQ) (n : Nat) : Prop :=
  x.torn = false ∧ x.stopped = false ∧ x.bells = [] ∧ ctrDiff x.submit x.accepted = n

/-- A doorbell write that a queue keeps for the end of a migration's stop (R450). -/
def bellKept (s t : State) (x : LaunchQ) (b : Nat × Nat) : Prop :=
  getQueue t (argN s 0) (argN s 1) = some { x with bells := x.bells ++ [b] } ∧
  (.commandTake, EvArg.of [argN s 0, argN s 1]) ∈ t.agenda ∧ t.mem = s.mem ∧ t.ctxs = s.ctxs

/-- A partition may be created with these parameters (R441). -/
def creatable (s : State) (part : Nat) (c : PartCfg) : Prop := s.power = .running ∧ canCreate s part c = true


end Sys2Proof.Claims
end

