-- ==== Sys2Proof/Certificates/Slice0/Obligations.lean ====
section
/-! DEFINITION. The statements. -/

open Sys2Proof Sys2Proof.Machine Sys2Proof.Claims


/-- R92 to R97, R101: the two-register integer instructions in bit-vector arithmetic of the width, every width and saturation mode.
The next state is the old one with the destination written (g0 discards, R15) and the instruction retired: no other register, no
flag, no special register, no other context and no byte of memory changes. An armed fault in add has a clause of its own.
R98 to R101: the instructions of one register and an immediate.
R97: sel; and R406: an add with an armed fault in the core gives the sum with one bit inverted, and the fault is spent.
R255: a root instruction outside root mode and inside it computes as its native counterpart at width d with wrap.
The model's readings and choices it rests on: log 139. -/
def Obligations.IntegerResults : Prop :=
  (∀ (s : State) (i : Instr) (d a b : Reg) (wu : Nat) (f : Word → Word → Word),
    twoRegisters i = some (d, a, b, wu, f) → wellFormed i = true → notPort d → notPort a → notPort b → Ready s wu →
    (∀ sat wd, i = .add d a b sat wd → armedBit s = none) →
    exec i s = .next (wrote s s.cur wu 4 d (f (val s a) (val s b)))) ∧
  (∀ (s : State) (i : Instr) (d a : Reg) (f : Word → Word),
    oneRegister i = some (d, a, f) → wellFormed i = true → notPort d → notPort a → Ready s 1 →
    exec i s = .next (wrote s s.cur 1 4 d (f (val s a)))) ∧
  ((∀ (s : State) (d a b c : Reg), notPort d → notPort a → notPort b → notPort c → Ready s 1 →
    exec (.sel d a b c) s = .next (wrote s s.cur 1 4 d (if val s c = 0 then val s b else val s a))) ∧
  (∀ (s : State) (d a b : Reg) (sat : Sat) (wd : Width) (k : Nat), notPort d → notPort a → notPort b → Ready s 1 →
    armedBit s = some k →
    exec (.add d a b sat wd) s = .next (wrote
      (modCore s (coreOf s.cur) (fun q => { q with armed := none })) s.cur 1 4 d
      (addVal sat wd (val s a) (val s b) ^^^ w64 (2 ^ k))))) ∧
  ((∀ (s : State) (i : Instr) (d a b : KReg) (f : Word → Word → Word), rootTwoRegisters i = some (d, a, b, f) → Ready s 1 →
    exec i s = .next (wrote s s.cur 1 4 (kreg d) (f (val s (kreg a)) (val s (kreg b))))) ∧
  (∀ (s : State) (d a : KReg) (i : Fin 65536), Ready s 1 →
    exec (.kAddi d a i) s = .next (wrote s s.cur 1 4 (kreg d) (val s (kreg a) + (BitVec.ofNat 16 i.val).signExtend 64))) ∧
  (∀ (s : State) (d : KReg) (k : Fin 4) (c : Fin 65536), Ready s 1 →
    exec (.kLdk d k c) s = .next (wrote s s.cur 1 4 (kreg d)
      ((val s (kreg d) &&& ~~~ ((0xFFFF : Word) <<< (16 * k.val))) ||| (BitVec.ofNat 64 c.val <<< (16 * k.val))))))

/-- R102, R110, R255: a conditional branch goes to its target when the comparison holds and to the next word otherwise; it writes
no register. In root mode the target lies in the translator section (R260).
R102 to R104, R255: jumps, calls and returns; a call writes the address of the next word to its link register. A register
target below 2^48 and a multiple of 4 is taken.
R104: a register target of 2^48 or above raises ADDRESS, and one that is no multiple of 4 ALIGN, with the target in the record and no
link written. R110: at the last word of an active body a branch, jump, call or return raises ILLEGAL with reason 11.
The model's readings and choices it rests on: log 139. -/
def Obligations.BranchesAndCalls : Prop :=
  (∀ (s : State) (i : Instr) (a b : Reg) (disp : Fin 65536) (p : Word → Word → Bool),
    branches i = some (a, b, disp, p) → notPort a → notPort b → Ready s 1 → bodyEnds (me s) (me s).pc.toNat = false →
    inReach s (target16 (me s).pc disp) →
    exec i s = .next (modCtx s s.cur (jumped s.cur 1
      (if p (val s a) (val s b) then target16 (me s).pc disp else (me s).pc + 4)))) ∧
  ((∀ (s : State) (t : Fin 67108864), Ready s 1 → bodyEnds (me s) (me s).pc.toNat = false → inReach s (target26 (me s).pc t) →
    exec (.jmp t) s = .next (modCtx s s.cur (jumped s.cur 1 (target26 (me s).pc t))) ∧
    exec (.kJmp t) s = .next (modCtx s s.cur (jumped s.cur 1 (target26 (me s).pc t))) ∧
    exec (.call t) s = .next (modCtx s s.cur (fun x => jumped s.cur 1 (target26 (me s).pc t) (setReg x 1 (link s)))) ∧
    exec (.kCall t) s = .next (modCtx s s.cur (fun x => jumped s.cur 1 (target26 (me s).pc t) (setReg x 1 (link s))))) ∧
  (∀ (s : State) (a : Reg), notPort a → Ready s 1 → bodyEnds (me s) (me s).pc.toNat = false →
    goodTarget (val s a) → inReach s (pc48 (val s a).toNat) →
    exec (.jr a) s = .next (modCtx s s.cur (jumped s.cur 1 (pc48 (val s a).toNat)))) ∧
  (∀ (s : State) (a : KReg), Ready s 1 → bodyEnds (me s) (me s).pc.toNat = false →
    goodTarget (val s (kreg a)) → inReach s (pc48 (val s (kreg a)).toNat) →
    exec (.kJr a) s = .next (modCtx s s.cur (jumped s.cur 1 (pc48 (val s (kreg a)).toNat)))) ∧
  (∀ (s : State) (d a : Reg), notPort d → notPort a → Ready s 1 → bodyEnds (me s) (me s).pc.toNat = false →
    (me s).follower = false → goodTarget (val s a) → inReach s (pc48 (val s a).toNat) →
    exec (.callr d a) s = .next (modCtx s s.cur (fun x => jumped s.cur 1 (pc48 (val s a).toNat) (setReg x d (link s))))) ∧
  (∀ (s : State), Ready s 1 → bodyEnds (me s) (me s).pc.toNat = false → goodTarget (val s 1) →
    inReach s (pc48 (val s 1).toNat) →
    exec .ret s = .next (modCtx s s.cur (jumped s.cur 1 (pc48 (val s 1).toNat))))) ∧
  ((∀ (s : State) (i : Instr) (a : Reg), registerJump i = some a → notPort a → Ready s 1 → bodyEnds (me s) (me s).pc.toNat = false →
    (me s).follower = false → (me s).root = none →
    (2 ^ 48 ≤ (val s a).toNat →
      exec i s = .next (takeTrap s s.cur ⟨cADDRESS, (val s a).toNat, true, 0, 0, none⟩ (me s).pc.toNat)) ∧
    ((val s a).toNat < 2 ^ 48 → (val s a).toNat % 4 ≠ 0 →
      exec i s = .next (takeTrap s s.cur ⟨cALIGN, (val s a).toNat, true, 0, 0, none⟩ (me s).pc.toNat))) ∧
  (∀ (s : State) (i : Instr), transfers i = true → Ready s 1 → (∃ l : Fin 4, (me s).lc[l] ≠ 0 ∧ (me s).le[l].toNat = (me s).pc.toNat) →
    exec i s = .next (takeTrap s s.cur (wordTrap cILLEGAL i 11) (me s).pc.toNat)))

/-- R107, R108, R111: loop enters a body or, for a count of zero, passes over it; loopx ends its level and every inner one.
R109: at an address where active bodies end, the innermost is stepped, and each further one as long as those inside it are on their
last turn; a stepped level has one turn less, one with more turns left sends the pc to its first word, and where none has, every one of
them is left. Levels that are not stepped keep their counts. Stated at the instructions of one register.
The model's readings and choices it rests on: log 139. -/
def Obligations.HardwareLoops : Prop :=
  ((∀ (s : State) (l : Fin 4) (c : Reg) (n : Fin 4096), notPort c → Ready s 1 →
    (∀ j : Fin 4, l ≤ j → (me s).lc[j] = 0) →
    (∀ j : Fin 4, j < l → (me s).lc[j] = 0 ∨
      ((me s).ls[j].toNat ≤ (me s).pc.toNat + 4 ∧ (me s).pc.toNat + 4 * (n.val + 1) ≤ (me s).le[j].toNat)) →
    (me s).pc.toNat + 4 * (n.val + 1) < 2 ^ 48 →
    exec (.loop l c n) s = .next (if val s c = 0
      then modCtx s s.cur (retiredTo s.cur 1 4 (pc48 ((me s).pc.toNat + 4 * (n.val + 1) + 4)))
      else modCtx s s.cur (fun x => retired s.cur 1 4 { x with
        ls := x.ls.set l (w64 (x.pc.toNat + 4)), le := x.le.set l (w64 (x.pc.toNat + 4 * (n.val + 1)))
        lc := x.lc.set l (val s c) }))) ∧
  (∀ (s : State) (i : Instr) (l : Nat), loopxLevel i = some l → Ready s 1 →
    exec i s = .next (modCtx s s.cur (fun x => retired s.cur 1 4 { x with
      lc := Vector.ofFn (fun j : Fin 4 => if l ≤ j.val then 0 else x.lc[j]) })))) ∧
  (∀ (s : State) (i : Instr) (d a : Reg) (f : Word → Word), oneRegister i = some (d, a, f) → wellFormed i = true → notPort d → notPort a →
    Ready s 1 →
    let ends (l : Fin 4) : Prop := (me s).lc[l] ≠ 0 ∧ (me s).le[l].toNat = (me s).pc.toNat
    let stepped (l : Fin 4) : Prop := ends l ∧ ∀ j : Fin 4, l < j → ends j → (me s).lc[j] = 1
    ∃ t, exec i s = .next t ∧
      (∀ l : Fin 4, (stepped l → (me t).lc[l] = (me s).lc[l] - 1) ∧ (¬stepped l → (me t).lc[l] = (me s).lc[l])) ∧
      (∀ l : Fin 4, stepped l → (me s).lc[l] ≠ 1 → (me t).pc = pc48 (me s).ls[l].toNat) ∧
      ((∀ l : Fin 4, stepped l → (me s).lc[l] = 1) → (me t).pc = (me s).pc + 4))

/-- R115, R116, R119, R330: a plain load whose checks pass writes the bytes it reads, extended as its size says; a SIMD load fills
its register. What nearLoad answers is the subject of the clauses after.
R116, R117, R330: a context reads its own queued stores first; without a choice of an earlier position it reads the newest
bytes of the coherence lists; a load of cluster memory first performs its earlier stores to cluster memory. The state that a load
leaves keeps every byte as the context sees it, and every register.
The model's readings and choices it rests on: log 45, 46, 139. -/
def Obligations.NearLoads : Prop :=
  ((∀ (s : State) (i : Instr) (d b : Reg) (z : LdSize) (off : Word), loads i = some (d, b, z, off) → notPort d → notPort b →
    Ready s 1 → nearCheck s s.cur (val s b + off).toNat z.width.bytes .load = none →
    exec i s = .next (wrote (nearLoad s s.cur (val s b + off).toNat z.width.bytes).2 s.cur 1 11 d
      (loaded z (nearLoad s s.cur (val s b + off).toNat z.width.bytes).1))) ∧
  (∀ (s : State) (v : VReg) (b : Reg) (o : Fin 8192), notPort b → ReadyCompute s 1 →
    nearCheck s s.cur (val s b + wordOff o 16).toNat 16 .load = none →
    exec (.ldV v b o) s = .next (modCtx (nearLoad s s.cur (val s b + wordOff o 16).toNat 16).2 s.cur
      (fun x => retired s.cur 1 11
        { x with v := x.v.set v (BitVec.ofNat 128 (leNat (nearLoad s s.cur (val s b + wordOff o 16).toNat 16).1)) })))) ∧
  (∀ (s : State) (c ea n : Nat), shared c ea = true → s.choices = [] → (∀ p ∈ s.past, p.stamp ≤ s.stamp) →
    (nearLoad s c ea n).1 = (List.range n).map (fun i => seenByte s c (phys c ea + i)) ∧
    (∀ a, seenByte (nearLoad s c ea n).2 c a = seenByte s c a) ∧
    (getCtx (nearLoad s c ea n).2 c).g = (getCtx s c).g ∧ (getCtx (nearLoad s c ea n).2 c).v = (getCtx s c).v)

/-- R115, R329: a plain store whose checks pass; where the memory has other parties it enters the store queue.
R115, R116, R329: what a store changes of memory as its context sees it: exactly the bytes of its width at its address.
The model's readings and choices it rests on: log 46, 139. -/
def Obligations.NearStores : Prop :=
  ((∀ (s : State) (i : Instr) (b d : Reg) (z : Width) (off : Word), stores i = some (b, d, z, off) → notPort b → notPort d →
    Ready s 1 → nearCheck s s.cur (val s b + off).toNat z.bytes .store = none →
    exec i s = .next (did (nearStore s s.cur (val s b + off).toNat (storedBytes z (val s d))) s.cur 1 11)) ∧
  (∀ (s : State) (v : VReg) (b : Reg) (o : Fin 8192), notPort b → ReadyCompute s 1 →
    nearCheck s s.cur (val s b + wordOff o 16).toNat 16 .store = none →
    exec (.stV v b o) s = .next (did (nearStore s s.cur (val s b + wordOff o 16).toNat
      (leBytes 16 ((me s).v[v]).toNat)) s.cur 1 11))) ∧
  (∀ (s : State) (c ea : Nat) (bs : List Byte) (k : Nat), 0 < k → bs.length = k → nearCheck s c ea k .store = none →
    (∀ a, a < storeAddr c ea ∨ storeAddr c ea + k ≤ a →
      seenByte (nearStore s c ea bs) c a = seenByte s c a) ∧
    (∀ j (h : j < bs.length), (shared c ea = true → seenByte (nearStore s c ea bs) c (storeAddr c ea + j) = bs[j]) ∧
      (shared c ea = false → memGet (nearStore s c ea bs).mem (storeAddr c ea + j) = bs[j])) ∧
    (getCtx (nearStore s c ea bs) c).g = (getCtx s c).g ∧ (getCtx (nearStore s c ea bs) c).v = (getCtx s c).v ∧
    (getCtx (nearStore s c ea bs) c).st = (getCtx s c).st)

/-- R119 to R121, R329, R331: accesses with an order end the region; a load with acq or sc merges the views of the releases it
reads, a store with rel or sc performs after every earlier store, at once or as a later step, and carries the view.
R324, R329, R331, R338: before a store with rel or sc performs, its context has no earlier store left to perform. One with sc performs as
it retires, one with rel then or, where the next choice says so, later; the newest bytes at its address are then the bytes stored, and it
carries a view in which all that its context saw and stored before is no older. A marked load of memory with other parties reads the newest
bytes or the context's own queued ones; one with acq that reads a release keeps every later plain load of its context, whatever the
choices, from a value that a store had replaced in the view that the release carries.
R329: the oldest store of a context's queue performs: its bytes are the newest of memory, no other byte of memory changes, and
the stores behind it stand as they were; a fence among them carries on the view.
R116, R117, R123, R124, R329: an atomic gives the old value, sign-extended from its width, and writes the new value of its table at once.
Where the memory has other parties the earlier stores of its context that it must follow perform first: with rel or sc every one, so that
none is left; else at least those to its own bytes. No other byte of memory changes.
The model's readings and choices it rests on: log 45, 116, 117, 121, 122, 125, 139. -/
def Obligations.OrderedAccesses : Prop :=
  ((∀ (s : State) (d a : Reg) (o5 : Fin 32) (z : LdSize) (sc : Scope) (o : Order), notPort d → notPort a → Ready s 1 →
    o ≠ .plain → nearCheck s s.cur (val s a + w64 (o5.val * z.width.bytes)).toNat z.width.bytes .load = none →
    exec (.ldScoped d a o5 z sc o) s = .next (endRegion (wrote
      (markedLoad s s.cur (val s a + w64 (o5.val * z.width.bytes)).toNat z.width.bytes (scopeCode sc) o).2 s.cur 1 11 d
      (loaded z (markedLoad s s.cur (val s a + w64 (o5.val * z.width.bytes)).toNat z.width.bytes (scopeCode sc) o).1)) s.cur)) ∧
  (∀ (s : State) (d a : Reg) (o5 : Fin 32) (z : Width) (sc : Scope) (o : Order), notPort d → notPort a → Ready s 1 →
    o ≠ .plain → nearCheck s s.cur (val s a + w64 (o5.val * z.bytes)).toNat z.bytes .store = none →
    exec (.stScoped d a o5 z sc o) s = .next (endRegion (did
      (releaseStore s s.cur (val s a + w64 (o5.val * z.bytes)).toNat (scopeCode sc) o (storedBytes z (val s d))) s.cur 1 11)
      s.cur)) ∧
  (∀ (s : State) (sc : Scope) (o : Order), Ready s 1 →
    exec (.fence sc o) s = .next (endRegion (did
      (let s0 := if o = .sc then drain s s.cur else s
       let s1 := if o = .acq ∨ o = .sc then modCtx s0 s.cur (fenceAcquire (scopeCode sc) (coreOf s.cur)) else s0
       if o = .rel ∨ o = .sc then fenceRelease s1 s.cur (scopeCode sc) else s1) s.cur 1 4) s.cur))) ∧
  ((∀ (s : State) (c ea scope : Nat) (o : Order) (bs : List Byte), shared c ea = true → bs ≠ [] →
    let t := releaseStore s c ea scope o bs
    (o = .sc ∨ s.choices.headD 0 = 0 →
      (getCtx t c).stq = [] ∧ memRead t.mem (phys c ea) bs.length = bs ∧
      (∀ a, a < phys c ea ∨ phys c ea + bs.length ≤ a → memGet t.mem a = memGet (drain s c).mem a) ∧
      ∃ r ∈ t.released, r.addr = phys c ea ∧ r.len = bs.length ∧ r.carry.scope = scope ∧ r.carry.core = coreOf c ∧
        (∀ b, ((getCtx s c).view.get? b).getD 0 ≤ (r.carry.view.get? b).getD 0) ∧
        ∀ e ∈ (getCtx s c).stq, ∀ i, i < e.bytes.length → s.stamp < (r.carry.view.get? (e.addr + i)).getD 0) ∧
    (o ≠ .sc → s.choices.headD 0 ≠ 0 →
      (getCtx t c).stq = [⟨phys c ea, bs, [⟨scope, coreOf c, []⟩]⟩] ∧ t.mem = (drain s c).mem)) ∧
  (∀ (s : State) (c ea n scope : Nat) (o : Order), shared c ea = true →
    (markedLoad s c ea n scope o).1 = (List.range n).map (fun i => seenByte s c (phys c ea + i))) ∧
  (∀ (s : State) (c ea n scope i b p : Nat) (r : Released) (ch : List Nat), shared c ea = true → r ∈ s.released → r.stamp ≤ s.stamp →
    r.overAt = none → i < n → r.addr ≤ phys c ea + i → phys c ea + i < r.addr + r.len → ownByte (getCtx s c).stq (phys c ea + i) = none →
    scopeHas r.carry.scope r.carry.core (coreOf c) = true → scopeHas scope (coreOf c) r.carry.core = true →
    r.carry.view.get? b = some p → ownByte (getCtx s c).stq b = none →
    let t := (markedLoad s c ea n scope .acq).2
    ∃ v, plainBytes { t with choices := ch } c b 1 = [v] ∧
      (v = memGet s.mem b ∨ ∃ q ∈ s.past, q.addr = b ∧ p < q.stamp ∧ v = q.old))) ∧
  (∀ (s : State) (c : Nat) (e : StoreEnt) (rest : List StoreEnt), argN s 0 = c → (getCtx s c).stq = e :: rest → e.bytes ≠ [] →
    ∃ t, exec .storePerform s = .next t ∧ memRead t.mem e.addr e.bytes.length = e.bytes ∧
      (∀ a, a < e.addr ∨ e.addr + e.bytes.length ≤ a → memGet t.mem a = memGet s.mem a) ∧
      (getCtx t c).stq.map (fun f => (f.addr, f.bytes)) = rest.map (fun f => (f.addr, f.bytes)) ∧ t.stamp = s.stamp + 1 ∧
      (getCtx t c).g = (getCtx s c).g ∧ (getCtx t c).pc = (getCtx s c).pc) ∧
  (∀ (s : State) (i : Instr) (op : AmoOp) (d a b : Reg) (w32 : Bool) (sc : Scope) (o : Order),
    atomics i = some (op, d, a, b, w32, sc, o) → notPort d → notPort a → notPort b → ReadyCompute s 2 →
    nearCheck s s.cur (val s a).toNat (if w32 then 4 else 8) .atomic = none →
    let n := if w32 then 4 else 8
    let p := phys s.cur (val s a).toNat
    let s0 := if shared s.cur (val s a).toNat then amoDrain s s.cur p n o else s
    let old : BitVec (8 * n) := BitVec.ofNat (8 * n) (memNat s0.mem p n)
    let new : BitVec (8 * n) := amoValue op old ((val s b).setWidth (8 * n)) ((val s d).setWidth (8 * n))
    ∃ t, exec i s = .next t ∧ getReg (me t) d = (if d = 0 then 0 else old.signExtend 64) ∧
      memRead t.mem p n = leBytes n new.toNat ∧ (∀ q, q < p ∨ p + n ≤ q → memGet t.mem q = memGet s0.mem q) ∧
      (∀ r : Reg, notPort r → r ≠ d → getReg (me t) r = val s r) ∧ (me t).st = (me s).st ∧
      (me t).charge = (me s).charge + 2 ∧
      (shared s.cur (val s a).toNat = true → (o = .rel ∨ o = .sc → (me t).stq = []) ∧
        ∀ e ∈ (me t).stq, e.addr + e.bytes.length ≤ p ∨ p + n ≤ e.addr))

/-- R131 to R133: bar.init makes a barrier; an arrival sets its bit and returns the phase, and the last one of a phase turns the
phase, with the members that dropped counted out, and ends every wait; bar.wait ends at another phase than the one given; bar.q gives the state.
R88, R129, R133, R136: a bar.wait at the phase given and a rng.take of an empty ring wait: the context joins the object's
waiters once, nothing retires, and no register changes.
The model's readings and choices it rests on: log 107, 117, 139. -/
def Obligations.Barriers : Prop :=
  ((∀ (s : State) (a b : Reg) (i member expected : Nat), notPort a → notPort b → ReadyCompute s 2 → slotAt s (val s a) i 0 →
    (val s b).toNat = member * 2 ^ 32 + expected → 0 < expected → expected ≤ 32 → member < 2 ^ 32 →
    expected ≤ popCount 32 member → (objAt s i).waiters = [] →
    exec (.barInit a b) s = .next (objDid s i { objAt s i with words := barWords 0 0 expected member 0 })) ∧
  (∀ (s : State) (ins : Instr) (d a : Reg) (drop : Bool) (i : Nat), arrivals ins = some (d, a, drop) → notPort d → notPort a →
    ReadyCompute s 2 → slotAt s (val s a) i 1 →
    bitAt (barMember (objAt s i)) (me s).barIdx = true → bitAt (barArrived (objAt s i)) (me s).barIdx = false →
    let o := objAt s i
    let arrived := barArrived o + 2 ^ (me s).barIdx
    let member := if drop then barMember o - 2 ^ (me s).barIdx else barMember o
    let drops := if drop then barDrops o + 1 else barDrops o
    let words := if popCount 32 arrived = barExpected o then barWords (barPhase o + 1) 0 (barExpected o - drops) member 0
      else barWords (barPhase o) drops (barExpected o) member arrived
    let waiters := if popCount 32 arrived = barExpected o then [] else o.waiters
    exec ins s = .next (objWrote s i { o with words := words, waiters := waiters } true d (barPhase o))) ∧
  (∀ (s : State) (d a b : Reg) (i : Nat), notPort d → notPort a → notPort b → ReadyCompute s 2 → slotAt s (val s a) i 1 →
    barPhase (objAt s i) ≠ (val s b).toNat % 2 ^ 16 →
    exec (.barWait d a b) s = .next (objWrote s i
      { objAt s i with waiters := (objAt s i).waiters.filter (· != s.cur) } true d (barPhase (objAt s i)))) ∧
  (∀ (s : State) (d a : Reg) (i : Nat), notPort d → notPort a → ReadyCompute s 2 → slotAt s (val s a) i 1 →
    let o := objAt s i
    exec (.barQ d a) s = .next (objWrote s i o false d
      (barArrived o * 2 ^ 32 + barPhase o * 2 ^ 16 + barDrops o * 2 ^ 8 + barExpected o)))) ∧
  ((∀ (s : State) (d a b : Reg) (i : Nat), notPort d → notPort a → notPort b → ReadyCompute s 2 → slotAt s (val s a) i 1 →
    barPhase (objAt s i) = (val s b).toNat % 2 ^ 16 → (me s).mode = .running →
    ∃ t, exec (.barWait d a b) s = .next t ∧ (me t).waiting = true ∧ (me t).pc = (me s).pc ∧ (me t).g = (me s).g ∧
      (me t).charge = (me s).charge ∧ s.cur ∈ (objAt t i).waiters ∧ (objAt t i).words = (objAt s i).words) ∧
  (∀ (s : State) (d a b : Reg) (i n m : Nat), notPort d → notPort a → notPort b → ReadyCompute s 2 → slotAt s (val s a) i 2 →
    (ringOf (objAt s i)).pub = (ringOf (objAt s i)).take → (val s b).toNat = m * 2 ^ 8 + n → 0 < n →
    n ≤ (ringOf (objAt s i)).cap → n < 256 → m ≤ idxDiff (ringOf (objAt s i)).take (ringOf (objAt s i)).free → m < 256 →
    (me s).mode = .running →
    ∃ t, exec (.rngTake d a b) s = .next t ∧ (me t).waiting = true ∧ (me t).pc = (me s).pc ∧ (me t).g = (me s).g ∧
      (me t).charge = (me s).charge ∧ s.cur ∈ (objAt t i).waiters ∧ (objAt t i).words = (objAt s i).words))

/-- R134 to R136: rings. A ring is made with its base, slot size and capacity; a reservation that fits moves RSV and returns its
count and first index, and one that does not fit returns all ones; publishing marks slots and moves PUB over those that stand
published without a gap; taking gives back slots and takes published ones for the taker at the head; rng.q counts both.
R136: PUB moves over the slots that stand published from it on without a gap, clears their marks and stops at the first slot
that is not; the marks of other slots and the other fields stay.
The model's readings and choices it rests on: log 107, 117, 139. -/
def Obligations.Rings : Prop :=
  ((∀ (s : State) (a b : Reg) (i base sz cap : Nat), notPort a → notPort b → ReadyCompute s 2 → slotAt s (val s a) i 0 →
    (val s b).toNat = base * 2 ^ 32 + sz * 2 ^ 16 + cap * 2 ^ 8 → 1 ≤ cap → cap ≤ 64 → 8 ≤ sz → sz ≤ 4096 → 8 ∣ sz → 8 ∣ base →
    0x100000 ≤ base → base + cap * sz ≤ 0x200000 → (objAt s i).waiters = [] →
    exec (.rngInit a b) s = .next (objDid s i { objAt s i with words := ringWords ⟨base, sz, cap, 0, 0, 0, 0, 0⟩ })) ∧
  (∀ (s : State) (d a b : Reg) (i : Nat), notPort d → notPort a → notPort b → ReadyCompute s 2 → slotAt s (val s a) i 2 →
    let o := objAt s i
    let r := ringOf o
    let n := (val s b).toNat
    1 ≤ n → n ≤ r.cap →
    exec (.rngRsv d a b) s = .next (if idxDiff r.rsv r.free + n ≤ r.cap
      then objWrote s i { o with words := ringWords { r with rsv := (r.rsv + n) % 2 ^ 32 } } true d (n * 2 ^ 32 + r.rsv)
      else objWrote s i o true d (2 ^ 64 - 1))) ∧
  (∀ (s : State) (a b : Reg) (i f n : Nat), notPort a → notPort b → ReadyCompute s 2 → slotAt s (val s a) i 2 →
    let o := objAt s i
    let r := ringOf o
    (val s b).toNat = n * 2 ^ 32 + f → f < 2 ^ 32 → 1 ≤ n → n ≤ 64 → 0 < r.cap →
    (∀ j < n, idxDiff ((f + j) % 2 ^ 32) r.pub < idxDiff r.rsv r.pub ∧ bitAt r.pbmap ((f + j) % 2 ^ 32 % r.cap) = false) →
    exec (.rngPub a b) s = .next (objDid s i { o with words := ringWords (coverPub 64 { r with
      pbmap := (List.range n).foldl (fun m j => if bitAt m ((f + j) % 2 ^ 32 % r.cap) then m
        else m + 2 ^ ((f + j) % 2 ^ 32 % r.cap)) r.pbmap }) })) ∧
  (∀ (s : State) (d a b : Reg) (i t m : Nat), notPort d → notPort a → notPort b → ReadyCompute s 2 → slotAt s (val s a) i 2 →
    let o := objAt s i
    let r := ringOf o
    (val s b).toNat = m * 2 ^ 8 + t → t ≤ r.cap → t < 256 → m < 256 → m ≤ idxDiff r.take r.free →
    (t = 0 ∨ (r.pub ≠ r.take ∧ o.waiters.headD s.cur = s.cur)) →
    let k := min t (idxDiff r.pub r.take)
    exec (.rngTake d a b) s = .next (objWrote s i { o with
      words := ringWords { r with free := (r.free + m) % 2 ^ 32, take := (r.take + k) % 2 ^ 32 }
      waiters := o.waiters.filter (· != s.cur) } true d (k * 2 ^ 32 + r.take))) ∧
  (∀ (s : State) (d a : Reg) (i : Nat), notPort d → notPort a → ReadyCompute s 2 → slotAt s (val s a) i 2 →
    let o := objAt s i
    let r := ringOf o
    exec (.rngQ d a) s = .next (objWrote s i o false d ((r.cap - idxDiff r.rsv r.free) * 2 ^ 32 + idxDiff r.pub r.take)))) ∧
  (∀ (r : Ring), 0 < r.cap → r.cap ≤ 64 → r.pub < 2 ^ 32 →
    let r2 := coverPub 64 r
    let k := idxDiff r2.pub r.pub
    let slot (j : Nat) : Nat := (r.pub + j) % 2 ^ 32 % r.cap
    k ≤ r.cap ∧ (∀ j < k, bitAt r.pbmap (slot j) = true) ∧ bitAt r2.pbmap (r2.pub % r.cap) = false ∧
    (∀ x, bitAt r2.pbmap x = true ↔ bitAt r.pbmap x = true ∧ ∀ j < k, slot j ≠ x) ∧
    r2.rsv = r.rsv ∧ r2.free = r.free ∧ r2.take = r.take ∧ r2.cap = r.cap ∧ r2.base = r.base ∧ r2.slotsz = r.slotsz)

/-- R15 to R17, R126: every instruction of general registers with source fields that name ports takes the oldest words of their queues
in the order of the fields and counts them; with too few words it waits; a destination field that names a port sends the result to the
bound queue and counts it. A branch compares the words it takes.
R126, R127: ppoll gives the words in a queue and the free entries at the bound destination as last reported, 15 when the port
is unbound; pdrain empties the queue and gives the count; both mark the task.
R126, R127: the oldest word on its way from a core to a queue joins that queue at its end; a free count that arrives is what
ppoll gives from then on.
R128: a port write to a full queue waits, and its time runs from there; one stalled for 2^16 cycles sends a probe to the core that owns the full queue; a probe goes on at a core with a
stalled write and is dropped at one without; back at its origin it sends a notice to the lowest context of the ring; a notice is
held by a context that is still stalled, and its write then raises PORT_DEADLOCK.
The model's readings and choices it rests on: log 47, 107, 127, 139. -/
def Obligations.Ports : Prop :=
  ((∀ (s : State) (i : Instr) (d : Reg) (rs : List Reg) (wu : Nat) (f : List Word → Word) (ws : List Word)
    (q : Vector (List PortWord) 4), operands i = some (d, rs, wu, f) → wellFormed i = true →
    (∀ a b sat wd, i = .add d a b sat wd → armedBit s = none) → notPort d → ReadyCompute s wu →
    served (me s) rs (getCore s (coreOf s.cur)).rq = some (ws, q) → wordsInService s → inOriginal s →
    ∃ t, exec i s = .next t ∧ (∀ r, notPort r → getReg (me t) r = if r = d ∧ d ≠ 0 then f ws else getReg (me s) r) ∧
      (getCore t (coreOf s.cur)).rq = q ∧ (∀ k : Fin 4, (me t).recv[k] =
        (me s).recv[k] + BitVec.ofNat 32 ((getCore s (coreOf s.cur)).rq[k].length - q[k].length)) ∧ t.mem = s.mem) ∧
  (∀ (s : State) (i : Instr) (d : Reg) (rs : List Reg) (wu : Nat) (f : List Word → Word), operands i = some (d, rs, wu, f) →
    wellFormed i = true → ReadyCompute s wu → served (me s) rs (getCore s (coreOf s.cur)).rq = none → wordsInService s →
    exec i s = .next (markWait (noStall s s.cur) s.cur)) ∧
  (∀ (s : State) (i : Instr) (k : Fin 4) (rs : List Reg) (wu : Nat) (f : List Word → Word) (ws : List Word)
    (q : Vector (List PortWord) 4), operands i = some (portReg k, rs, wu, f) → wellFormed i = true →
    (∀ a b sat wd, i = .add (portReg k) a b sat wd → armedBit s = none) → ReadyCompute s wu →
    served (me s) rs (getCore s (coreOf s.cur)).rq = some (ws, q) → wordsInService s → inOriginal s → sendable s k → (me s).stq = [] →
    ∃ t v, exec i s = .next t ∧ t.wires = s.wires ++ [(coreOf s.cur, bindCore (me s).pbind[k], (bindQueue (me s).pbind[k]).val,
        ⟨f ws, s.cur, v⟩)] ∧ (getCore t (coreOf s.cur)).rq = q ∧ (me t).sent[k] = (me s).sent[k] + 1 ∧ (me t).g = (me s).g ∧
      t.mem = s.mem) ∧
  (∀ (s : State) (i : Instr) (a b : Reg) (disp : Fin 65536) (p : Word → Word → Bool) (x y : Word) (q : Vector (List PortWord) 4),
    branches i = some (a, b, disp, p) → ReadyCompute s 1 → bodyEnds (me s) (me s).pc.toNat = false →
    inReach s (target16 (me s).pc disp) → served (me s) [a, b] (getCore s (coreOf s.cur)).rq = some ([x, y], q) → wordsInService s →
    inOriginal s → ∃ t, exec i s = .next t ∧ (me t).pc = (if p x y then target16 (me s).pc disp else (me s).pc + 4) ∧
      (getCore t (coreOf s.cur)).rq = q ∧ (me t).g = (me s).g ∧ t.mem = s.mem)) ∧
  ((∀ (s : State) (d : Reg) (k : Fin 4), notPort d → ReadyCompute s 2 →
    exec (.ppoll d k) s = .next (markUnv (wrote s s.cur 2 4 d (w64 ((getCore s (coreOf s.cur)).rq[k].length + 256 *
      (if wBits (me s).pbind[k] 63 1 = 1
       then min (((getCore s (coreOf s.cur)).freeRep.get? (bindCore (me s).pbind[k] * 4 + (bindQueue (me s).pbind[k]).val)).getD 8)
         (freeIn s (bindCore (me s).pbind[k]) (bindQueue (me s).pbind[k]))
       else 15)))) s.cur)) ∧
  (∀ (s : State) (d : Reg) (k : Fin 4), notPort d → ReadyCompute s 2 →
    ∃ t, exec (.pdrain d k) s = .next t ∧
      getReg (me t) d = (if d = 0 then 0 else w64 (getCore s (coreOf s.cur)).rq[k].length) ∧
      (getCore t (coreOf s.cur)).rq[k] = [] ∧
      (∀ j : Fin 4, j ≠ k → (getCore t (coreOf s.cur)).rq[j] = (getCore s (coreOf s.cur)).rq[j]) ∧
      (me t).recv[k] = (me s).recv[k] + BitVec.ofNat 32 (getCore s (coreOf s.cur)).rq[k].length)) ∧
  ((∀ (s : State) (a b : List (Nat × Nat × Nat × PortWord)) (src dst : Nat) (q : Fin 4) (w : PortWord),
    argN s 0 = src → argN s 1 = dst → argN s 2 = q.val → s.wires = a ++ (src, dst, q.val, w) :: b →
    (∀ e ∈ a, ¬(e.1 = src ∧ e.2.1 = dst ∧ e.2.2.1 = q.val)) →
    ∃ t, exec .portWordArrival s = .next t ∧ t.wires = a ++ b ∧ (getCore t dst).rq[q] = (getCore s dst).rq[q] ++ [w] ∧
      (∀ j : Fin 4, j ≠ q → (getCore t dst).rq[j] = (getCore s dst).rq[j]) ∧ (∀ c, c ≠ dst → getCore t c = getCore s c) ∧
      t.ctxs = s.ctxs ∧ t.mem = s.mem) ∧
  (∀ (s : State) (a b : List (Nat × Nat × Nat)) (dst core : Nat) (q : Fin 4),
    argN s 0 = dst → argN s 1 = core → argN s 2 = q.val → s.freeWires = a ++ (dst, core, q.val) :: b →
    (dst, core, q.val) ∉ a →
    ∃ t, exec .freeCountReport s = .next t ∧ t.freeWires = a ++ b ∧
      (getCore t core).freeRep.get? (dst * 4 + q.val) = some (freeIn s dst q) ∧ t.ctxs = s.ctxs ∧ t.mem = s.mem)) ∧
  ((∀ (s : State) (a : Reg) (k : Fin 4), notPort a → ReadyCompute s 1 → wBits ((me s).pbind[k]) 63 1 = 1 →
    permitted s (coreOf s.cur) (bindCore (me s).pbind[k]) = true → coreSealed s (bindCore (me s).pbind[k]) = false →
    freeIn s (bindCore (me s).pbind[k]) (bindQueue (me s).pbind[k]) = 0 → (me s).notice = none → (me s).stall = none →
    issuing (me s).mode = true →
    ∃ t, exec (.mov (portReg k) a) s = .next t ∧ (me t).stall = some k.val ∧ (me t).probeAt = dieCounter s s.cur + 65536 ∧
      (me t).waiting = true ∧ (me t).pc = (me s).pc ∧ (me t).g = (me s).g ∧ t.mem = s.mem) ∧
  (∀ (s : State) (k : Nat), let c := argN s 0
    (getCtx s c).stall = some k → issuing (getCtx s c).mode = true → (getCtx s c).probeAt ≤ dieCounter s c →
    ∃ t, exec .deadlockProbe s = .next t ∧
      t.probes = s.probes ++ [⟨s.nextId, false, bindCore (getCtx s c).pbind[chanIx k], [c], coreOf c⟩] ∧
      t.agenda = s.agenda ++ [(.deadlockProbeArrival, EvArg.of [s.nextId])] ∧ t.mem = s.mem ∧
      getCtx t c = { getCtx s c with probeAt := (getCtx s c).probeAt + 65536 }) ∧
  (∀ (s : State) (p : Probe) (rest : List Probe), s.probes = p :: rest → argN s 0 = p.id → p.notice = false →
    (p.at' = p.origin →
      ∃ t, exec .deadlockProbeArrival s = .next t ∧ t.probes = rest ++
        [{ p with notice := true, at' := p.path.foldl min (p.path.headD 0), origin := p.path.headD 0 }] ∧ t.ctxs = s.ctxs) ∧
    (p.at' ≠ p.origin → stalledAt s p.at' = none →
      exec .deadlockProbeArrival s = .next { s with probes := rest }) ∧
    (∀ c k, p.at' ≠ p.origin → stalledAt s p.at' = some c → (getCtx s c).stall = some k → c ∉ p.path →
      ∃ t, exec .deadlockProbeArrival s = .next t ∧ t.probes = rest ++
        [{ p with at' := bindCore (getCtx s c).pbind[chanIx k], path := p.path ++ [c] }] ∧ t.ctxs = s.ctxs)) ∧
  (∀ (s : State) (p : Probe) (rest : List Probe), s.probes = p :: rest → argN s 0 = p.id → p.notice = true →
    (getCtx s p.at').stall ≠ none →
    ∃ t, exec .deadlockNoticeArrival s = .next t ∧ t.probes = rest ∧ (getCtx t p.at').notice = some (p.origin, p.path.length) ∧
      (getCtx t p.at').pc = (getCtx s p.at').pc ∧ (getCtx t p.at').g = (getCtx s p.at').g) ∧
  (∀ (s : State) (a : Reg) (k : Fin 4) (o n : Nat), notPort a → ReadyCompute s 1 → wBits ((me s).pbind[k]) 63 1 = 1 →
    permitted s (coreOf s.cur) (bindCore (me s).pbind[k]) = true → coreSealed s (bindCore (me s).pbind[k]) = false →
    freeIn s (bindCore (me s).pbind[k]) (bindQueue (me s).pbind[k]) = 0 → (me s).notice = some (o, n) →
    exec (.mov (portReg k) a) s = .next (takeTrap s s.cur ⟨cPORT_DEADLOCK, 16 + k.val, false, n, o, none⟩ (me s).pc.toNat)))

/-- R140, R143, R144: the lane-wise integer operations, every lane type and saturation mode: each lane of the destination is the
operation of the lanes at its place, and nothing else changes but what retirement changes.
R145, R151, R152, R154: vsel picks bits; vperm picks lanes by index, zero beyond the last; vdot4 adds four byte products to each
32-bit lane; vsplat, vins and vext move a lane to or from a general register.
R156, R157: tset writes a shape entry from its sizes; tidx splits an index into coordinates of which the first varies
fastest: each is the index divided by the sizes before it, modulo its own size.
The model's readings and choices it rests on: log 139. -/
def Obligations.LaneArithmetic : Prop :=
  (∀ (s : State) (i : Instr) (op : LaneOp), laneOps i = some op → ReadyCompute s op.wu →
    ∃ r : BitVec 128, exec i s = .next (wroteV s op.wu op.d r) ∧
      ∀ j, j < 128 / op.bits → laneAt r op.bits j =
        op.f (laneAt (vec s op.a) op.bits j) (laneAt (vec s op.b) op.bits j) (laneAt (vec s op.d) op.bits j)) ∧
  ((∀ (s : State) (d a b c : VReg), ReadyCompute s 1 →
    exec (.vsel d a b c) s = .next (wroteV s 1 d ((vec s a &&& vec s c) ||| (vec s b &&& ~~~ vec s c)))) ∧
  (∀ (s : State) (d a b : VReg) (t : Lane), ReadyCompute s 1 →
    ∃ r : BitVec 128, exec (.vperm d a b t) s = .next (wroteV s 1 d r) ∧ ∀ j, j < 128 / t.bits → laneAt r t.bits j =
      if (laneAt (vec s b) t.bits j).toNat < 128 / t.bits then laneAt (vec s a) t.bits (laneAt (vec s b) t.bits j).toNat else 0) ∧
  (∀ (s : State) (d a b : VReg) (t : ILane) (sat : Sat), wellFormed (.vdot4 d a b t sat) = true → ReadyCompute s 2 →
    ∃ r : BitVec 128, exec (.vdot4 d a b t sat) s = .next (wroteV s 2 d r) ∧ ∀ j, j < 4 → laneAt r 32 j =
      laneHeld sat (laneRead sat (laneAt (vec s d) 32 j) +
        ((List.range 4).map (fun k => laneTyped t (laneAt (vec s a) 8 (4 * j + k)) *
          laneTyped t (laneAt (vec s b) 8 (4 * j + k)))).sum)) ∧
  (∀ (s : State) (d : VReg) (a : Reg) (t : Lane), notPort a → ReadyCompute s 1 →
    ∃ r : BitVec 128, exec (.vsplat d a t) s = .next (wroteV s 1 d r) ∧
      ∀ j, j < 128 / t.bits → laneAt r t.bits j = (val s a).setWidth t.bits) ∧
  (∀ (s : State) (d : VReg) (a : Reg) (t : Lane) (i : Fin 16), notPort a → i.val < 128 / t.bits → ReadyCompute s 1 →
    ∃ r : BitVec 128, exec (.vins d a t i) s = .next (wroteV s 1 d r) ∧
      ∀ j, j < 128 / t.bits → laneAt r t.bits j = if j = i.val then (val s a).setWidth t.bits else laneAt (vec s d) t.bits j) ∧
  (∀ (s : State) (a : VReg) (r : Reg) (t : Lane) (i : Fin 16), notPort r → i.val < 128 / t.bits → ReadyCompute s 1 →
    exec (.vext a r t i) s = .next (wrote s s.cur 1 14 r (match t with
      | .int k => if k.signed then (laneAt (vec s a) k.bits i.val).signExtend 64 else (laneAt (vec s a) k.bits i.val).setWidth 64
      | .flt k => (laneAt (vec s a) k.bits i.val).setWidth 64)))) ∧
  ((∀ (s : State) (e : Fin 16) (a : Reg) (n : Fin 6), 0 < n.val → a.val + n.val ≤ 28 → ReadyCompute s 16 →
    let d := (List.range n.val).map (fun i => (val s (regPlus a i)).toNat)
    (∀ x ∈ d, 0 < x ∧ x ≤ 2 ^ 40) → d.prod ≤ 2 ^ 40 →
    exec (.tset e a n) s = .next (did (modCtx s s.cur (fun x => { x with shp := x.shp.set e (shapeOf d) })) s.cur 16 14) ∧
    (shapeOf d).ndim = n.val ∧ (shapeOf d).dims.take n.val = d) ∧
  (∀ (s : State) (e : Fin 16) (a : Reg), ReadyCompute s 16 →
    exec (.tset e a 0) s = .next (did (modCtx s s.cur (fun x => { x with shp := x.shp.set e { x.shp[e] with ndim := 0 } }))
      s.cur 16 14)) ∧
  (∀ (s : State) (d a : Reg) (e : Fin 16) (sizes : List Nat), notPort a → ReadyCompute s 4 → (me s).shp[e] = shapeOf sizes →
    0 < sizes.length → sizes.length ≤ 5 → (∀ x ∈ sizes, 0 < x) → sizes.prod ≤ 2 ^ 40 → 0 < d.val →
    d.val + sizes.length ≤ 28 → (val s a).toNat < sizes.prod →
    ∃ t, exec (.tidx d a e) s = .next t ∧
      (∀ i, i < sizes.length → (getReg (me t) (regPlus d i)).toNat =
        (val s a).toNat / (sizes.take i).prod % sizes.getD i 1) ∧
      (∀ r : Reg, notPort r → r.val < d.val ∨ d.val + sizes.length ≤ r.val → getReg (me t) r = val s r) ∧
      (me t).charge = (me s).charge + 4 ∧ t.mem = s.mem))

/-- R147 to R149, R141: the lane-wise float operations, with the lane type's formats or a prefix's. The lanes go in order from lane
0, each taking the LFSR that the one before it left, and the flags of all of them join ST; with an enabled flag among them FP follows
the retirement, with the flags and the mask of the lanes that set one in its record.
R153: the reductions. An integer reduction combines the lanes as their type reads them and wraps; a float reduction combines
neighbours in a tree under ST.RND. The result stands in lane 0 and every other lane is zero.
The model's readings and choices it rests on: log 37, 39, 109, 139. -/
def Obligations.FloatLanes : Prop :=
  (∀ (s : State) (i : Instr) (d a b : VReg) (t : FLane) (r : Rnd)
    (f : Fmt → Fmt → Fmt → Nat → Nat → Nat → Nat → RS → Nat × RS) (fa fb fo : Fmt),
    floatLanes i = some (d, a, b, t, r, f) → FreeCompute s 2 → laneFmts (me s) t = some (fa, fb, fo) →
    let out := eachF (fun j => f fa fb fo (rounding (me s) r) (laneAt (vec s a) t.bits j).toNat (laneAt (vec s b) t.bits j).toNat
      (laneAt (vec s d) t.bits j).toNat) (List.range (128 / t.bits)) (me s).lfsr
    mayTrap s (orFlags out.2.1) →
    exec i s = .next (floated s (modCtx s s.cur (fun x => retiredFmt s.cur 2 14 (orFlags out.2.1)
      { x with v := x.v.set d (packLanes t.bits out.1), lfsr := out.2.2 })) (orFlags out.2.1) (flagMask out.2.1))) ∧
  (∀ (s : State) (i : Instr) (d a : VReg) (t : Lane) (fi : Int → Int → Int) (ff : Fmt → Nat → Nat → Nat → RS → Nat × RS),
    reductions i = some (d, a, t, fi, ff) → ReadyCompute s 2 →
    (∀ k, t = .int k → exec i s = .next (wroteV s 2 d ((BitVec.ofInt k.bits
      ((((List.range (128 / k.bits)).map (fun j => laneTyped k (laneAt (vec s a) k.bits j))).tail.foldl fi
        (laneTyped k (laneAt (vec s a) k.bits 0))))).setWidth 128))) ∧
    (∀ k, t = .flt k →
      let out := redTree (ff (flaneFmt k) (stRnd (me s))) 3
        ((List.range (128 / k.bits)).map (fun j => ((laneAt (vec s a) k.bits j).toNat, 2 ^ j))) (me s).lfsr 0 0
      mayTrap s out.2.2.1 →
      exec i s = .next (floated s (modCtx s s.cur (fun x => { retired s.cur 2 14
        { x with v := x.v.set d (BitVec.ofNat 128 (out.1.headD (0, 0)).1), lfsr := out.2.1 } with
        st := w64 (x.st.toNat ||| out.2.2.1 * 128) })) out.2.2.1 out.2.2.2)))

/-- R48, R55, R56, R163 to R165, R175: the scalar float operations and special functions with the formats of a prefix or of their
width: the result in d, the flags joined to ST and the LFSR moved; with an enabled flag set, FP follows the retirement.
R166 to R168: cvt between an integer and a float or narrow format.
The model's readings and choices it rests on: log 39, 109, 139. -/
def Obligations.ScalarFloat : Prop :=
  (∀ (s : State) (i : Instr) (op : ScalarOp) (fa fb fo : Fmt), scalarOps i = some op → FreeCompute s op.wu → notPort op.d →
    (∀ r ∈ op.srcs, notPort r) → scalarFmts (me s) op.dbl op.useB op.useOut = some (fa, fb, fo) →
    let out := op.f fa fb fo (rounding (me s) op.r) ⟨(me s).lfsr, 0⟩ (op.srcs.map (fun r => (val s r).toNat))
    mayTrap s out.2.flags →
    exec i s = .next (floated s (wroteF s op.wu 9 op.d (w64 out.1) out.2) out.2.flags 0)) ∧
  (∀ (s : State) (d a : Reg) (n : Fin 8) (r : Rnd) (t c : CvType), FreeCompute s 1 →
    notPort d → notPort a →
    let out := cvtVal (me s) n r t c (val s a)
    mayTrap s out.2.flags →
    exec (.cvt d a n r t c) s = .next (floated s (wroteF s 1 9 d out.1 out.2) out.2.flags 0))

/-- R45, R55, R56: rounding a finite number into a fixed format overflows only beyond its largest number; else the result is a number of the
format: under RNE none is nearer and a tie goes to the even code; under RZ, RU and RD it is the next on the side that they name; and NX
tells whether it differs.
R45, R47, R50, R52: a code of a fixed format other than a NaN, decoded and rounded back into its format, is the same code with no
flag. -/
def Obligations.RoundingIsCorrect : Prop :=
  (∀ (f : Fmt) (rnd : Nat) (l : BitVec 32) (n : Bool) (m : Nat) (e : Int), f ∈ [f16Fmt, bf16Fmt, f32Fmt, f64Fmt] → rnd < 4 →
    roundsTo f rnd (encodeF f rnd ⟨l, 0⟩ (.fin n m e)) ((ratOf n m e : ℚ) : ℝ)) ∧
  (∀ (f : Fmt) (code rnd : Nat) (l : BitVec 32), f ∈ [f16Fmt, bf16Fmt, f32Fmt, f64Fmt] → code < 2 ^ f.w →
    (decodeF f code).isNan = false →
    (encodeF f rnd ⟨l, 0⟩ (decodeF f code)).1 = code ∧ (encodeF f rnd ⟨l, 0⟩ (decodeF f code)).2.flags = 0)

/-- R22, R158 to R161, R169, R173, R174: format registers are read and, when the value is legal, written; fmtp makes its word the
pending prefix; a running maximum is read, and cleared.
R63, R169 to R173: qnt packs eight f32 lanes as codes of a narrow format with a scale byte for each block of four; dqt takes them
apart; either may update a running maximum, which is the largest magnitude seen. A block with a NaN has scale 0xFF, zero codes and NV; one
of zeros scale 0; any other the scale c of at most 254 that brings its largest finite magnitude to the format's highest exponent, and the
codes of its elements times 2^(127 - c); under SR each element stored takes one draw.
The model's readings and choices it rests on: log 3, 4, 36, 38, 108, 109, 139. -/
def Obligations.FormatsAndBlocks : Prop :=
  ((∀ (s : State) (d : Reg) (n : Fin 8), notPort d → ReadyCompute s 1 →
    exec (.fmtr d n) s = .next (wrote s s.cur 1 4 d ((me s).fmt[n].setWidth 64))) ∧
  (∀ (s : State) (a : Reg) (n : Fin 8), notPort a → ReadyCompute s 1 → fmtLegal (val s a).toNat = true →
    ∃ t, exec (.fmtw a n) s = .next t ∧ (me t).fmt[n] = (val s a).setWidth 32 ∧
      (∀ j : Fin 8, j ≠ n → (me t).fmt[j] = (me s).fmt[j]) ∧ (me t).g = (me s).g ∧ t.mem = s.mem ∧
      (me t).charge = (me s).charge + 1) ∧
  (∀ (s : State) (a b o : Fin 8) (r : Rnd), ReadyCompute s 1 →
    ∃ t w, encode (.fmtp a b o r) = some w ∧ exec (.fmtp a b o r) s = .next t ∧ (me t).pfx = w ∧
      wBits (me t).st 3 1 = 1 ∧ (∀ k, k < 64 → k ≠ 3 → (me t).st.getLsbD k = (me s).st.getLsbD k) ∧ (me t).g = (me s).g) ∧
  (∀ (s : State) (d : Reg) (m : Fin 4), notPort d → ReadyCompute s 1 →
    exec (.amxRd d m) s = .next (wrote s s.cur 1 4 d (me s).amx[m])) ∧
  (∀ (s : State) (i : Instr) (m : Fin 4), clears i = some m → ReadyCompute s 1 →
    exec i s = .next (did (modCtx s s.cur (fun x => { x with amx := x.amx.set m 0 })) s.cur 1 4))) ∧
  ((∀ (s : State) (d a b : VReg) (n : FmtId) (r : Rnd) (m : AmxSel) (f : Fmt), FreeCompute s 4 →
    narrowReg (me s) (match prefixOf (me s) with | some p => p.out | none => n) = some f →
    let q0 := quantBlock f (rounding (me s) r) (me s).lfsr (lanes (vec s a) 32)
    let q1 := quantBlock f (rounding (me s) r) q0.2.2.2 (lanes (vec s b) 32)
    let fs := q0.2.2.1 ++ q1.2.2.1
    mayTrap s (orFlags fs) →
    exec (.qnt d a b n r m) s = .next (floated s (modCtx s s.cur (fun x => retiredFmt s.cur 4 14 (orFlags fs)
      (amxPut m (lanes (vec s a) 32 ++ lanes (vec s b) 32) { x with
        v := x.v.set d (BitVec.ofNat 128 (streamOf f.w (q0.2.1 ++ q1.2.1) + q0.1 * 2 ^ 112 + q1.1 * 2 ^ 120)), lfsr := q1.2.2.2 })))
      (orFlags fs) (flagMask fs))) ∧
  (∀ (s : State) (d a b : VReg) (n : FmtId) (r : Rnd) (m : AmxSel) (f : Fmt), FreeCompute s 4 → d ≠ b →
    narrowReg (me s) (match prefixOf (me s) with | some p => p.a | none => n) = some f →
    let q := eachF (fun i rs => encodeF f32Fmt (rounding (me s) r) rs (packedElem f (vec s a) i)) (List.range 8) (me s).lfsr
    mayTrap s (orFlags q.2.1) →
    exec (.dqt d a b n r m) s = .next (floated s (modCtx s s.cur (fun x => retiredFmt s.cur 4 14 (orFlags q.2.1)
      (amxPut m q.1 { x with
        v := (x.v.set d (packLanes 32 (q.1.take 4))).set b (packLanes 32 (q.1.drop 4)), lfsr := q.2.2 })))
      (orFlags q.2.1) (flagMask q.2.1))) ∧
  (∀ (a : Word) (vs : List Nat), wBits a 63 1 = 0 → (∀ v ∈ vs, v < 2 ^ 32 ∧ (decodeF f32Fmt v).isNan = false) →
    wBits (amxUpdate a vs) 0 32 = (vs.map (· % 2 ^ 31)).foldl max (wBits a 0 32) ∧ wBits (amxUpdate a vs) 63 1 = 0) ∧
  (∀ (f : Fmt) (rnd : Nat) (l : BitVec 32) (xs : List FVal), let q := blockQ f rnd l xs
    let step (i : Nat) : BitVec 32 := lfsrSteps (if rnd = rSR then i else 0) l
    q.2.2.2 = step xs.length ∧ q.2.1.length = xs.length ∧
    (xs.any FVal.isNan = true → q.1 = 255 ∧ (∀ k ∈ q.2.1, k = 0) ∧ ∀ k ∈ q.2.2.1, k = fNV) ∧
    ((∀ x ∈ xs, finiteV x = true ∧ ratV x = 0) → q.1 = 0 ∧ (∀ k ∈ q.2.1, k = 0) ∧ ∀ k ∈ q.2.2.1, k = 0) ∧
    ((∀ x ∈ xs, x.isNan = false) → (∃ x ∈ xs, finiteV x = true → ratV x ≠ 0) →
      q.1 ≤ 254 ∧
      (∀ (i : Nat) (h : i < xs.length), ∃ v, (finiteV xs[i] = true → finiteV v = true ∧ ratV v = ratV xs[i] * 2 ^ (127 - (q.1 : ℤ))) ∧
        (finiteV xs[i] = false → v = xs[i]) ∧ q.2.1.getD i 0 = (encodeF f rnd ⟨step i, 0⟩ v).1 ∧
        q.2.2.1.getD i 0 = (encodeF f rnd ⟨step i, 0⟩ v).2.flags) ∧
      ((∀ x ∈ xs, finiteV x = true → ratV x = 0) → q.1 = 0) ∧
      ∀ x ∈ xs, finiteV x = true → ratV x ≠ 0 → (∀ y ∈ xs, finiteV y = true → |ratV y| ≤ |ratV x|) →
        (q.1 < 254 → |ratV x| * 2 ^ (127 - (q.1 : ℤ)) < 2 ^ (emaxOf f + 1)) ∧
        (0 < q.1 → 2 ^ emaxOf f ≤ |ratV x| * 2 ^ (127 - (q.1 : ℤ))))))

/-- R28 to R32, R238, R239: reading a control register. CHARGE and ECNT read with this mfc's own retirement, DCLK reads the die
counter, ST reads with its busy bits, WP and CHSTAT, SVEC and DBGCTL as the chains and the partition stand; the registers that tell of
time or progress mark the task.
R28, R30, R31, R125, R216, R238, R239, R253: writing a control register: the value is kept as its width and its field rules
say; SEED sets the LFSR; a port binding must name a core that may be reached; CHHEAD on a memory core changes the register only; SVEC
and DBGCTL are the partition's.
The model's readings and choices it rests on: log 12, 13, 14, 15, 107, 112, 139. -/
def Obligations.ControlRegisters : Prop :=
  ((∀ (s : State) (d : Reg) (n : Fin 64) (v : Word), plainCr (me s) n.val = some v → notPort d → Ready s 1 →
    crLevel n.val ≤ privOf (me s) → exec (.mfc d n) s = .next (wrote s s.cur 1 4 d v)) ∧
  (∀ (s : State) (d : Reg), notPort d → Ready s 1 → exec (.mfc d 0) s = .next (wrote s s.cur 1 4 d (w64 (stNow s s.cur)))) ∧
  (∀ (s : State) (d : Reg), notPort d → ReadyCompute s 1 →
    exec (.mfc d 6) s = .next (markUnv (wrote s s.cur 1 4 d ((me s).charge + 1)) s.cur) ∧
    exec (.mfc d 8) s = .next (markUnv (wrote s s.cur 1 4 d (w64 (dieCounter s s.cur))) s.cur) ∧
    exec (.mfc d 12) s = .next (markUnv (wrote s s.cur 1 4 d ((energyPlus (me s).ecnt 4).setWidth 64)) s.cur)) ∧
  (∀ (s : State) (d : Reg) (k : Fin 4), notPort d → Ready s 1 →
    exec (.mfc d ⟨24 + k.val, by omega⟩) s = .next (markUnv (wrote s s.cur 1 4 d (me s).wp[k]) s.cur) ∧
    exec (.mfc d ⟨28 + k.val, by omega⟩) s = .next (markUnv (wrote s s.cur 1 4 d (w64 (chstatVal s s.cur k))) s.cur)) ∧
  (∀ (s : State) (d : Reg) (p : Nat) (q : PartSt), notPort d → Ready s 1 → 1 ≤ privOf (me s) → partOf s s.cur = some p →
    getPart? s p = some q →
    exec (.mfc d 32) s = .next (wrote s s.cur 1 4 d (q.svec.setWidth 64)) ∧
    exec (.mfc d 37) s = .next (wrote s s.cur 1 4 d q.dbgctl))) ∧
  ((∀ (s : State) (a : Reg) (n : Fin 64) (w : CrWrite), crWrites n.val = some w → notPort a → Ready s 1 →
    crLevel n.val ≤ privOf (me s) → w.takes (me s) (val s a) →
    exec (.mtc a n) s = .next (did (putCtx s s.cur (w.after (me s) (val s a))) s.cur 1 4)) ∧
  (∀ (s : State) (a : Reg), notPort a → Ready s 1 → (val s a).toNat < 2 ^ 32 →
    exec (.mtcSeed a) s = .next (did (modCtx s s.cur (fun x => { x with
      seed := (val s a).setWidth 32, lfsr := if val s a = 0 then 1 else (val s a).setWidth 32 })) s.cur 1 4)) ∧
  (∀ (s : State) (a : Reg) (k : Fin 4), notPort a → Ready s 1 → wBits (val s a) 16 47 = 0 →
    (if wBits (val s a) 63 1 = 0 then val s a = 0 else permitted s (coreOf s.cur) (bindCore (val s a)) = true) →
    exec (.mtcPbind a k) s = .next (did (modCtx s s.cur (fun x => { x with pbind := x.pbind.set k (val s a) })) s.cur 1 4)) ∧
  (∀ (s : State) (a : Reg) (p : Nat), notPort a → Ready s 1 → 1 ≤ privOf (me s) → partOf s s.cur = some p →
    ((val s a).toNat < 2 ^ 48 → (val s a).toNat % 4 = 0 →
      exec (.mtcSvec a) s = .next (did (modPart s p (fun q => { q with svec := (val s a).setWidth 48 })) s.cur 1 4)) ∧
    (val s a = 0 ∨ val s a = 1 →
      exec (.mtcDbgctl a) s = .next (did (modPart s p (fun q => { q with dbgctl := val s a })) s.cur 1 4))) ∧
  (∀ (s : State) (a : Reg) (k : Fin 4), notPort a → Ready s 1 → isMem s.cur = true → (val s a).toNat < 2 ^ 32 →
    exec (.mtcChhead a k) s = .next (did (modCtx s s.cur (fun x => { x with
      chhead := x.chhead.set k ((val s a).setWidth 32) })) s.cur 1 4)))

/-- R86: the checks before an instruction's effect raise, in their order, a root-only instruction outside root mode, the wrong kind
of core, a pending prefix that it cannot take, and a level above the context's; the record of each holds the word.
R349, R350: an instruction whose work units do not fit BUDGET, and the first one charged behind a handler in which a budx was refused,
traps before its effect, with its work units and CHARGE in the record. Stated at the integer instructions.
R86: a word that is no instruction takes ILLEGAL with its reason and the word; a fetch that fails takes its cause with the pc as
a far address.
R34, R115: the checks of a near access in order: every byte mapped, else ADDRESS at the access; aligned, else ALIGN; a store to
a closed weight-stack slice, READONLY; a line that another party of the cluster has marked, CONFLICT. A load or store that fails one
takes that trap.
The model's readings and choices it rests on: log 31, 32, 34, 139. -/
def Obligations.ChecksBeforeEffect : Prop :=
  ((∀ (s : State) (d b : KReg), flockOf s s.cur = [] → isRoot (me s) = false →
    exec (.kEmit d b) s = .next (takeTrap s s.cur (wordTrap cILLEGAL (.kEmit d b) 7) (me s).pc.toNat)) ∧
  (∀ (s : State) (d : VReg) (b : Reg) (o : Fin 8192), flockOf s s.cur = [] → isMem s.cur = true →
    exec (.ldV d b o) s = .next (takeTrap s s.cur (wordTrap cILLEGAL (.ldV d b o) 9) (me s).pc.toNat)) ∧
  (∀ (s : State) (d b : Reg) (z : LdSize) (o : Fin 4096), flockOf s s.cur = [] → isMem s.cur = false →
    exec (.fld d b z o) s = .next (takeTrap s s.cur (wordTrap cILLEGAL (.fld d b z o) 9) (me s).pc.toNat)) ∧
  (∀ (s : State) (i : Instr) (d a b : Reg) (wu : Nat) (f : Word → Word → Word), twoRegisters i = some (d, a, b, wu, f) →
    flockOf s s.cur = [] → wBits (me s).st 3 1 = 1 →
    exec i s = .next (takeTrap s s.cur (wordTrap cILLEGAL i 10) (me s).pc.toNat)) ∧
  (∀ (s : State) (i : Instr) (l : Nat), needs i = some l → flockOf s s.cur = [] → wBits (me s).st 3 1 = 0 → privOf (me s) < l →
    exec i s = .next (takeTrap s s.cur (wordTrap cPRIVILEGE i l) (me s).pc.toNat))) ∧
  (∀ (s : State) (i : Instr) (d a b : Reg) (wu : Nat) (f : Word → Word → Word), twoRegisters i = some (d, a, b, wu, f) →
    notPort d → notPort a → notPort b → flockOf s s.cur = [] → wBits (me s).st 3 1 = 0 → isMem s.cur = false →
    (me s).budget.toNat < (me s).charge.toNat + wu ∨ ((me s).refused = true ∧ wBits (me s).st 23 1 = 0) →
    exec i s = .next (takeTrap s s.cur ⟨cBUDGET, 0, false, wu, (me s).charge.toNat, none⟩ (me s).pc.toNat)) ∧
  ((∀ (s s1 : State) (w reason : Nat), flockOf s s.cur = [] → fetchWord s s.cur (me s).pc.toNat = .ok (s1, w) →
    decodeWord w (isRoot (me s)) = .error reason →
    exec .illegalWord s = .next (takeTrap s s.cur ⟨cILLEGAL, 0, false, w, reason, none⟩ (me s).pc.toNat)) ∧
  (∀ (s : State) (cause : Nat), flockOf s s.cur = [] → fetchWord s s.cur (me s).pc.toNat = .error cause →
    cause ≠ cILLEGAL → cause ≠ cPRIVILEGE →
    exec .fetchFault s = .next (takeTrap s s.cur ⟨cause, (me s).pc.toNat, true, 0, 0, none⟩ (me s).pc.toNat))) ∧
  ((∀ (s : State) (c ea n : Nat) (k : Acc), mappedOk (getCtx s c) c ea n k = false →
    nearCheck s c ea n k = some ⟨cADDRESS, ea, false, 0, 0, none⟩) ∧
  (∀ (s : State) (c ea n : Nat) (k : Acc), mappedOk (getCtx s c) c ea n k = true → ea % n ≠ 0 →
    nearCheck s c ea n k = some ⟨cALIGN, ea, false, 0, 0, none⟩) ∧
  (∀ (s : State) (c ea n : Nat), mappedOk (getCtx s c) c ea n .store = true → ea % n = 0 → inSlice c ea = true →
    privOf (getCtx s c) = 0 → nearCheck s c ea n .store = some ⟨cREADONLY, ea, false, 0, 0, none⟩) ∧
  (∀ (s : State) (c ea n : Nat) (k : Acc) (m : Mark), mappedOk (getCtx s c) c ea n k = true → ea % n = 0 → isMem c = false →
    inSlice c ea = false → lostPeer s c ea = none → m ∈ s.marks → m.party ≠ partyOf c → m.line = phys c ea / 128 →
    (k.writes = true ∨ m.write = true) → lineOf (phys c ea) ≠ none →
    ∃ t, nearCheck s c ea n k = some t ∧ t.cause = cCONFLICT ∧ t.addr = ea ∧ t.spec1 = ea / 128 * 128 ∧ t.spec0 % 64 ≤ m.party) ∧
  (∀ (s : State) (i : Instr) (d b : Reg) (z : LdSize) (off : Word) (t : Trap), loads i = some (d, b, z, off) → notPort d →
    notPort b → Ready s 1 → nearCheck s s.cur (val s b + off).toNat z.width.bytes .load = some t →
    t.cause ≠ cILLEGAL → t.cause ≠ cPRIVILEGE →
    exec i s = .next (takeTrap s s.cur t (me s).pc.toNat)) ∧
  (∀ (s : State) (i : Instr) (d b : Reg) (z : Width) (off : Word) (t : Trap), stores i = some (b, d, z, off) → notPort d →
    notPort b → Ready s 1 → nearCheck s s.cur (val s b + off).toNat z.bytes .store = some t →
    t.cause ≠ cILLEGAL → t.cause ≠ cPRIVILEGE →
    exec i s = .next (takeTrap s s.cur t (me s).pc.toNat)))

/-- R363, R364: taking a trap in a task, which waits for no object any more: the record stands at TFRAME as its 64 bytes, ST.IH is 1, ST.E and the trap enables of ST
are 0, the loop registers are in the shadow and the counts are 0, PFX is 0 and the pc is TVEC; no other register of the context
changes, and no byte of memory but the record's and those of the context's earlier stores, which perform before it.
R364, R366 to R368: a cause above task mode or without a handler stops the task, and an entry of 128 bytes, its record, which is also
written at TFRAME where that can be, and zeros, goes to the partition's fault queue of the die. A cause in a handler is a double fault: the
entry holds the second record with cause 0x20, both causes in SPEC0 and its own SPEC0 in SPEC1, and behind it the latch; where the record
cannot be written, that failure's record stands so before the first. The task's graph is aborted. A full queue of 256 entries drops the
entry and counts it, up to 2^32 - 1.
R242, R364: a trap taken and returned from: with the record standing as it was written and no attributed fault, and no uncorrectable word in it, tret goes to the record's PC
and restores the fields of ST, the prefix and the loop registers that the context had at the trap.
The model's readings and choices it rests on: log 16, 34, 77, 117. -/
def Obligations.TrapEntry : Prop :=
  (∀ (s0 u : State) (c pc : Nat) (t : Trap), isMem c = false → (getCtx s0 c).root = none → (getCtx s0 c).run = 0 →
    t.cause ≠ cUNCORRECTABLE → t.cause ≠ cBUDGET → t.opc = none →
    let s := unwait s0 c
    handles s c (mkRec s c t pc) u →
    let p := phys c (getCtx s c).tframe.toNat
    let w := writeRecord s c (getCtx s c).tframe.toNat (mkRec s c t pc)
    takeTrap s0 c t pc = u ∧ s.ctxs = s0.ctxs ∧ s.mem = s0.mem ∧
    ((getCtx s0 c).waiting = true → ∀ k ∈ (getCluster s (clusterOf c)).objs, c ∉ k.2.waiters) ∧
    (∃ v f, getCtx u c = entered { getCtx s c with stq := [], view := v, fence := f } (mkRec s c t pc)) ∧
    memRead w.mem p 64 = (mkRec s c t pc).bytes ∧ (∀ a, a < p ∨ p + 64 ≤ a → memGet w.mem a = memGet (drain s c).mem a)) ∧
  ((∀ (s0 : State) (c pc : Nat) (t : Trap), isMem c = false → (getCtx s0 c).root = none → (getCtx s0 c).run = 0 →
    t.cause ≠ cUNCORRECTABLE → t.cause ≠ cBUDGET → t.opc = none →
    let s := unwait s0 c
    let x := getCtx s0 c
    let r := mkRec s c t pc
    let ends (u : State) (e : List Byte) : Prop := takeTrap s0 c t pc = killTask (enqueueFault u ((partOf s c).getD 0) (dieOf c) e) c
    (1 ≤ privOf x ∨ x.tvec = 0 →
      ends (if recordCheck s c x.tframe.toNat = none then writeRecord s c x.tframe.toNat r else s) (r.bytes ++ List.replicate 64 0)) ∧
    (privOf x = 0 → x.tvec ≠ 0 → wBits x.st 23 1 = 1 →
      ends s ({ r with cause := 0x20, spec0 := t.cause % 2 ^ 16 + x.latch.cause % 2 ^ 16 * 2 ^ 16, spec1 := t.spec0 }.bytes ++ x.latch.bytes)) ∧
    (∀ f, privOf x = 0 → x.tvec ≠ 0 → wBits x.st 23 1 = 0 → recordCheck s c x.tframe.toNat = some f →
      ends s ({ mkRec s c f pc with
        addr := x.tframe.toNat, cause := 0x20, spec0 := f.cause % 2 ^ 16 + t.cause % 2 ^ 16 * 2 ^ 16
        spec1 := (mkRec s c f pc).spec0 }.bytes ++ r.bytes))) ∧
  (∀ (s : State) (c : Nat) (e : Entry), entOfCtx s c = some e → e.transit.runCtx ≠ some c →
    killTask s c = abortGraph s (dieOf c) e.graph) ∧
  (∀ (s : State) (part die : Nat) (b : List Byte) (q : PartSt), getPart? s part = some q →
    ∃ r, getPart? (enqueueFault s part die b) part = some r ∧
      ((faultsOf q die).length < 256 → faultsOf r die = faultsOf q die ++ [b] ∧ r.lost = q.lost) ∧
      (256 ≤ (faultsOf q die).length → faultsOf r die = faultsOf q die ∧
        r.lost.get? die = some (min (2 ^ 32 - 1) ((q.lost.get? die).getD 0 + 1))))) ∧
  (∀ (s u : State) (c pc : Nat) (t : Trap), isMem c = false → (getCtx s c).root = none → (getCtx s c).run = 0 →
    t.cause ≠ cUNCORRECTABLE → t.cause ≠ cBUDGET → t.opc = none → pc < 2 ^ 48 → pc % 4 = 0 →
    wBits (getCtx s c).st 4 3 ≤ 4 → (wBits (getCtx s c).st 3 1 = 0 → (getCtx s c).pfx = 0) →
    (wBits (getCtx s c).st 3 1 = 1 → bitsAt (getCtx s c).pfx.toNat 26 6 = 0x25 ∧ bitsAt (getCtx s c).pfx.toNat 14 3 ≤ 5 ∧
      (getCtx s c).pfx.toNat % 2 ^ 14 = 0) →
    handles s c (mkRec s c t pc) u → memRead u.mem (phys c (getCtx s c).tframe.toNat) 64 = (mkRec s c t pc).bytes →
    poisonOwn u c (getCtx s c).tframe.toNat 64 = none →
    ∃ x, trapReturn u c = .ok (x, pc) ∧ x.ls = (getCtx s c).ls ∧ x.le = (getCtx s c).le ∧ x.lc = (getCtx s c).lc ∧
      x.pfx = (getCtx s c).pfx ∧ x.g = (getCtx s c).g ∧ wBits x.st 23 1 = 0 ∧
      wBits x.st 3 16 = wBits (getCtx s c).st 3 16 ∧ wBits x.st 0 2 = 0)

/-- R240, R241: trap retires and takes SOFTWARE with its code and register; ebrk takes BREAK before it retires, or with DBGCTL.EBS
stops the partition; sys goes to SVEC in supervisor mode with the next pc, ST, the code and the register saved. None of them, nor tret
nor halt, may end the body of an active loop level (R110).
R242: tret outside a handler returns from supervisor or hypervisor mode: the saved status gives the mode and the fields of ST
that mtc may write, the saved pc is the next; a saved mode that is not lower, or a saved pc that is no multiple of 4, is ILLEGAL.
R242: tret in a handler completes when the record at TFRAME is mapped, aligned and without an uncorrectable word, its pc (SPEC0 of an attributed record, else PC) is
a far address and a multiple of 4, and its saved status and prefix are legal: it goes to that pc with ST.IH 0, the fields of ST that mtc
may write and PP from the saved status, PFX from the record where PP was set, and the loop registers from the shadow.
The model's readings and choices it rests on: log 13, 63, 107, 139. -/
def Obligations.TrapsAndReturns : Prop :=
  ((∀ (s : State) (a : Reg) (k : Fin 4096), notPort a → Ready s 1 → bodyEnds (me s) (me s).pc.toNat = false →
    issuing (me s).mode = true →
    exec (.trap a k) s = .next (takeTrap (modCtx s s.cur (jumped s.cur 1 ((me s).pc + 4))) s.cur
      ⟨cSOFTWARE, 0, false, k.val, (val s a).toNat, none⟩ ((me s).pc + 4).toNat)) ∧
  (∀ (s : State) (a : Reg) (k : Fin 4096), notPort a → Ready s 1 → bodyEnds (me s) (me s).pc.toNat = false →
    ebsOf s s.cur = none →
    exec (.ebrk a k) s = .next (takeTrap s s.cur ⟨cBREAK, 0, false, k.val, (val s a).toNat, none⟩ (me s).pc.toNat)) ∧
  (∀ (s : State) (a : Reg) (k : Fin 4096) (p : Nat), notPort a → Ready s 1 → bodyEnds (me s) (me s).pc.toNat = false →
    ebsOf s s.cur = some p →
    exec (.ebrk a k) s = .next (markWait (noStall (whistleStop s p none) s.cur) s.cur)) ∧
  (∀ (s : State) (a : Reg) (k : Fin 4096) (p : Nat) (q : PartSt), notPort a → Ready s 1 → privOf (me s) = 0 →
    bodyEnds (me s) (me s).pc.toNat = false → partOf s s.cur = some p → getPart? s p = some q → q.svec ≠ 0 →
    exec (.sys a k) s = .next (markUnv (endRegion (modCtx s s.cur (fun x => jumped s.cur 1 q.svec { x with
      sepc := x.pc + 4, sest := w64 (stNow s s.cur), scode := BitVec.ofNat 16 k.val, sarg := val s a
      st := (x.st &&& ~~~3#64) ||| 1 })) s.cur) s.cur)) ∧
  (∀ (s : State) (i : Instr), endsTask i = true → flockOf s s.cur = [] → wBits (me s).st 3 1 = 0 →
    bodyEnds (me s) (me s).pc.toNat = true →
    exec i s = .next (takeTrap s s.cur (wordTrap cILLEGAL i 11) (me s).pc.toNat))) ∧
  ((∀ (s : State), Ready s 1 → bodyEnds (me s) (me s).pc.toNat = false → wBits (me s).st 23 1 = 0 → 1 ≤ privOf (me s) →
    let pc := if privOf (me s) = 1 then (me s).sepc else (me s).hepc
    let st := if privOf (me s) = 1 then (me s).sest else (me s).hest
    (st.toNat % 4 < privOf (me s) → pc.toNat % 4 = 0 →
      exec .tret s = .next (modCtx s s.cur (fun x => jumped s.cur 1 pc { x with
        st := (x.st &&& ~~~0x7FFF3#64) ||| (st &&& 0x7FFF3#64) }))) ∧
    (privOf (me s) ≤ st.toNat % 4 ∨ pc.toNat % 4 ≠ 0 →
      exec .tret s = .next (takeTrap s s.cur (wordTrap cILLEGAL .tret 11) (me s).pc.toNat))) ∧
  (∀ (s : State), Ready s 1 → bodyEnds (me s) (me s).pc.toNat = false → wBits (me s).st 23 1 = 0 → privOf (me s) = 0 →
    exec .tret s = .next (takeTrap s s.cur (wordTrap cILLEGAL .tret 11) (me s).pc.toNat))) ∧
  (∀ (s : State), Ready s 1 → bodyEnds (me s) (me s).pc.toNat = false → wBits (me s).st 23 1 = 1 →
    let r := (me s).tframe.toNat
    let npc := recNat s s.cur (r + if recNat s s.cur (r + 2) 2 % 2 = 1 then 0x28 else 0x10) 8
    let sv := recNat s s.cur (r + 0x20) 8
    let pf := recNat s s.cur (r + 0x38) 4
    mappedOk (me s) s.cur r 64 .load = true → r % 64 = 0 → poisonOwn s s.cur r 64 = none → npc < 2 ^ 48 → npc % 4 = 0 → bitsAt sv 4 3 ≤ 4 →
    (bitsAt sv 3 1 = 1 → bitsAt pf 26 6 = 0x25 ∧ bitsAt pf 14 3 ≤ 5 ∧ pf % 2 ^ 14 = 0) → (me s).shadow.length = 12 →
    ∃ x, exec .tret s = .next (modCtx s s.cur (fun _ => jumped s.cur 1 (pc48 npc) x)) ∧
      x = { me s with st := x.st, pfx := x.pfx, ls := x.ls, le := x.le, lc := x.lc } ∧
      wBits x.st 23 1 = 0 ∧ wBits x.st 3 16 = bitsAt sv 3 16 ∧ wBits x.st 0 3 = wBits (me s).st 0 3 ∧ wBits x.st 19 4 = wBits (me s).st 19 4 ∧
      x.pfx = (if bitsAt sv 3 1 = 1 then BitVec.ofNat 32 pf else 0) ∧
      x.ls.toList ++ x.le.toList ++ x.lc.toList = (me s).shadow)

/-- R298 to R300: the lock-step of a flock outside its handler. An instruction of two registers is computed by each member on its own
registers, and all retire; a branch takes the leader's outcome in every member. Where in a flock of two the follower's BUDGET does not fit,
the leader keeps its effect, the follower retires nothing and gets 64 work units, and the leader takes FLOCK, its record with FLAGS bit 3,
the flock's pc, the follower's index and cause, and its first cause-specific word.
The model's readings and choices it rests on: log 34, 139. -/
def Obligations.Flocks : Prop :=
  (∀ (s : State) (i : Instr) (d a b : Reg) (wu : Nat) (f : Word → Word → Word), twoRegisters i = some (d, a, b, wu, f) →
    wellFormed i = true → notPort d → notPort a → notPort b → LockStep s wu →
    (∀ sat wd, i = .add d a b sat wd → ∀ c ∈ flockOf s s.cur, armedBit { s with cur := c } = none) →
    ∃ t, exec i s = .next t ∧ t.mem = s.mem ∧ (∀ c, c ∉ flockOf s s.cur → getCtx t c = getCtx s c) ∧
      ∀ c ∈ flockOf s s.cur, getCtx t c =
        retired c wu 4 (setReg (getCtx s c) d (f (getReg (getCtx s c) a) (getReg (getCtx s c) b)))) ∧
  (∀ (s : State) (i : Instr) (a b : Reg) (disp : Fin 65536) (p : Word → Word → Bool), branches i = some (a, b, disp, p) →
    notPort a → notPort b → LockStep s 1 → (me s).root = none → bodyEnds (me s) (me s).pc.toNat = false →
    ∃ t, exec i s = .next t ∧ t.mem = s.mem ∧ (∀ c, c ∉ flockOf s s.cur → getCtx t c = getCtx s c) ∧
      ∀ c ∈ flockOf s s.cur, getCtx t c =
        jumped c 1 (if p (val s a) (val s b) then target16 (me s).pc disp else (me s).pc + 4) (getCtx s c)) ∧
  (∀ (s u : State) (i : Instr) (d a b : Reg) (wu m : Nat) (f : Word → Word → Word), twoRegisters i = some (d, a, b, wu, f) →
    wellFormed i = true → notPort d → notPort a → notPort b → flockOf s s.cur = [s.cur, m] → s.cur ≠ m →
    (∀ sat wd, i = .add d a b sat wd → armedBit s = none) → Member s s.cur wu → Member s m 0 →
    wBits (me s).st 23 1 = 0 → (me s).mode = .running → (getCtx s m).budget.toNat < (getCtx s m).charge.toNat + wu →
    let t : Trap := ⟨cBUDGET, 0, false, wu, (getCtx s m).charge.toNat, none⟩
    let s1 := grace (noStall (leaveObjects (leaveObjects (wrote s s.cur wu 4 d (f (val s a) (val s b))) s.cur) m) m) m t
    let r := mkRec s1 s.cur ⟨cFLOCK, 0, false, 1 + cBUDGET * 2 ^ 16, wu, none⟩ (me s).pc.toNat
    handles s1 s.cur { r with flags := r.flags + 8 } u →
    exec i s = .next u ∧ (getCtx s1 m).g = (getCtx s m).g ∧ (getCtx s1 m).pc = (getCtx s m).pc ∧
      (getCtx s1 m).budget = (getCtx s m).charge + 64)

/-- R20, R225 to R229: the token instructions: tok.exp raises both counts; a wait ends when its count is 0 and no fault is held;
tok.rd gives the token's word; tok.bind names a counter of the partition; efence ends when the engines it names have nothing of the
context left; ebusy tells what is left.
R234 to R236, R288, R309: task.join gives the code of a counter at 0 and acquires its view, and waits at another value; flock.id
gives the member's index and the width, 1 outside a flock; halt ends the task's issue, and in a memory core its program.
The model's readings and choices it rests on: log 44, 62, 100, 107, 139. -/
def Obligations.TokensAndHalts : Prop :=
  ((∀ (s : State) (a : Reg) (t : TokId), notPort a → ReadyCompute s 1 → (me s).tok[t].sfree + (val s a).toNat < 2 ^ 20 →
    (me s).tok[t].vis + (val s a).toNat < 2 ^ 20 →
    exec (.tokExp a t) s = .next (did (modCtx s s.cur (fun x => { x with tok := x.tok.set t { x.tok[t] with
      sfree := x.tok[t].sfree + (val s a).toNat, vis := x.tok[t].vis + (val s a).toNat } })) s.cur 1 4)) ∧
  (∀ (s : State) (t : TokId), ReadyCompute s 1 → (me s).tok[t].fault = none →
    exec (.tokWaitSrc t) s = .next (if (me s).tok[t].sfree = 0 then did s s.cur 1 4 else markWait (noStall s s.cur) s.cur) ∧
    exec (.tokWaitVis t) s = .next (if (me s).tok[t].vis = 0 then did (joinThreads s s.cur (fun _ n => n == t.val)) s.cur 1 4
      else markWait (noStall s s.cur) s.cur)) ∧
  (∀ (s : State) (t : TokId) (h : HeldFault), ReadyCompute s 1 → (me s).tok[t].fault = some h → h.cause ≠ cILLEGAL →
    h.cause ≠ cPRIVILEGE →
    exec (.tokWaitVis t) s = .next (takeTrap s s.cur (heldTrap h t.val false) (me s).pc.toNat)) ∧
  (∀ (s : State) (d : Reg) (t : TokId), notPort d → ReadyCompute s 1 →
    exec (.tokRd d t) s = .next (markUnv (wrote s s.cur 1 4 d (w64 ((me s).tok[t].sfree + (me s).tok[t].vis * 2 ^ 20 +
      (me s).tok[t].bind * 2 ^ 40 + (if (me s).tok[t].fault.isSome then 2 ^ 56 else 0)))) s.cur)) ∧
  (∀ (s : State) (a : Reg) (t : TokId), notPort a → ReadyCompute s 1 → (me s).tok[t].bind = 0 → (val s a).toNat < 2 ^ 16 →
    counterOk s (val s a).toNat = true →
    exec (.tokBind a t) s = .next (markUnv (did (fireBind (modCtx s s.cur (fun x => { x with
      tok := x.tok.set t { x.tok[t] with bind := (val s a).toNat } })) s.cur t) s.cur 1 4) s.cur)) ∧
  (∀ (s : State) (e : Fin 8), ReadyCompute s 1 → (∀ t : TokId, (me s).tok[t].fault = none) → (∀ k : Fin 4, (me s).chfault[k] = none) →
    exec (.efence e) s = .next (if (e.val % 2 = 1 ∧ busyMat s s.cur = true) ∨ (e.val / 2 % 2 = 1 ∧ busyVec s s.cur = true) ∨
        (e.val / 4 = 1 ∧ busyCopy s s.cur = true)
      then markWait (noStall s s.cur) s.cur else did (joinThreads s s.cur (fun g _ => bitAt e.val g)) s.cur 1 4)) ∧
  (∀ (s : State) (d : Reg), notPort d → ReadyCompute s 1 →
    exec (.ebusy d) s = .next (markUnv (wrote s s.cur 1 4 d (w64 (ebusyVal s))) s.cur))) ∧
  ((∀ (s : State) (d a : Reg) (k : Counter), notPort d → notPort a → ReadyCompute s 1 → (val s a).toNat < 2 ^ 16 →
    counterOk s (val s a).toNat = true → getCtr s (dieOf s.cur) (val s a).toNat = k →
    exec (.taskJoin d a) s = .next (if k.value = 0
      then wrote (modCtx s s.cur (fun x => { x with view := mergeView x.view k.view })) s.cur 1 4 d
        (if k.abt then 0xFF else if k.lost then 7 else if k.rev then 6 else 0)
      else markWait (noStall s s.cur) s.cur)) ∧
  (∀ (s : State) (d : Reg), notPort d → ReadyCompute s 1 →
    exec (.flockId d) s = .next (wrote s s.cur 1 4 d (if wBits (me s).st 19 1 = 1
      then w64 (wBits (me s).flock 4 3 + wBits (me s).flock 0 4 * 2 ^ 8) else 0x100))) ∧
  (∀ (s : State), ReadyCompute s 1 → bodyEnds (me s) (me s).pc.toNat = false → (∀ t : TokId, (me s).tok[t].fault = none) →
    (∀ k : Fin 4, (me s).chfault[k] = none) → (∀ e, entOfCtx s s.cur = some e → e.members.headD s.cur = s.cur) →
    ∃ t, exec (.halt 0) s = .next t ∧ (me t).mode = .halted ∧ (me t).apx = none ∧ (me t).successor = 0 ∧ (me t).g = (me s).g ∧
      (.taskCompletion, EvArg.of [s.cur]) ∈ t.agenda ∧ t.mem = s.mem) ∧
  (∀ (s : State) (a : Reg) (v : Serving), notPort a → Ready s 1 → bodyEnds (me s) (me s).pc.toNat = false → isMem s.cur = true → (me s).serving = some v →
    ∃ t, exec (.halt a) s = .next t ∧ (me t).mode = .halted ∧
      (me t).serving = some { v with halted := true, retired := v.retired + 1 } ∧
      (.pushDelivery, EvArg.of [s.cur]) ∈ t.agenda))

/-- R255, R260: a root load or store outside root mode is the native one; in root mode it goes to the window SCR, a load also to
IN.
R262 to R265: k.emit appends a word to the output and gives its offset; k.emap appends a provenance pair; k.lda reads a word of
an Almanac record; k.mtr gives what is left of the meter.
The model's readings and choices it rests on: log 46, 139. -/
def Obligations.RootMode : Prop :=
  ((∀ (s : State) (i : Instr) (d b : KReg) (z : LdSize) (o : Fin 8192), rootLoads i = some (d, b, z, o) → Ready s 1 →
    let ea := (val s (kreg b) + wordOff o z.width.bytes).toNat
    ((me s).root = none → nearCheck s s.cur ea z.width.bytes .load = none →
      exec i s = .next (wrote (nearLoad s s.cur ea z.width.bytes).2 s.cur 1 11 (kreg d)
        (loaded z (nearLoad s s.cur ea z.width.bytes).1))) ∧
    (∀ r, (me s).root = some r → 0x50000000 ≤ ea → ea + z.width.bytes ≤ 0x50000000 + r.scrLen → ea % z.width.bytes = 0 →
      let a := winBase (me s) + (ea - 0x50000000)
      poisonOwn s s.cur a z.width.bytes = none →
      exec i s = .next (wrote (nearLoad s s.cur a z.width.bytes).2 s.cur 1 11 (kreg d)
        (loaded z (nearLoad s s.cur a z.width.bytes).1))) ∧
    (∀ r u bs, (me s).root = some r → 0x40000000 ≤ ea → ea + z.width.bytes ≤ 0x40000000 + r.plen → ea + z.width.bytes ≤ 0x50000000 →
      ea % z.width.bytes = 0 → fetchBytes s s.cur (r.inBase + (ea - 0x40000000)) z.width.bytes = .ok (u, bs) →
      exec i s = .next (wrote u s.cur 1 11 (kreg d) (loaded z bs))) ∧
    (∀ r, (me s).root = some r → (∀ j, j < z.width.bytes → ¬(0x50000000 ≤ ea + j ∧ ea + j < 0x50000000 + r.scrLen) ∧
        ¬(0x40000000 ≤ ea + j ∧ ea + j < 0x40000000 + r.plen)) →
      exec i s = .next (takeTrap s s.cur ⟨cCONFINE, ea, false, 0, 0, none⟩ (me s).pc.toNat))) ∧
  (∀ (s : State) (i : Instr) (d b : KReg) (z : Width) (o : Fin 8192), rootStores i = some (d, b, z, o) → Ready s 1 →
    let ea := (val s (kreg b) + wordOff o z.bytes).toNat
    ((me s).root = none → nearCheck s s.cur ea z.bytes .store = none →
      exec i s = .next (did (nearStore s s.cur ea (storedBytes z (val s (kreg d)))) s.cur 1 11)) ∧
    (∀ r, (me s).root = some r → 0x50000000 ≤ ea → ea + z.bytes ≤ 0x50000000 + r.scrLen → ea % z.bytes = 0 →
      exec i s = .next (did (nearStore s s.cur (winBase (me s) + (ea - 0x50000000)) (storedBytes z (val s (kreg d))))
        s.cur 1 11)))) ∧
  ((∀ (s u : State) (d a : KReg) (r : RootRun), inRun s r → Ready s 1 → (val s (kreg a)).toNat < 2 ^ 32 →
    4 * r.out.length + 4 ≤ r.outLim →
    runWrite s (r.outArea + 4 * r.out.length) (leBytes 4 (val s (kreg a)).toNat) = .ok u →
    exec (.kEmit d a) s = .next (wrote (modCtx u s.cur (fun x => { x with
      root := some { r with out := (val s (kreg a)).toNat :: r.out } })) s.cur 1 4 (kreg d) (w64 (4 * r.out.length)))) ∧
  (∀ (s u : State) (a b : KReg) (r : RootRun), inRun s r → Ready s 1 → (val s (kreg a)).toNat % 4 = 0 →
    (val s (kreg a)).toNat ≤ 4 * r.out.length → (r.prov.headD (0, 0)).1 ≤ (val s (kreg a)).toNat →
    (val s (kreg b)).toNat < r.plen → r.prov.length + 1 ≤ r.outLim / 4 →
    runWrite s (r.provArea + 8 * r.prov.length) (leBytes 4 (val s (kreg a)).toNat ++ leBytes 4 (val s (kreg b)).toNat) = .ok u →
    exec (.kEmap a b) s = .next (did (modCtx u s.cur (fun x => { x with
      root := some { r with prov := ((val s (kreg a)).toNat, (val s (kreg b)).toNat) :: r.prov } })) s.cur 1 4)) ∧
  (∀ (s : State) (d a b : KReg) (r : RootRun), inRun s r → Ready s 1 →
    exec (.kLda d a b) s = .next (wrote s s.cur 1 4 (kreg d) (w64 (almWord (val s (kreg a)).toNat (val s (kreg b)).toNat)))) ∧
  (∀ (s : State) (d : KReg) (r : RootRun), inRun s r → Ready s 1 →
    exec (.kMtr d) s = .next (wrote s s.cur 1 4 (kreg d) (w64 (r.limit - r.count)))))

/-- R261, R262, R266, R270, R271: how a run ends: k.tend with an output that fails a check gives TRANSL_OUTPUT and the reason; one
that passes inserts the entry; k.tfail gives TFAIL with its detail; a trap gives its cause; the meter at its limit gives METER. The
context halts and the request's result words wait for the hypervisor.
R267, R268: the check of a run's output: it passes where every word is one that a task on a compute core may meet, the targets of
branches and the bodies of loops lie in the output, the last word is no fmtp and every entry is mapped; an empty output is reason 8; the
first failing word of the first failing check is named.
The model's readings and choices it rests on: log 76, 77, 139. -/
def Obligations.RunEnds : Prop :=
  ((∀ (s : State) (r : RootRun) (q : HReq) (reason addr detail : Nat), inRun s r → Ready s 1 → findReq s r.req = some q →
    outputCheck r.out.reverse r.prov.reverse q.entries = some (reason, addr, detail) →
    exec .kTend s = .next (rootEnd (did s s.cur 1 4) s.cur { r with count := r.count + 1 } (0x18 + reason * 2 ^ 16)
      (me s).pc.toNat addr detail)) ∧
  (∀ (s : State) (r : RootRun) (q : HReq), inRun s r → Ready s 1 → findReq s r.req = some q →
    outputCheck r.out.reverse r.prov.reverse q.entries = none → dirFind s q.part q.key = none →
    ∃ t, exec .kTend s = .next t ∧ (me t).mode = .halted ∧
      (∀ h ∈ t.hreqs, h.id = r.req → h.stage = 5 ∧ h.res = [0, (r.count + 1) % 2 ^ 32 + 4 * r.out.length * 2 ^ 32, r.prov.length,
        (me s).pc.toNat, 0, 0, r.outArea, r.provArea]) ∧
      ((getPart? s q.part).isSome = true → ∃ e, dirFind t q.part q.key = some e ∧ e.outBase = r.outArea ∧
        e.outLen = 4 * r.out.length ∧ e.prov = r.prov.reverse)) ∧
  (∀ (s : State) (a : KReg) (r : RootRun), inRun s r → Ready s 1 →
    exec (.kTfail a) s = .next (rootEnd (did s s.cur 1 4) s.cur { r with count := r.count + 1 } 0x8000 (me s).pc.toNat 0
      (val s (kreg a)).toNat)) ∧
  (∀ (s : State) (c pc : Nat) (r : RootRun) (t : Trap), isMem c = false → (getCtx s c).root = some r → t.cause ≠ cUNCORRECTABLE →
    t.cause = cCONFINE ∨ t.cause = cALIGN ∨ t.cause = cFAR_TRANSLATE ∨ t.cause = cFAR_PERMISSION →
    takeTrap s c t pc = rootEnd (unwait s c) c r t.cause pc t.addr 0) ∧
  (∀ (s : State) (r : RootRun), let c := argN s 0
    (getCtx s c).root = some r → (getCtx s c).waiting = true → (getCtx s c).mode = .running → r.limit ≤ r.count →
    exec .meter s = .next (rootEnd s c r 0x17 (getCtx s c).pc.toNat 0 0)) ∧
  (∀ (s : State) (c status pc addr detail : Nat) (r : RootRun),
    let t := rootEnd s c r status pc addr detail
    (getCtx t c).mode = .halted ∧ (∀ h ∈ t.hreqs, h.id = r.req → h.stage = 5 ∧
      h.res = [status, r.count % 2 ^ 32, 0, pc, addr, detail, h.outArea, h.provArea]) ∧
    (.hcallReply, EvArg.of [r.req]) ∈ t.agenda ∧ t.mem = s.mem)) ∧
  ((∀ (prov : List (Nat × Nat)) (ents : List Nat), outputCheck [] prov ents = some (8, 0, 0)) ∧
  (∀ (ws : List Nat) (prov : List (Nat × Nat)) (ents : List Nat), ws ≠ [] →
    let after (i : Nat) : Bool := 0 < i && isFmtp (ws.getD (i - 1) 0)
    (outputCheck ws prov ents = none ↔ (∀ i, i < ws.length → wordFails (ws.getD i 0) (after i) = none ∧
      targetIn ws.length i (ws.getD i 0) = true ∧ loopIn ws.length i (ws.getD i 0) = true) ∧
      isFmtp (ws.getD (ws.length - 1) 0) = false ∧ ∀ p ∈ ents, ∃ q ∈ prov, q.2 = p ∧ q.1 < 4 * ws.length) ∧
    (∀ i d, i < ws.length → wordFails (ws.getD i 0) (after i) = some d → (∀ j, j < i → wordFails (ws.getD j 0) (after j) = none) →
      outputCheck ws prov ents = some (1, 4 * i, d)) ∧
    (∀ i, i < ws.length → (∀ j, j < ws.length → wordFails (ws.getD j 0) (after j) = none) →
      targetIn ws.length i (ws.getD i 0) = false → (∀ j, j < i → targetIn ws.length j (ws.getD j 0) = true) →
      outputCheck ws prov ents = some (2, 4 * i, 0))))

/-- R177, R180, R185 to R187, R191 to R197: the matrix commands are checked and queued with what they resolved: the formats, the
NaN counter, the rounding and the view; the step counter of the accumulator moves.
The model's readings and choices it rests on: log 11, 43, 107, 111, 117, 139. -/
def Obligations.MatrixIssue : Prop :=
  (∀ (s : State) (i : Instr) (op : Nat) (a b : Reg) (t : TokId) (k : Fin 4) (slice z : Bool),
    mmaForms i = some (op, a, b, t, k, slice, z) → notPort a → notPort b → FreeCompute s 16 →
    waitingCmds (getCore s (coreOf s.cur)).mat < 2 →
    let lo := (val s a).toNat
    let hi := (val s b).toNat
    let ra := regA (me s) (bitsAt lo 48 3)
    let rb := regB (me s) (bitsAt lo 51 3)
    let rs := mmaRanges (fmtOf ra) (fmtOf rb) lo hi slice
    let ks := if z then 0 else (me s).ks[k].toNat
    bitsAt lo 54 10 = 0 → bitsAt hi 48 16 = 0 → fmtKind ra ≠ 3 → fmtKind rb ≠ 3 → strideOk (bitsAt lo 32 16) (4 * (fmtOf ra).w) = true →
    strideOk (bitsAt hi 32 16) (4 * (fmtOf rb).w) = true → Issuable s 0 t rs →
    exec i s = .next (commanded (pushMat { bareCmd s.nextId op s.cur t k (lo + hi * 2 ^ 64) (me (issued s 0 t rs)).view with
      fa := ra.toNat, fb := rb.toNat, ks := ks } (setKs (issued s 0 t rs) s.cur k (ks + 1))) s.cur 16 true slice)) ∧
  (∀ (s : State) (t : TokId) (k : Fin 4), ReadyCompute s 1 → waitingCmds (getCore s (coreOf s.cur)).mat < 2 → Issuable s 0 t [] →
    exec (.accz t k) s = .next (commanded (pushMat (bareCmd s.nextId 4 s.cur t k 0 (me (issued s 0 t [])).view)
      (setKs (issued s 0 t []) s.cur k 0)) s.cur 1 false false)) ∧
  (∀ (s : State) (i : Instr) (op : Nat) (a b : Reg) (t : TokId) (k : Fin 4), accLoads i = some (op, a, b, t, k) → notPort a →
    notPort b → ReadyCompute s 4 → waitingCmds (getCore s (coreOf s.cur)).mat < 2 →
    let lo := (val s a).toNat
    let rs := rowRanges (bitsAt lo 0 32) (bitsAt lo 32 16) 64 false .near
    val s b = 0 → bitsAt lo 48 16 = 0 → strideOk (bitsAt lo 32 16) 64 = true → Issuable s 0 t rs →
    exec i s = .next (commanded (pushMat { bareCmd s.nextId op s.cur t k lo (me (issued s 0 t rs)).view with
      ks := (me s).ks[k].toNat } (if op = 5 then setKs (issued s 0 t rs) s.cur k 0 else issued s 0 t rs)) s.cur 4 false false)) ∧
  (∀ (s : State) (i : Instr) (op : Nat) (a b : Reg) (t : TokId) (m : AmxSel) (keep : Bool) (k : Fin 4),
    drains i = some (op, a, b, t, m, keep, k) → notPort a → notPort b → FreeCompute s (if op = 7 then 8 else 4) →
    waitingCmds (getCore s (coreOf s.cur)).mat < 2 →
    let lo := (val s a).toNat
    let hi := (val s b).toNat
    let ro := regO (me s) (bitsAt lo 48 3)
    let rt := (me s).fmt[fmtIx (bitsAt hi 48 3)]
    let rs := copyRanges (fmtOf ro) lo ++ (if op = 7 then copyRanges (fmtOf rt) hi else [])
    let rnd := cmdRnd (me s) (bitsAt lo 51 3)
    let draws := if rnd = rSR then (if isF32 (fmtOf ro) then 0 else 256) + (if op = 7 ∧ isF32 (fmtOf rt) = false then 256 else 0) else 0
    bitsAt lo 54 10 = 0 → bitsAt lo 51 3 ≤ 5 → (if op = 7 then bitsAt hi 51 13 = 0 else hi = 0) →
    strideOk (bitsAt lo 32 16) (2 * (fmtOf ro).w) = true →
    (op = 7 → strideOk (bitsAt hi 32 16) (2 * (fmtOf rt).w) = true) → Issuable s 0 t rs →
    exec i s = .next (commanded (pushMat { bareCmd s.nextId op s.cur t k (lo + hi * 2 ^ 64) (me (issued s 0 t rs)).view with
      fo := ro.toNat, ft := rt.toNat, rnd := rnd, keep := keep, amx := m.map Fin.val, lfsr := (me s).lfsr }
      (afterDraws draws (if keep then issued s 0 t rs else setKs (issued s 0 t rs) s.cur k 0))) s.cur (if op = 7 then 8 else 4)
      true false))

/-- R177, R181, R188, R191 to R193: the oldest command begins when none runs; its completion takes it off the queue, lowers VIS of
its token and leaves in its accumulator the new words: products summed, zeros, words of memory, or sums with them.
R194 to R198: a drain's completion writes its copy: element (i, j) in row i at position j, in drn.t a second copy with row j at position
i, in f32 the words themselves, in another format each rounded, or block by block with the scale bytes behind row 15; under SR the states of
the LFSR go to the elements in order, of the first copy and then of the second. No other byte of memory changes. Then the running maximum
takes the words, and the accumulator and its counter are cleared unless they are kept.
R199 to R201: the queries of the matrix engine: mq.stat, mq.nan and the constant word of mq.cap.
R64, R187, R188: a product sum of finite values is exact until its one rounding to f32 under RNE.
The model's readings and choices it rests on: log 11, 36, 38, 101, 107, 139. -/
def Obligations.MatrixEvents : Prop :=
  ((∀ (s : State) (e : EngCmd) (q : List EngCmd), (getCore s (argN s 0)).mat = e :: q → e.running = false →
    ∃ t, exec .matrixCommandStart s = .next t ∧ (getCore t (argN s 0)).mat = { e with running := true } :: q ∧
      (.matrixCommandComplete, EvArg.of [argN s 0]) ∈ t.agenda ∧ t.ctxs = s.ctxs ∧ t.mem = s.mem) ∧
  (∀ (s : State) (e : EngCmd) (q : List EngCmd), (getCore s (argN s 0)).mat = e :: q → e.running = true →
    rangePoison s e.ctx (matReads e) = none → e.op ≤ 5 ∨ e.op = 8 →
    let lo := e.cmd % 2 ^ 64
    let hi := e.cmd / 2 ^ 64
    let old := accWords (getCtx s e.ctx).acc[chanIx e.k]
    let nan := nanWord (coreOf e.ctx) e.ks
    let tile (f base str : Nat) := tileOf s e.view e.ctx (fmtOf (BitVec.ofNat 32 f)) base str
    let new : List Nat :=
      if e.op ≤ 3 then (mmaResult (2 ≤ e.op) nan (tile e.fa (bitsAt lo 0 32) (bitsAt lo 32 16))
        (tile e.fb (bitsAt hi 0 32) (bitsAt hi 32 16)) old).1
      else if e.op = 4 then []
      else if e.op = 5 then srcWords s e.view e.ctx (bitsAt lo 0 32) (bitsAt lo 32 16)
      else (old.zip (srcWords s e.view e.ctx (bitsAt lo 0 32) (bitsAt lo 32 16))).map (fun p => (psumElem nan p.1 p.2).1)
    ∃ t, exec .matrixCommandComplete s = .next t ∧ (getCore t (argN s 0)).mat = q ∧
      (getCtx t e.ctx).acc[chanIx e.k] = new.map (BitVec.ofNat 32) ∧
      (∀ k, k ≠ chanIx e.k → (getCtx t e.ctx).acc[k] = (getCtx s e.ctx).acc[k]) ∧
      (getCtx t e.ctx).tok[tokIx e.tok].vis = (getCtx s e.ctx).tok[tokIx e.tok].vis - 1 ∧
      (getCtx t e.ctx).g = (getCtx s e.ctx).g ∧ (getCtx t e.ctx).pc = (getCtx s e.ctx).pc ∧ t.mem = s.mem) ∧
  (∀ (nan a b : Nat), a < 2 ^ 32 → b < 2 ^ 32 → let x := decodeF f32Fmt a
    let y := decodeF f32Fmt b
    let r := psumElem nan a b
    (x.isNan = true → y.isNan = false → r = (a, 0)) ∧ (x.isNan = false → y.isNan = true → r = (b, 0)) ∧
    (x.isNan = true → y.isNan = true → (r = (a, 0) ∨ r = (b, 0)) ∧ ∀ u ∈ [a, b], bitsAt r.1 8 14 < bitsAt u 8 14 ∨
      (bitsAt r.1 8 14 = bitsAt u 8 14 ∧ (bitsAt r.1 0 8 < bitsAt u 0 8 ∨ (bitsAt r.1 0 8 = bitsAt u 0 8 ∧ r.1 ≤ u)))) ∧
    (∀ n, x = .inf n → y = .inf (!n) → r = (nan, fNV)) ∧ (∀ n, x = .inf n → finiteV y = true → r = (a, 0)) ∧
    (finiteV x = true → finiteV y = true → roundsTo f32Fmt 0 (r.1, ⟨0, r.2⟩) ((ratV x + ratV y : ℚ) : ℝ)))) ∧
  (∀ (s : State) (e : EngCmd) (q : List EngCmd), (getCore s (argN s 0)).mat = e :: q → e.running = true → e.op = 6 ∨ e.op = 7 →
    let c := e.ctx
    let x := getCtx s c
    let lo := e.cmd % 2 ^ 64
    let hi := e.cmd / 2 ^ 64
    let fo := fmtOf (BitVec.ofNat 32 e.fo)
    let ft := fmtOf (BitVec.ofNat 32 e.ft)
    let old := accWords x.acc[chanIx e.k]
    copyPlaced c fo lo → (e.op = 7 → copyPlaced c ft hi) →
    ∃ t, exec .matrixCommandComplete s = .next t ∧ (getCore t (argN s 0)).mat = q ∧
      (e.op = 6 ∨ (∀ a, inCopy c fo lo a → ¬inCopy c ft hi a) →
        drainedCopy t.mem c fo e.rnd e.lfsr lo (fun i j => old.getD (16 * i + j) 0)) ∧
      (e.op = 7 → drainedCopy t.mem c ft e.rnd (lfsrSteps (if e.rnd = rSR ∧ fo ≠ f32Fmt then 256 else 0) e.lfsr) hi
        (fun j i => old.getD (16 * i + j) 0)) ∧
      (∀ a, ¬inCopy c fo lo a → (e.op = 7 → ¬inCopy c ft hi a) → memGet t.mem a = memGet s.mem a) ∧
      (getCtx t c).acc[chanIx e.k] = (if e.keep then x.acc[chanIx e.k] else []) ∧
      (getCtx t c).ks[chanIx e.k] = (if e.keep then x.ks[chanIx e.k] else 0) ∧
      (∀ m : Fin 4, (getCtx t c).amx[m] = if e.amx.map chanIx = some m then amxUpdate x.amx[m] old else x.amx[m]) ∧
      (getCtx t c).tok[tokIx e.tok].vis = x.tok[tokIx e.tok].vis - 1 ∧ (getCtx t c).g = x.g ∧ (getCtx t c).pc = x.pc) ∧
  (∀ (s : State) (d : Reg), notPort d → ReadyCompute s 1 →
    exec (.mqStat d) s = .next (markUnv (wrote s s.cur 1 0 d (w64 (mqStatVal s))) s.cur) ∧
    (∀ k, exec (.mqNan d k) s = .next (markUnv (wrote s s.cur 1 0 d (w64 (mqNanVal s k))) s.cur)) ∧
    exec (.mqCap d) s = .next (wrote s s.cur 1 0 d 0x05430FFC20101024)) ∧
  (∀ (a b : List FVal), (∀ v ∈ a, finiteV v = true) → (∀ v ∈ b, finiteV v = true) →
    ∃ n m e, ratOf n m e = ((a.zip b).map (fun p => ratV p.1 * ratV p.2)).sum ∧
      (dotF a b).1 = some (encodeF f32Fmt 0 ⟨0, 0⟩ (.fin n m e)).1)

/-- R207 to R210: the vector commands are checked and queued; the oldest begins when none runs; its completion takes it off the
queue, performs its writes and lowers VIS of its token.
R207, R209, R212, R213: the bytes a vector command writes. An op that rounds leaves its results in D, element by element or block by
block, one LFSR state for each element stored (R63), with the scale bytes behind them. vx.gth leaves the table's elements that the indices
name, +0 for an index beyond it; vx.sct leaves in the table the last element sent to each place, read where every load gets the newest bytes.
NV is set in ST where an index is beyond the table. No other byte of memory changes.
R211, R212: the exact values that a vector command rounds, element by element, for finite operands: sums, differences, products, fused
products, the lesser, the greater, magnitudes, opposites and relu; the sum, the extremes and the greatest magnitude of X; X itself. The
first NaN among the operands that the function reads is the result.
The model's readings and choices it rests on: log 11, 36, 45, 107, 110, 117, 130, 139. -/
def Obligations.VectorCommands : Prop :=
  ((∀ (s : State) (i : Instr) (op : Nat) (a b : Reg) (t : TokId) (m : AmxSel) (y : Bool),
    vectorForms i = some (op, a, b, t, m, y) → notPort a → notPort b → waitingCmds (getCore s (coreOf s.cur)).vec < 2 →
    let lo := (val s a).toNat
    let hi := (val s b).toNat
    let v := vcmdOf lo hi
    let fx := fmtOf (regA (me s) v.fx)
    let fy := fmtOf (regB (me s) v.fy)
    let fd := fmtOf (regO (me s) v.fd)
    let rs := vecReads op y fx fy v ++ operandRanges fd v.dbase (dCount op v) true
    let wu := 2 + ceilDiv (vecBytes op fx fy fd v) 64
    FreeCompute s wu →
    vecBad op (me s) v (match prefixOf (me s) with | some p => p.a | none => fmtIx v.fx)
      (match prefixOf (me s) with | some p => p.out | none => fmtIx v.fd) = false → Issuable s 1 t rs →
    exec i s = .next (commanded (pushVec { bareCmd s.nextId (32 + op) s.cur t 0 (lo + hi * 2 ^ 64) (me (issued s 1 t rs)).view with
      fa := (regA (me s) v.fx).toNat, fb := (regB (me s) v.fy).toNat, fo := (regO (me s) v.fd).toNat, rnd := cmdRnd (me s) v.rnd
      amx := m.map Fin.val, yb := y, lfsr := (me s).lfsr
      slice := (vecReads op y fx fy v).any (fun r => regionOf (me s) s.cur r.base == some 2) }
      (afterDraws (if cmdRnd (me s) v.rnd = rSR ∧ indexed op = false then dCount op v else 0) (issued s 1 t rs))) s.cur wu true
      ((vecReads op y fx fy v).any (fun r => regionOf (me s) s.cur r.base == some 2)))) ∧
  (∀ (s : State) (e : EngCmd) (q : List EngCmd), (getCore s (argN s 0)).vec = e :: q → e.running = false →
    ∃ t, exec .vectorCommandStart s = .next t ∧ (getCore t (argN s 0)).vec = { e with running := true } :: q ∧
      (.vectorCommandComplete, EvArg.of [argN s 0]) ∈ t.agenda ∧ t.ctxs = s.ctxs ∧ t.mem = s.mem) ∧
  (∀ (s : State) (e : EngCmd) (q : List EngCmd), (getCore s (argN s 0)).vec = e :: q → e.running = true →
    rangePoison s e.ctx (vecSources e) = none →
    ∃ t, exec .vectorCommandComplete s = .next t ∧ (getCore t (argN s 0)).vec = q ∧ t.mem = (vecRun s e).1.mem ∧
      (getCtx t e.ctx).tok[tokIx e.tok].vis = (getCtx s e.ctx).tok[tokIx e.tok].vis - 1 ∧
      (getCtx t e.ctx).g = (getCtx s e.ctx).g ∧ (getCtx t e.ctx).pc = (getCtx s e.ctx).pc)) ∧
  (∀ (s : State) (e : EngCmd) (q : List EngCmd), (getCore s (argN s 0)).vec = e :: q → e.running = true →
    rangePoison s e.ctx (vecSources e) = none →
    let c := e.ctx
    let v := vcmdOf (e.cmd % 2 ^ 64) (e.cmd / 2 ^ 64)
    let fx := fmtOf (BitVec.ofNat 32 e.fa)
    let fy := fmtOf (BitVec.ofNat 32 e.fb)
    let fd := fmtOf (BitVec.ofNat 32 e.fo)
    let p := phys c v.dbase
    let n := 2 ^ (v.fn + 4)
    let ix (i : Nat) : Nat := leNat (engRead s e.view (phys c v.ybase) (2 * v.count)) / 2 ^ (16 * i) % 2 ^ 16
    let nv (t : State) : Prop := (wBits (getCtx t c).st 12 1 = 1 ↔ wBits (getCtx s c).st 12 1 = 1 ∨ ∃ i, i < v.count ∧ n ≤ ix i)
    ∃ t, exec .vectorCommandComplete s = .next t ∧
    (32 ≤ e.op → e.op ≤ 35 →
      let rs := vecResults (e.op - 32) v.fn e.rnd e.yb (operandVals s e.view c fx v.xbase v.count)
        (if usesY (e.op - 32) v.fn then operandVals s e.view c fy v.ybase (yCount e.yb v) else [])
        (if e.op = 32 ∧ v.fn = 3 then operandVals s e.view c fd v.dbase v.count else [])
      let z := phys c (v.dbase + scaleOff fd rs.length)
      (fd.scale = true → z = p + scaleOff fd rs.length) → rs.length = dCount (e.op - 32) v ∧
      coded t.mem fd e.rnd e.lfsr p z rs.length (fun i => (rs.getD i (.fin false 0 0, 0)).1) ∧
      ∀ a, a < p ∨ p + streamLen fd rs.length ≤ a → fd.scale = false ∨ a < z ∨ z + ceilDiv rs.length 4 ≤ a →
        memGet t.mem a = memGet s.mem a) ∧
    (e.op = 36 → nv t ∧
      (∀ i, i < v.count → elemAt t.mem p fx.w i =
        if ix i < n then leNat (engRead s e.view (phys c v.xbase) (streamLen fx n)) / 2 ^ (fx.w * ix i) % 2 ^ fx.w else 0) ∧
      ∀ a, a < p ∨ p + streamLen fx v.count ≤ a → memGet t.mem a = memGet s.mem a) ∧
    (e.op = 37 → s.choices = [] → (∀ o, o ≤ streamLen fx n → phys c (v.dbase + o) = p + o) → nv t ∧
      (∀ k, k < n →
        (∀ i, i < v.count → ix i = k → (∀ j, i < j → j < v.count → ix j ≠ k) →
          elemAt t.mem p fx.w k = leNat (engRead s e.view (phys c v.xbase) (streamLen fx v.count)) / 2 ^ (fx.w * i) % 2 ^ fx.w) ∧
        ((∀ i, i < v.count → ix i ≠ k) → elemAt t.mem p fx.w k = elemAt s.mem p fx.w k)) ∧
      ∀ a, a < p ∨ p + streamLen fx n ≤ a → memGet t.mem a = memGet s.mem a)) ∧
  ((∀ (fn rnd : Nat) (yb : Bool) (xs ys ds : List FVal) (i : Nat), i < xs.length → let zero : FVal := .fin false 0 0
    let x := xs.getD i zero
    let y := ys.getD (if yb then 0 else i) zero
    let d := ds.getD i zero
    let r := (vecResults 0 fn rnd yb xs ys ds).getD i (zero, 0)
    (vecResults 0 fn rnd yb xs ys ds).length = xs.length ∧
    (finiteV x = true → finiteV y = true → finiteV d = true → finiteV r.1 = true ∧ r.2 = 0 ∧
      (fn = 0 → ratV r.1 = ratV x + ratV y) ∧ (fn = 1 → ratV r.1 = ratV x - ratV y) ∧ (fn = 2 → ratV r.1 = ratV x * ratV y) ∧
      (fn = 3 → ratV r.1 = ratV x * ratV y + ratV d) ∧ (fn = 4 → ratV r.1 = min (ratV x) (ratV y)) ∧
      (fn = 5 → ratV r.1 = max (ratV x) (ratV y)) ∧ (fn = 6 → ratV r.1 = |ratV x|) ∧ (fn = 7 → ratV r.1 = -ratV x) ∧
      (fn = 8 → ratV r.1 = max (ratV x) 0)) ∧
    (x.isNan = true → r.1 = x) ∧ (x.isNan = false → y.isNan = true → fn ≤ 5 → r.1 = y) ∧
    (x.isNan = false → y.isNan = false → d.isNan = true → fn = 3 → r.1 = d)) ∧
  (∀ (fn rnd : Nat) (yb : Bool) (xs : List FVal) (v : FVal), xs.find? FVal.isNan = some v →
    vecResults 1 fn rnd yb xs [] [] = [(v, if xs.any FVal.isSig then fNV else 0)]) ∧
  (∀ (fn rnd : Nat) (yb : Bool) (x : FVal) (xs : List FVal), (∀ v ∈ x :: xs, finiteV v = true) →
    ∃ r, vecResults 1 fn rnd yb (x :: xs) [] [] = [(r, 0)] ∧ finiteV r = true ∧
      (fn = 0 → ratV r = ((x :: xs).map ratV).sum) ∧
      (fn = 1 → ratV r ∈ (x :: xs).map ratV ∧ ∀ v ∈ x :: xs, ratV v ≤ ratV r) ∧
      (fn = 2 → ratV r ∈ (x :: xs).map ratV ∧ ∀ v ∈ x :: xs, ratV r ≤ ratV v) ∧
      (fn = 3 → ratV r ∈ (x :: xs).map (fun v => |ratV v|) ∧ ∀ v ∈ x :: xs, |ratV v| ≤ ratV r)) ∧
  (∀ (rnd : Nat) (yb : Bool) (xs : List FVal),
    vecResults 2 0 rnd yb xs [] [] = xs.map (fun v => (v, if v.isNan && v.isSig then fNV else 0))))

/-- R216: cpy.go and a write of CHHEADk on a compute core start a chain after every earlier store of the context has performed;
cpy.go counts it on its token first, and waits while the queue has no room. A chain takes an idle channel, whose first record is
then due, or joins the queue at its end.
R217 to R221: the next record of a chain is taken: when it lies in the context's window, is aligned and passes the checks of
its header, its kind, its ranges, the marks and the budget, its work units are charged, RECS rises and POS stands at its first near
byte, OPC is written into it and its movement is due.
The model's readings and choices it rests on: log 11, 22, 27, 52, 117, 139. -/
def Obligations.CopyChains : Prop :=
  ((∀ (s : State) (a : Reg) (t : TokId) (k : Fin 4), notPort a → ReadyCompute s 1 → (val s a).toNat < 2 ^ 32 →
    (me s).chfault[k] = none → (me s).tok[t].sfree + 1 < 2 ^ 20 → (me s).tok[t].vis + 1 < 2 ^ 20 →
    (queueFull s s.cur k = false →
      exec (.cpyGo a t k) s = .next (did (addChain (modTok (drain s s.cur) s.cur t (fun q => { q with
          sfree := q.sfree + 1, vis := q.vis + 1 })) (coreOf s.cur) k
        ⟨s.cur, (me s).pc.toNat, some t.val, (val s a).toNat, (me s).region, privOf (me s), (me (drain s s.cur)).view⟩) s.cur 1 0)) ∧
    (queueFull s s.cur k = true → exec (.cpyGo a t k) s = .next (markWait (noStall s s.cur) s.cur))) ∧
  (∀ (s : State) (a : Reg) (k : Fin 4), notPort a → ReadyCompute s 1 → (val s a).toNat < 2 ^ 32 → (me s).chfault[k] = none →
    queueFull s s.cur k = false →
    exec (.mtcChhead a k) s = .next (did (addChain (drain s s.cur) (coreOf s.cur) k
      ⟨s.cur, (me s).pc.toNat, none, (val s a).toNat, (me s).region, privOf (me s), (me (drain s s.cur)).view⟩) s.cur 1 4)) ∧
  (∀ (s : State) (core : Nat) (k : Fin 4) (ch : Chain), let t := addChain s core k ch
    (getCtx t ch.ctx).chhead[k] = BitVec.ofNat 32 ch.head ∧
    ((getCore s core).chans[k] = none → (getCore t core).chans[k] = some ⟨ch, ch.head, none⟩ ∧
      (.copyChainStart, EvArg.of [core, k.val]) ∈ t.agenda ∧ (getCtx t ch.ctx).chcause[k] = 0) ∧
    ((getCore s core).chans[k] ≠ none → (getCore t core).copyQ = (getCore s core).copyQ ++ [(k.val, ch)] ∧ t.agenda = s.agenda))) ∧
  (∀ (s : State) (k : Fin 4) (r : ChainRun), argN s 1 = k.val → (getCore s (argN s 0)).chans[k] = some r → r.running = none →
    let core := argN s 0
    let c := r.chain.ctx
    let w := recWords s r.chain.view c r.next
    chainActive s c = true → ownBytes s c r.next 64 → r.next % 64 = 0 → poisonTrap s c r.next 64 = none →
    let s1 := modCore s core (fun q => { q with chans := q.chans.set k (some { r with running := some (badRec r.next w s.nextId) }) })
    headerOk w = true → kindRules s ((partOf s c).getD 0) w = true →
    (bitsAt (w.getD 0 0) 60 3 = 3 → ∀ e, entOfCtx s c = some e → e.telig = false ∧ e.transit.runCtx ≠ some c) →
    rangesBad s1 c r.chain.priv w = none → recConflict s r.chain (nearRanges w) = none →
    overBudget (getCtx s c) c (4 + ceilDiv (recBytes w) 256) = false →
    ∃ t, exec .copyChainStart s = .next t ∧ (getCtx t c).chrec[k] = r.next ∧
      (getCtx t c).wp[k] = w64 (firstNear w % 2 ^ 32 + (wBits (getCtx s c).wp[k] 32 32 + 1) % 2 ^ 32 * 2 ^ 32) ∧
      (getCtx t c).charge = (getCtx s c).charge + w64 (4 + ceilDiv (recBytes w) 256) ∧
      (getCtx t c).ecnt = (getCtx s c).ecnt ∧ (∃ run q, runOf t core k = some (run, q) ∧ q.addr = r.next ∧ q.words = w ∧ q.lines = piecesOf w ∧ q.moved = 0 ∧ q.fwd = 0 ∧
        q.fault = none) ∧
      memRead t.mem (phys c (r.next + 0x38)) 8 = leBytes 8 (if r.chain.tok.isSome then r.chain.opc else 0) ∧
      (if bitAt (w.getD 0 0) 51 || bitAt (w.getD 0 0) 50 then (.lineForward, EvArg.of [core, k.val]) ∈ t.agenda
       else (.writePointerAdvance, EvArg.of [core, k.val]) ∈ t.agenda) ∧
      (getCtx t c).g = (getCtx s c).g ∧ (getCtx t c).pc = (getCtx s c).pc)

/-- R219 to R223: the movement of a record between near ranges: each piece is copied in ascending order of its bytes and POS passes
it; the end of reading lowers the source-free count of the record's token and, at the last record, of the chain token, completion counts its
energy (R459), clears OWN and STATUS, lowers VIS of the same tokens and leaves the channel idle after a last record. Of a unit of the slice
that a later piece also writes, the bytes wait for the last of it (R305). Where the two ranges do not run over each other, the bytes written are those read.
R224: a record's fault, once its lines under way are done: STATUS and CAUSE take the cause, the record's token, or else
the chain token, holds the fault with the record, its channel and the lines completed, VIS of both drops, the record's marks go and the channel leaves the chain.
R218, R124: an ATOMIC record: its line goes to its channel with the operand and the comparand, the 16 near bytes at SRC; at the channel
the far word takes the value of the operation and no other byte of memory changes; the old value, sign-extended to 64 bits, replaces the 8
bytes at SRC.
The model's readings and choices it rests on: log 11, 22, 23, 34, 45, 52, 63, 136. -/
def Obligations.NearCopies : Prop :=
  ((∀ (s : State) (k : Fin 4) (r : ChainRun) (q : RunRec) (l : FarLine), argN s 1 = k.val → nearRecord s k r q →
    q.suspended = false → q.fault = none → q.poisoned = false → q.lines[q.moved]? = some l → 0 < l.len →
    onePiece r.chain.ctx l → s.choices = [] → q.tail = [] →
    cleanBytes s (phys r.chain.ctx l.va) l.len = l.len →
    let c := r.chain.ctx
    ∃ t, exec .writePointerAdvance s = .next t ∧
      staged s t (argN s 0) k c q l (moveBytes s.mem (phys c l.va) (phys c l.near) l.len) ∧
      (getCtx t c).g = (getCtx s c).g ∧ (getCtx t c).pc = (getCtx s c).pc) ∧
  (∀ (m : Memory) (src dst n : Nat), dst ≤ src ∨ src + n ≤ dst → moveBytes m src dst n = memRead m src n) ∧
  (∀ (s : State) (k : Fin 4) (r : ChainRun) (q : RunRec), argN s 1 = k.val → nearRecord s k r q → q.moved = q.lines.length →
    q.fault = none → q.readDone = false →
    let c := r.chain.ctx
    ∃ t, exec .recordFinishedReading s = .next t ∧
      (∀ n : TokId, (getCtx t c).tok[n].sfree = (getCtx s c).tok[n].sfree - tokenDrops r q n ∧
        (getCtx t c).tok[n].vis = (getCtx s c).tok[n].vis) ∧ t.mem = s.mem ∧
      (getCtx t c).g = (getCtx s c).g ∧ (getCtx t c).pc = (getCtx s c).pc) ∧
  (∀ (s : State) (k : Fin 4) (r : ChainRun) (q : RunRec), argN s 1 = k.val → nearRecord s k r q → allDone q = true → q.fault = none →
    rEnd q.words = true → q.hostOut = [] → idleBehind s (argN s 0) →
    let c := r.chain.ctx
    ownBytes s c q.addr 64 →
    ∃ t, exec .transferRecordComplete s = .next t ∧ (getCore t (argN s 0)).chans[k] = none ∧
      memRead t.mem (phys c q.addr) 8 = leBytes 8 (putBits (q.words.getD 0 0) 63 1 0) ∧
      memRead t.mem (phys c (q.addr + 0x3E)) 2 = [0, 0] ∧
      (∀ n : TokId, (getCtx t c).tok[n].vis = (getCtx s c).tok[n].vis - tokenDrops r q n ∧
        (getCtx t c).tok[n].sfree = (getCtx s c).tok[n].sfree - if q.readDone then 0 else tokenDrops r q n) ∧ (∀ m ∈ t.marks, m.op ≠ q.id) ∧
      (getCtx t c).ecnt = energyPlus (getCtx s c).ecnt (120 * ceilDiv (recBytes q.words) 256) ∧
      (getCtx t c).g = (getCtx s c).g ∧ (getCtx t c).pc = (getCtx s c).pc)) ∧
  (∀ (s : State) (k : Fin 4) (r : ChainRun) (q : RunRec) (f : HeldFault), argN s 1 = k.val → nearRecord s k r q →
    q.fault = some f → outstanding q = 0 → q.data = [] → q.tail = [] → q.hostOut = [] → q.words ≠ [] → f.cause ≠ cBUDGET →
    rTv q.words = true ∨ r.chain.tok.isSome = true → idleBehind s (argN s 0) →
    let c := r.chain.ctx
    let n : TokId := if rTv q.words then rTok q.words else tokIx (r.chain.tok.getD 0)
    isMem c = false → (getCtx s c).tok[n].fault = none →
    ∃ t, exec .recordFault s = .next t ∧ (getCore t (argN s 0)).chans[k] = none ∧ (getCtx t c).chcause[k] = f.cause ∧
      memRead t.mem (phys c (q.addr + 0x3E)) 2 = leBytes 2 f.cause ∧
      (getCtx t c).tok[n].fault = some { f with opc := r.chain.opc, recAddr := q.addr, chan := k.val } ∧
      (∀ m : TokId, (getCtx t c).tok[m].vis = (getCtx s c).tok[m].vis - ((if rTv q.words ∧ rTok q.words = m then 1 else 0) +
        if r.chain.tok.map tokIx = some m then 1 else 0)) ∧ (∀ m ∈ t.marks, m.op ≠ q.id) ∧
      (getCtx t c).g = (getCtx s c).g ∧ (getCtx t c).pc = (getCtx s c).pc) ∧
  ((∀ (s s1 : State) (k : Fin 4) (r : ChainRun) (q : RunRec) (l : FarLine) (pa : Nat) (host : Bool), argN s 1 = k.val → argN s 2 = 1 →
    runOf s (argN s 0) k = some (r, q) → recKind q = 3 → q.suspended = false → q.fault = none → q.poisoned = false → outstanding q < 64 →
    q.lines[q.fwd]? = some l → 0 < l.len → s.choices = [] →
    let c := r.chain.ctx
    let die := dieOfCore (argN s 0)
    translate s die ((partOf s c).getD 0) (pidOf s c) (l.va + l.off) .atomic = .ok (s1, pa, host) → poisonTrap s1 c l.near 16 = none →
    (∀ e, entOfCtx s1 c = some e → e.telig = false) → (getCtx s1 c).run = 0 →
    ∃ t o, exec .lineForward s = .next t ∧
      (getChan t (lineChan die (pa / 64 * 64) host)).orders = (getChan s (lineChan die (pa / 64 * 64) host)).orders ++ [o] ∧
      o.kind = .atomic ∧ o.party = .copy (argN s 0) k.val ∧ o.pa = pa / 64 * 64 ∧ o.off = l.off ∧ o.len = l.len ∧ o.host = host ∧
      o.data = memRead s1.mem (phys c l.near) 16 ∧ t.mem = s1.mem) ∧
  (∀ (s : State) (o : FarOrder) (r : ChainRun) (q : RunRec) (w : Nat) (op : AmoOp), let ch := argN s 0
    let a := o.pa + o.off
    let old : BitVec w := BitVec.ofNat w (memNat s.mem a o.len)
    let new := amoValue op old (BitVec.ofNat w (leNat (o.data.take 8))) (BitVec.ofNat w (leNat (o.data.drop 8)))
    findOrder s ch (argN s 1) = some o → plainOrder s ch o 1 → o.kind = .atomic → resending s ch o = false → poisonedIn s a o.len = none →
    runOf s o.core (chanIx o.k) = some (r, q) → w = 32 ∨ w = 64 → w = 8 * o.len → amoNumber op = bitsAt (q.words.getD 6 0) 0 3 →
    ∃ t, exec .lineCommit s = .next t ∧ memNat t.mem a o.len = new.toNat ∧
      (∀ b, b < a ∨ a + o.len ≤ b → memGet t.mem b = memGet s.mem b) ∧
      findOrder t ch o.id = some { o with stage := 2, data := leBytes 8 (old.signExtend 64).toNat } ∧
      (.farLineArrival, EvArg.of [ch, o.id]) ∈ t.agenda) ∧
  (∀ (s : State) (k : Fin 4) (r : ChainRun) (q : RunRec) (l : FarLine) (n : Nat) (bs : List Byte), argN s 1 = k.val →
    runOf s (argN s 0) k = some (r, q) → q.poisoned = false → recKind q = 3 → recDfar q = true → q.lines = [l] → q.moved = 0 → q.tail = [] →
    q.data.find? (fun d => d.1 == 0) = some (n, bs) → bs.length = 8 → l.near + 8 < 2 ^ 32 →
    sliceByte r.chain.ctx l.near = false → sliceByte r.chain.ctx (l.near + 7) = false →
    let p := phys r.chain.ctx l.near
    ∃ t, exec .writePointerAdvance s = .next t ∧ memRead t.mem p 8 = bs ∧
      (∀ a, a < p ∨ p + 8 ≤ a → memGet t.mem a = memGet s.mem a) ∧ wBits (getCtx t r.chain.ctx).wp[k] 0 32 = l.near + 8 ∧
      (.transferRecordComplete, EvArg.of [argN s 0, k.val]) ∈ t.agenda ∧ (getCtx t r.chain.ctx).g = (getCtx s r.chain.ctx).g))

/-- R311, R313, R314: the next line of a record: a missing translation is walked for and put into the die's cache; a line that
translates goes to its channel as an order with the bytes it writes; one that does not becomes the record's fault.
The model's readings and choices it rests on: log 11, 34, 35, 45. -/
def Obligations.FarLines : Prop :=
  (∀ (s : State) (k : Fin 4) (r : ChainRun) (q : RunRec) (l : FarLine), farRecord s k r q l → argN s 1 = k.val → argN s 2 ≠ 1 →
    let c := r.chain.ctx
    let die := dieOfCore (argN s 0)
    tlbHit s die ((partOf s c).getD 0) (pidOf s c) (l.va + l.off) = none →
    ∃ t, exec .lineForward s = .next t ∧ t.agenda = s.agenda ++ [(.translationWalk, EvArg.of [die, (partOf s c).getD 0, pidOf s c,
      l.va + l.off, if recDfar q then 1 else 0]), (.lineForward, EvArg.of [argN s 0, k.val, 1])] ∧ t.mem = s.mem ∧ t.ctxs = s.ctxs) ∧
  (∀ (s s1 : State) (k : Fin 4) (r : ChainRun) (q : RunRec) (l : FarLine) (pa : Nat) (host : Bool), farRecord s k r q l →
    argN s 1 = k.val → argN s 2 = 1 →
    let core := argN s 0
    let c := r.chain.ctx
    let die := dieOfCore core
    translate s die ((partOf s c).getD 0) (pidOf s c) (l.va + l.off) (if recDfar q then .write else .read) = .ok (s1, pa, host) →
    (∀ e, entOfCtx s1 c = some e → e.telig = false) → (getCtx s1 c).run = 0 →
    (recDfar q = true → cleanBytes s1 (phys c l.near) l.len = l.len ∧ s.choices = []) →
    ∃ t o, exec .lineForward s = .next t ∧
      (getChan t (lineChan die (pa / 64 * 64) host)).orders = (getChan s (lineChan die (pa / 64 * 64) host)).orders ++ [o] ∧
      o.kind = (if recDfar q then .write else .read) ∧ o.party = .copy core k.val ∧ o.rid = q.id ∧ o.line = q.fwd ∧ o.va = l.va ∧
      o.pa = pa / 64 * 64 ∧ o.host = host ∧ o.off = l.off ∧ o.len = l.len ∧ o.near = l.near ∧ o.stage = 0 ∧
      o.data = (if recDfar q then memRead s1.mem (phys c l.near) l.len else []) ∧
      (.orderAtHead, EvArg.of [lineChan die (pa / 64 * 64) host, o.id]) ∈ t.agenda ∧
      (getCtx t c).ecnt = (getCtx s c).ecnt ∧ (∃ r2 q2, runOf t core k = some (r2, q2) ∧ q2.fwd = q.fwd + 1) ∧
      t.mem = s1.mem ∧ (getCtx t c).g = (getCtx s c).g) ∧
  (∀ (s : State) (k : Fin 4) (r : ChainRun) (q : RunRec) (l : FarLine) (e : Nat), farRecord s k r q l → argN s 1 = k.val →
    argN s 2 = 1 →
    translate s (dieOfCore (argN s 0)) ((partOf s r.chain.ctx).getD 0) (pidOf s r.chain.ctx) (l.va + l.off)
      (if recDfar q then .write else .read) = .error e → e ≠ cUNCORRECTABLE →
    ∃ t r2 q2, exec .lineForward s = .next t ∧ runOf t (argN s 0) k = some (r2, q2) ∧
      q2.fault = some ⟨e, 0, l.va + l.off, true, 0, 0, 0, q.fwd⟩ ∧ (.recordFault, EvArg.of [argN s 0, k.val]) ∈ t.agenda ∧
      t.mem = s.mem ∧ t.ctxs = s.ctxs) ∧
  (∀ (s : State) (k : Fin 4) (r : ChainRun) (q : RunRec) (l : FarLine) (e : TlbEnt), farRecord s k r q l → argN s 1 = k.val →
    let core := argN s 0
    let c := r.chain.ctx
    let die := dieOfCore core
    let pa := e.pa + (l.va + l.off) % e.size
    l.va + l.off < 2 ^ 48 → tlbHit s die ((partOf s c).getD 0) (pidOf s c) (l.va + l.off) = some e →
    (if recDfar q then e.w && e.dirty else e.r) = true →
    (∀ e, entOfCtx s c = some e → e.telig = false) → (getCtx s c).run = 0 →
    (recDfar q = true → cleanBytes s (phys c l.near) l.len = l.len ∧ s.choices = []) →
    ∃ t o, exec .lineForward s = .next t ∧
      (getChan t (lineChan die (pa / 64 * 64) e.host)).orders = (getChan s (lineChan die (pa / 64 * 64) e.host)).orders ++ [o] ∧
      o.kind = (if recDfar q then .write else .read) ∧ o.party = .copy core k.val ∧ o.rid = q.id ∧ o.line = q.fwd ∧ o.va = l.va ∧
      o.pa = pa / 64 * 64 ∧ o.host = e.host ∧ o.off = l.off ∧ o.len = l.len ∧ o.near = l.near ∧ o.stage = 0 ∧
      o.data = (if recDfar q then memRead s.mem (phys c l.near) l.len else []) ∧
      (.orderAtHead, EvArg.of [lineChan die (pa / 64 * 64) e.host, o.id]) ∈ t.agenda ∧
      (getCtx t c).ecnt = (getCtx s c).ecnt ∧ (∃ r2 q2, runOf t core k = some (r2, q2) ∧ q2.fwd = q.fwd + 1) ∧
      t.mem = s.mem ∧ (getCtx t c).g = (getCtx s c).g)

/-- R313, R314, R426: a walk for an address that no cached translation covers and that the tables map puts the page into the die's
translation cache and sets A, and for an access that writes D, in its entry; nothing of a context changes.
R312 to R314: the walk of the tables, for every size of page: a page's entry gives the address with the permissions that allow the
access; without a table, where an entry may not stand at its level, at any of the four, or where a page's base is not aligned to its size, it
fails with FAR_TRANSLATE; a poisoned entry is an uncorrectable error; a page in the translation cache needs no walk; where the permissions do not allow the access, with
FAR_PERMISSION; an address of more than 48 bits with ADDRESS.
The model's readings and choices it rests on: log 33, 34, 35, 52. -/
def Obligations.TranslationWalks : Prop :=
  (∀ (s : State) (root a e size : Nat),
    let die := argN s 0
    let part := argN s 1
    let pid := argN s 2
    let va := argN s 3
    let k := kindOf (argN s 4)
    va < 2 ^ 48 → tlbHit s die part pid va = none → rootTable s part pid = some root → walkPoison s va root = none →
    leafAt s.mem va root a e size → pteAddr e % size = 0 → kindOk (pteR e) (pteW e) (pteX e) k = true →
    ∃ t f, exec .translationWalk s = .next t ∧ tlbHit t die part pid va = some f ∧ f.pa = pteAddr e ∧ f.size = size ∧
      f.host = pteHost e ∧ f.r = pteR e ∧ f.w = pteW e ∧ f.x = pteX e ∧ f.dirty = (bitAt e 7 || kindWrites k) ∧ t.ctxs = s.ctxs ∧
      bitAt (memNat t.mem a 8) 8 = true ∧ (kindWrites k = true → bitAt (memNat t.mem a 8) 7 = true) ∧
      (∀ b, b < a ∨ a + 8 ≤ b → memGet t.mem b = memGet s.mem b)) ∧
  ((∀ (s : State) (die part pid va : Nat) (k : Kind), 2 ^ 48 ≤ va → translate s die part pid va k = .error cADDRESS) ∧
  (∀ (s : State) (die part pid va : Nat) (k : Kind), va < 2 ^ 48 → tlbHit s die part pid va = none →
    (rootTable s part pid = none → translate s die part pid va k = .error cFAR_TRANSLATE) ∧
    (∀ root w, rootTable s part pid = some root → walkPoison s va root = some w →
      translate s die part pid va k = .error cUNCORRECTABLE) ∧
    (∀ root, rootTable s part pid = some root → walkPoison s va root = none →
      (brokenAt s.mem va root → translate s die part pid va k = .error cFAR_TRANSLATE) ∧
      (∀ a e size, leafAt s.mem va root a e size →
        (pteAddr e % size ≠ 0 → translate s die part pid va k = .error cFAR_TRANSLATE) ∧
        (pteAddr e % size = 0 → kindOk (pteR e) (pteW e) (pteX e) k = false →
          translate s die part pid va k = .error cFAR_PERMISSION) ∧
        (pteAddr e % size = 0 → kindOk (pteR e) (pteW e) (pteX e) k = true →
          ∃ s1, translate s die part pid va k = .ok (s1, pteAddr e + va % size, pteHost e) ∧
            bitAt (memNat s1.mem a 8) 8 = true ∧ (kindWrites k = true → bitAt (memNat s1.mem a 8) 7 = true))) ∧
      (brokenAt s.mem va root ∨ ∃ a e size, leafAt s.mem va root a e size))) ∧
  (∀ (s : State) (die part pid va : Nat) (k : Kind) (e : TlbEnt), va < 2 ^ 48 → tlbHit s die part pid va = some e →
    (kindOk e.r e.w e.x k = false → translate s die part pid va k = .error cFAR_PERMISSION) ∧
    (kindOk e.r e.w e.x k = true → (kindWrites k = true → e.dirty = true) →
      translate s die part pid va k = .ok (s, e.pa + va % e.size, e.host))))

/-- R318 to R320, R334: at the head of its channel a line of another party's window entry becomes CONFLICT and the later lines of
its record never commit; a write joins the window with every line its record has left in the channel; an admitted write commits its bytes, and a read takes them and reaches its record,
whose write pointer passes them as they perform, in the slice whole units (R305).
The model's readings and choices it rests on: log 11, 24, 25, 26, 63, 82. -/
def Obligations.FarOrders : Prop :=
  (∀ (s : State) (o : FarOrder), let ch := argN s 0
    findOrder s ch (argN s 1) = some o → plainOrder s ch o 0 → windowHit s ch o = false →
    (o.kind = .read → ∃ t, exec .orderAtHead s = .next t ∧ findOrder t ch o.id = some { o with stage := 1 } ∧
      (.lineCommit, EvArg.of [ch, o.id]) ∈ t.agenda ∧ t.mem = s.mem ∧ t.ctxs = s.ctxs) ∧
    (∀ w, o.kind = .write → lockedLine s o.pa o.part o.tag = false →
      enterWindow (getChan s ch).win o (recLines s ch o) = some w →
      ∃ t, exec .orderAtHead s = .next t ∧ findOrder t ch o.id = some { o with stage := 1 } ∧ (getChan t ch).win = w ∧
        (.lineCommit, EvArg.of [ch, o.id]) ∈ t.agenda ∧ t.mem = s.mem ∧ t.ctxs = s.ctxs)) ∧
  (∀ (s : State) (o : FarOrder) (core k : Nat) (r : ChainRun) (q : RunRec), let ch := argN s 0
    findOrder s ch (argN s 1) = some o → plainOrder s ch o 0 → windowHit s ch o = true → o.kind = .read →
    o.party = .copy core k → runOf s core (chanIx k) = some (r, q) → q.fault = none → recKind q ≠ 2 →
    ∃ t r2 q2, exec .orderAtHead s = .next t ∧ runOf t core (chanIx k) = some (r2, q2) ∧
      q2.fault = some ⟨cCONFLICT, 0, o.va + o.off, true, 0, 0, 0, o.line⟩ ∧
      (∀ ch2, ∀ e ∈ (getChan t ch2).orders, ¬(e.rid = o.rid ∧ e.stage < 2 ∧ o.line ≤ e.line)) ∧ t.mem = s.mem) ∧
  (∀ (s : State) (o : FarOrder), let ch := argN s 0
    findOrder s ch (argN s 1) = some o → plainOrder s ch o 1 →
    (o.kind = .write → resending s ch o = false → (∀ p k, o.party ≠ .host p k) → ∃ t, exec .lineCommit s = .next t ∧ memRead t.mem (o.pa + o.off) o.data.length = o.data ∧
      (∀ a, a < o.pa + o.off ∨ o.pa + o.off + o.data.length ≤ a → memGet t.mem a = memGet s.mem a) ∧
      (∀ e ∈ (getChan t ch).orders, e.id ≠ o.id) ∧ (o.part, o.pa / 4096) ∈ (getChan t (chanOf o.pa)).dirty) ∧
    (o.kind = .read → ∃ t, exec .lineCommit s = .next t ∧
      findOrder t ch o.id = some { o with stage := 2, data := memRead s.mem (o.pa + o.off) (cleanBytes s (o.pa + o.off) o.len) } ∧
      (.farLineArrival, EvArg.of [ch, o.id]) ∈ t.agenda ∧ t.mem = s.mem)) ∧
  (∀ (s : State) (o : FarOrder) (r : ChainRun) (q : RunRec), findOrder s (argN s 0) (argN s 1) = some o → o.stage = 2 →
    resending s (argN s 0) o = false →
    runOf s o.core (chanIx o.k) = some (r, q) → q.id = o.rid → q.poisoned = false → recKind q ≠ 2 →
    ∃ t r2 q2, exec .farLineArrival s = .next t ∧ (∀ e ∈ (getChan t (argN s 0)).orders, e.id ≠ o.id) ∧
      runOf t o.core (chanIx o.k) = some (r2, q2) ∧ q2.data = q.data ++ [(o.line, o.data)] ∧ q2.done = o.line :: q.done ∧
      (.writePointerAdvance, EvArg.of [o.core, (chanIx o.k).val]) ∈ t.agenda ∧ t.mem = s.mem ∧
      (getCtx t r.chain.ctx).ecnt = energyPlus (getCtx s r.chain.ctx).ecnt 640 ∧ (getCtx t r.chain.ctx).g = (getCtx s r.chain.ctx).g ∧
      (getCtx t r.chain.ctx).pc = (getCtx s r.chain.ctx).pc) ∧
  (∀ (s : State) (k : Fin 4) (r : ChainRun) (q : RunRec) (l : FarLine) (n : Nat) (bs : List Byte), argN s 1 = k.val →
    runOf s (argN s 0) k = some (r, q) → q.poisoned = false → recKind q ≤ 1 → recDfar q = false → recSfar q = true →
    q.lines[q.moved]? = some l → q.data.find? (fun d => d.1 == q.moved) = some (n, bs) → bs.length = l.len → 0 < l.len →
    onePiece r.chain.ctx l → q.tail = [] →
    ∃ t, exec .writePointerAdvance s = .next t ∧ staged s t (argN s 0) k r.chain.ctx q l bs)

/-- R137 to R139, R306 to R309: fld gives the far bytes once they have been read and waits until then; fst sends its bytes as an
order, to host memory at once (R335); push stages bytes that PUSH_DELIVERY brings to the order's near destination; pull takes bytes of its near source; a program
starts with its order in g4 to g7 and its record copied; at its instruction limit it ends with ENGINE and its context is free.
The model's readings and choices it rests on: log 1, 34, 52, 56, 64, 82, 104, 139. -/
def Obligations.MemoryPrograms : Prop :=
  (∀ (s : State) (d b : Reg) (z : LdSize) (o : Fin 4096) (v : Serving) (p : Nat × List Byte), notPort d → notPort b → Ready s 1 →
    isMem s.cur = true → (me s).serving = some v →
    let ea := (val s b + farOff o z.width.bytes).toNat
    ea < 2 ^ 48 → ea % z.width.bytes = 0 → v.pending.find? (fun p => p.1 == ea) = some p → p.2.length = z.width.bytes →
    exec (.fld d b z o) s = .next (wrote (modCtx s s.cur (fun x => { x with serving := some { v with pending := [] } })) s.cur 1 4 d
      (loaded z p.2))) ∧
  (∀ (s s1 : State) (d b : Reg) (z : LdSize) (o : Fin 4096) (v : Serving) (pa : Nat) (host : Bool), notPort d → notPort b →
    Ready s 1 → isMem s.cur = true → (me s).serving = some v →
    let ea := (val s b + farOff o z.width.bytes).toNat
    (me s).mode = .running → ea < 2 ^ 48 → ea % z.width.bytes = 0 → v.pending.find? (fun p => p.1 == ea) = none →
    translate s (dieOf s.cur) v.part (pidOf s s.cur) ea .read = .ok (s1, pa, host) → plainOwner s1 s.cur →
    ∃ t r, exec (.fld d b z o) s = .next t ∧ (me t).waiting = true ∧ (me t).pc = (me s).pc ∧ (me t).g = (me s).g ∧
      (getChan t (lineChan (dieOf s.cur) pa host)).orders = (getChan s (lineChan (dieOf s.cur) pa host)).orders ++ [r] ∧
      r.kind = .load ∧ r.va + r.off = ea ∧ r.pa = pa / 64 * 64 ∧ r.len = z.width.bytes) ∧
  (∀ (s s1 : State) (d b : Reg) (z : Width) (o : Fin 4096) (v : Serving) (pa : Nat) (host : Bool), notPort d → notPort b →
    Ready s 1 → isMem s.cur = true → (me s).serving = some v →
    let ea := (val s b + farOff o z.bytes).toNat
    ea < 2 ^ 48 → ea % z.bytes = 0 →
    translate s (dieOf s.cur) v.part (pidOf s s.cur) ea .write = .ok (s1, pa, host) → plainOwner s1 s.cur →
    shadowLine s1 ((ownerOf s1 s.cur).getD s.cur) (ea / 64 * 64) = false →
    (host = false →
      ∃ t r, exec (.fst d b z o) s = .next t ∧ (me t).g = (me s).g ∧ (me t).serving = some { v with retired := v.retired + 1 } ∧
        (getChan t (lineChan (dieOf s.cur) pa host)).orders = (getChan s (lineChan (dieOf s.cur) pa host)).orders ++ [r] ∧
        r.kind = .write ∧ r.va + r.off = ea ∧ r.pa = pa / 64 * 64 ∧ r.data = storedBytes z (val s d) ∧ t.mem = s1.mem) ∧
    (host = true → (∀ r q, runOf s1 v.core (chanIx v.k) = some (r, q) → recKind q = 2) →
      let a := hostBase + pa / 64 * 64 + ea % 64
      ∃ t, exec (.fst d b z o) s = .next t ∧ (me t).g = (me s).g ∧ memRead t.mem a z.bytes = storedBytes z (val s d) ∧
        (∀ p, p < a ∨ a + z.bytes ≤ p → memGet t.mem p = memGet s1.mem p))) ∧
  (∀ (s : State) (n a b : Reg) (v : Serving), notPort n → notPort a → notPort b → Ready s 1 → isMem s.cur = true →
    (me s).serving = some v → orderFits v (val s a).toNat (val s b).toNat (val s n).toNat →
    (v.store = false → poisonedIn s (stagingBase s.cur + (val s b).toNat) (val s n).toNat = none → exec (.push n a b) s = .next (did (postOnce (modCtx s s.cur (fun x => { x with serving := some { v with
      pushed := v.pushed ++ [((val s a).toNat, memRead s.mem (stagingBase s.cur + (val s b).toNat) (val s n).toNat)] } }))
      .pushDelivery [s.cur]) s.cur 1 4)) ∧
    (∀ r q, v.store = true → runOf s v.core (chanIx v.k) = some (r, q) →
      poisonTrap s r.chain.ctx (v.near + (val s a).toNat) (val s n).toNat = none →
      exec (.pull n a b) s = .next (did (clearWords (rawWrite s (stagingBase s.cur + (val s b).toNat)
        (engRead s r.chain.view (phys r.chain.ctx (v.near + (val s a).toNat)) (val s n).toNat))
        (stagingBase s.cur + (val s b).toNat) (val s n).toNat) s.cur 1 4))) ∧
  (∀ (s : State) (v : Serving) (off : Nat) (bs : List Byte) (rest : List (Nat × List Byte)) (r : ChainRun) (q : RunRec),
    (getCtx s (argN s 0)).serving = some v → v.pushed = (off, bs) :: rest → runOf s v.core (chanIx v.k) = some (r, q) →
    let c := r.chain.ctx
    let a := firstNear q.words + off
    let p := phys c a
    let covered (b : Nat) : Prop := b < firstNear q.words ∨ firstNear q.words + rLen q.words ≤ b ∨ (a ≤ b ∧ b < a + bs.length) ∨
      ∃ e ∈ q.pushes, firstNear q.words + e.1 ≤ b ∧ b < firstNear q.words + e.1 + e.2
    let whole (i : Nat) : Prop := sliceByte c (a + i) = true → ∀ b, b < 16 → covered ((a + i) / 16 * 16 + b)
    q.tail = [] → 0 < bs.length → bs.length ≤ 4096 → (∀ i, i ≤ bs.length → phys c (a + i) = p + i) →
    ∃ t r2 q2, exec .pushDelivery s = .next t ∧
      (∀ i, i < bs.length → (whole i → memGet t.mem (p + i) = bs.getD i 0) ∧ (¬whole i → memGet t.mem (p + i) = memGet s.mem (p + i))) ∧
      (∀ b, b < p ∨ p + bs.length ≤ b → memGet t.mem b = memGet s.mem b) ∧
      runOf t v.core (chanIx v.k) = some (r2, q2) ∧ q2.pushes = q.pushes ++ [(off, bs.length)] ∧
      (getCtx t (argN s 0)).serving = some { v with pushed := rest } ∧
      (.writePointerAdvance, EvArg.of [v.core, (chanIx v.k).val]) ∈ t.agenda) ∧
  (∀ (s : State) (o : FarOrder) (r : ChainRun) (q : RunRec) (m : Nat), findOrder s (argN s 0) (argN s 1) = some o →
    o.kind = .program → runOf s o.core (chanIx o.k) = some (r, q) → q.id = o.rid → freeMemCtx s (argN s 0) o.part = some m →
    ∃ t, exec .programOrderStart s = .next t ∧ (getCtx t m).mode = .running ∧
      (getCtx t m).pc = pc48 (loaderOf s o.part q.words) ∧ getReg (getCtx t m) 4 = w64 (q.words.getD 6 0 / 2 ^ 16) ∧
      getReg (getCtx t m) 5 = w64 o.len ∧ getReg (getCtx t m) 6 = w64 o.va ∧ getReg (getCtx t m) 7 = (if recDfar q then 1 else 0) ∧
      (∃ v, (getCtx t m).serving = some v ∧ v.core = o.core ∧ v.retired = 0 ∧ v.near = o.near) ∧
      (∀ e ∈ (getChan t (argN s 0)).orders, e.id ≠ o.id)) ∧
  (∀ (s : State) (v : Serving) (r : ChainRun) (q : RunRec), (getCtx s (argN s 0)).serving = some v → v.halted = false →
    programLimit v ≤ v.retired → runOf s v.core (chanIx v.k) = some (r, q) → q.fault = none →
    ∃ t r2 q2, exec .programInstructionLimit s = .next t ∧ getCtx t (argN s 0) = Ctx.reset ∧
      runOf t v.core (chanIx v.k) = some (r2, q2) ∧ q2.fault = some ⟨cENGINE, 0, 0, false, 0, 0, 2, 0⟩ ∧ t.mem = s.mem)

/-- R233, R284, R285, R289, R389: task.spawn reads its record, and a declaration where the record is eligible, and task.card names a
far card; both wait while the Drover's queue is full and else leave a request.
R244, R350: budx asks the Drover and waits; once it has decided, budx gives the code and BUDGET has risen by the amount for ADM_OK; a
refusal in the handler of a BUDGET trap is kept until the next such trap or grant. It is not tested against BUDGET.
The model's readings and choices it rests on: log 20, 52, 54, 55, 57, 61, 107, 117, 133, 139. -/
def Obligations.TaskCommands : Prop :=
  ((∀ (s : State) (a b : Reg) (t : TokId), notPort a → notPort b → ReadyCompute s 4 → droverFull s (dieOf s.cur) = false → val s b = 0 →
    let lo := (val s a).toNat
    let w := nearWords (drain s s.cur) s.cur (lo % 2 ^ 32) 4
    let dw := nearWords (drain s s.cur) s.cur (lo % 2 ^ 32 + 32) 8
    droverRanges s s.cur lo 0 [(⟨lo % 2 ^ 32, 32, false, .any, lo % 2 ^ 32⟩, 32), (⟨lo / 2 ^ 32, 8, true, .any, lo / 2 ^ 32⟩, 8)] = none →
    poisonTrap (drain s s.cur) s.cur (lo % 2 ^ 32) 32 = none → recordOk w = true →
    (pTelig (w.getD 3 0) = true → droverRanges s s.cur lo 0 [(⟨lo % 2 ^ 32 + 32, 64, false, .any, lo % 2 ^ 32 + 32⟩, 1)] = none ∧
      poisonTrap (drain s s.cur) s.cur (lo % 2 ^ 32 + 32) 64 = none ∧ declOk dw = true) →
    (me s).tok[t].vis + 1 < 2 ^ 20 →
    exec (.taskSpawn a b t) s = .next (requested s t 4 { bareReq 0 with
      words := w, decl := if pTelig (w.getD 3 0) then declOf dw else [], res := lo / 2 ^ 32 })) ∧
  (∀ (s : State) (a b : Reg) (t : TokId), notPort a → notPort b → ReadyCompute s 8 → droverFull s (dieOf s.cur) = false →
    (val s a).toNat < 2 ^ 48 → (val s a).toNat % 64 = 0 → (val s b).toNat < 2 ^ 32 →
    droverRanges s s.cur (val s a).toNat (val s b).toNat [(⟨(val s b).toNat, 8, true, .any, (val s b).toNat⟩, 8)] = none →
    (me s).tok[t].vis + 1 < 2 ^ 20 →
    exec (.taskCard a b t) s = .next (requested s t 8 { bareReq 1 with far := (val s a).toNat, res := (val s b).toNat })) ∧
  (∀ (s : State) (a b : Reg) (t : TokId), notPort a → notPort b → ReadyCompute s 8 → droverFull s (dieOf s.cur) = true →
    exec (.taskSpawn a b t) s = .next (markWait (noStall s s.cur) s.cur) ∧
    exec (.taskCard a b t) s = .next (markWait (noStall s s.cur) s.cur))) ∧
  ((∀ (s : State) (a d : Reg), notPort a → notPort d → Exempt s → leaderOf s s.cur = s.cur → 0 < (val s a).toNat →
    (val s a).toNat < 2 ^ 32 → (me s).budx = none →
    exec (.budx a d) s = .next (markWait (noStall (askBudx s s.cur (val s a).toNat) s.cur) s.cur)) ∧
  (∀ (s : State) (a d : Reg) (code : Nat), notPort a → notPort d → Exempt s → leaderOf s s.cur = s.cur → 0 < (val s a).toNat →
    (val s a).toNat < 2 ^ 32 → (me s).budx = some ((val s a).toNat, some code) →
    exec (.budx a d) s = .next (markUnv (wrote (endBudx s s.cur s.cur (val s a).toNat code) s.cur 4 4 d (w64 code)) s.cur)) ∧
  (∀ (s : State) (c n code : Nat), membersOf s c = [c] →
    endBudx s c c n code = modCtx s c (fun x => { x with
      budget := if code = 0 then x.budget + w64 n else x.budget
      refused := if code = 0 then false else x.refused || (wBits x.st 23 1 == 1 && x.latch.cause == cBUDGET)
      budx := none })) ∧
  (∀ (s : State) (r : DReq), oldest s 2 r → ∃ t code, exec .budgetExtensionDecision s = .next t ∧
    (getCtx t r.ctx).budx = some (r.n, some code) ∧ (getDie t (argN s 0)).reqs = (getDie s (argN s 0)).reqs.tail ∧
    (∀ e, entOfCtx s r.ctx = some e → code = admitTest (demands s (argN s 0) r.part e.order)
      ⟨entDeadline s e, e.order, remaining s e + r.n⟩ (capacity s r.part (argN s 0) (entCores s (argN s 0) e)) (getDie s (argN s 0)).counter)))

/-- R285, R286, R292, R343: the oldest request of a die is decided: an admitted task or card gets its entry, the code and the tag are
written at RES and VIS drops, and a launch command that is refused completes with its code. An admitted task without a counter to wait
for is ready, with a tag no live task has, and its deadline is SLACK after the die counter.
R291 to R293: the next chunk of a card is dealt: the card counts it out and the chunk task has its place, first record and number of
records in g2, g4 and g5; its records are pushed to its frame before it runs.
The model's readings and choices it rests on: log 29, 55, 57, 75, 104, 134. -/
def Obligations.DroverDecisions : Prop :=
  ((∀ (s : State) (r : DReq), oldest s 0 r →
    let die := argN s 0
    let e := { recordEntry r.part r.pid r.graph r.words with decl := r.decl, startView := r.view }
    let code := decideTask s die e (wCount (r.words.getD 2 0)) false
    exec .spawnDecision s = .next (if code = 0
      then dropReq (writeRes (admitTask s die e (wCount (r.words.getD 2 0))).1 r 0 (admitTask s die e (wCount (r.words.getD 2 0))).2) die
      else dropReq (writeRes s r code 0) die)) ∧
  (∀ (s s1 : State) (r : DReq) (w : List Nat) (k : CardSt), oldest s 1 r → readCard s (argN s 0) r.part r.pid (getCtx s r.ctx).tag.toNat r.far 1 = .words s1 w →
    let die := argN s 0
    let s2 := { s1 with nextId := s1.nextId + 1 }
    let e := { cardEntry r.part r.pid r.graph r.win r.place s1.nextId w with startView := r.view }
    e.telig = false → e.card = some k →
    let code := decideCard s2 die e k (!cardOk w e)
    exec .cardDecision s = .next (dropReq (writeRes (if code = 0 then admitCard s2 die e k else s2) r code 0) die)) ∧
  (∀ (s : State) (r : DReq), oldest s 3 r → r.n = 1 →
    let die := argN s 0
    let e := { recordEntry r.part r.pid r.graph r.words with decl := r.decl, launch := r.launch }
    let code := decideTask s die e (wCount (r.words.getD 2 0)) (!recordOk r.words || (e.telig && !r.declOk))
    exec .launchDecision s = .next (dropReq (if code = 0 then (admitTask s die e (wCount (r.words.getD 2 0))).1
      else completeLaunch s r.launch 0 code 0) die)) ∧
  (∀ (s : State) (r : DReq) (code tag : Nat), 0 < (getCtx s r.ctx).tok[tokIx r.tok].vis →
    memRead (writeRes s r code tag).mem (phys r.ctx r.res) 8 = leBytes 8 (code + tag * 2 ^ 32) ∧
    (getCtx (writeRes s r code tag) r.ctx).tok[tokIx r.tok].vis = (getCtx s r.ctx).tok[tokIx r.tok].vis - 1 ∧
    (∀ a, a < phys r.ctx r.res ∨ phys r.ctx r.res + 8 ≤ a → memGet (writeRes s r code tag).mem a = memGet s.mem a)) ∧
  (∀ (s : State) (die : Nat) (e : Entry) (n : Nat), (getDie s die).entries.length ≤ 8192 → e.wait = 0 → e.telig = false → e.card = none →
    let a := admitTask s die e n
    (∃ f, entByTag a.1 die a.2 = some f ∧ f.state = .ready ∧ f.deadline = (getDie s die).counter + e.slack ∧
      f.order = (getDie s die).nextOrder ∧ f.code = e.code ∧ f.budget = e.budget ∧ f.counter = e.counter) ∧
    entByTag s die a.2 = none ∧ a.2 / 2 ^ 29 = die ∧ a.2 % 2 ^ 29 ≠ 0 ∧ (.taskPlacement, EvArg.of [die, a.2]) ∈ a.1.agenda ∧
    a.1.mem = s.mem ∧ a.1.ctxs = s.ctxs)) ∧
  ((∀ (s : State) (e : Entry) (k : CardSt) (core : Nat), let die := argN s 0
    (getDie s die).entries.find? (fun e => match e.card with | some k => k.id == argN s 1 | none => false) = some e → e.card = some k →
    (getDie s die).entries.length ≤ 8192 → (∀ f ∈ (getDie s die).entries, f.order < (getDie s die).nextOrder) →
    (tableFull s die = true → chunkSize e k (entCores s die e).length = k.remaining) → placeable s die e → findGroup s die e = some core →
    gatedGroup s core = false → e.telig = false → e.rootReq = none → e.saved = [] → e.flw = 0 → 0 < k.remaining → 0 < k.rsize →
    0 < k.minChunk → 0 < capRec e k.rsize →
    let n := chunkSize e k (entCores s die e).length
    0 < n ∧ n ≤ k.remaining ∧ n ≤ capRec e k.rsize ∧
    ∃ t f, exec .chunkDeal s = .next t ∧ f ∈ (getDie t die).entries ∧ f.parent = some e.order ∧ f.state = .pushing ∧
      f.budget = k.budRec * n ∧ f.g2 = e.frame ∧ f.g4 = k.first ∧ f.g5 = n ∧ f.argSrc = k.args + k.first * k.rsize ∧
      f.argLen = n * k.rsize ∧ (.argumentPushComplete, EvArg.of [die, f.tag]) ∈ t.agenda ∧
      ∃ h ∈ (getDie t die).entries, h.order = e.order ∧
        h.card = some { k with first := k.first + n, remaining := k.remaining - n, live := k.live + 1 }) ∧
  (∀ (s s1 : State) (e : Entry) (c : Nat) (bs : List Byte), entByTag s (argN s 0) (argN s 1) = some e → e.transit.runCtx = none →
    e.members = [c] → (getCtx s c).mode = .loading → isWhistled s e.part = false → e.state = .pushing →
    giving s (coreOf c) = false → pushRead s (dieOf c) e.part e.pid e.tag (e.argLen / 64 + 2) e.argSrc e.argLen = .ok (s1, bs) →
    ∃ t f, exec .argumentPushComplete s = .next t ∧ memRead t.mem (localBase (coreOf c) + e.g2) bs.length = bs ∧
      (getCtx t c).mode = .running ∧ (getCtx t c).g = (getCtx s c).g ∧ entByTag t (argN s 0) (argN s 1) = some f ∧ f.state = .placed))

/-- R287, R288, R295, R13: a signal lowers its counter and, at 0, makes its parked tasks ready; a ready task is placed with the
registers of task start and a zeroed window; its end frees the context, zeroes the window and signals its counter.
The model's readings and choices it rests on: log 1, 44, 104, 134. -/
def Obligations.TasksRun : Prop :=
  (∀ (s : State) (g : Signal), (getDie s (argN s 0)).signals.find? (fun g => g.ctr == argN s 1) = some g →
    let die := argN s 0
    let k := counterStep (getCtr s die (argN s 1)) g
    ∃ t, exec .counterSignal s = .next t ∧ (getDie t die).signals = (getDie s die).signals.erase g ∧ t.mem = s.mem ∧ t.ctxs = s.ctxs ∧
      (k.value ≠ 0 → getCtr t die (argN s 1) = k ∧ t.agenda = s.agenda) ∧
      (k.value = 0 → getCtr t die (argN s 1) = { k with parked := [] } ∧
        ∀ tag ∈ k.parked, ∀ e, entByTag s die tag = some e →
          ∃ f, entByTag t die tag = some f ∧ f.state = .ready ∧ (.taskPlacement, EvArg.of [die, tag]) ∈ t.agenda)) ∧
  (∀ (s : State) (e : Entry) (core c : Nat), entByTag s (argN s 0) (argN s 1) = some e → e.state = .ready →
    placeable s (argN s 0) e → findGroup s (argN s 0) e = some core → plainTask s e core → (freeCtxs s e.order core).head? = some c →
    ∃ t, exec .taskPlacement s = .next t ∧ (let x := getCtx t c
      x.mode = .running ∧ x.pc = pc48 e.code ∧ getReg x 2 = w64 e.g2 ∧ getReg x 4 = w64 e.g4 ∧ getReg x 5 = w64 e.g5 ∧
      getReg x 6 = w64 e.tag ∧ x.tag = BitVec.ofNat 32 e.tag ∧ x.pid = BitVec.ofNat 16 e.pid ∧ x.budget = w64 e.budget ∧ x.charge = 0 ∧
      x.deadline = w64 e.deadline ∧ x.lwin = w64 (e.wbase + e.wlen * 2 ^ 32) ∧ x.st = 0 ∧ x.fmt = fmtReset ∧ x.hintgap = 16384) ∧
      (∀ i, i < e.wlen → memGet t.mem (localBase core + e.wbase + i) = 0)) ∧
  (∀ (s : State) (e : Entry), let c := argN s 0
    isMem c = false → engineWork s c = false → (getCtx s c).mode = .halted → soleEntry s c e → e.rootReq = none → e.transit.phase ≠ 1 →
    (getCtx s c).successor = 0 →
    ∃ t, exec .taskCompletion s = .next t ∧ (getCtx t c).mode = .free ∧ (getCtx t c).g = Ctx.reset.g ∧
      (∀ f ∈ (getDie t (dieOf c)).entries, f.order ≠ e.order) ∧
      (∀ i, i < winLen (getCtx s c) → memGet t.mem (localBase (coreOf c) + winBase (getCtx s c) + i) = 0) ∧
      (e.counter ≠ 0 → ∃ v, (⟨e.counter, false, false, v⟩ : Signal) ∈ (getDie t (dieOf c)).signals ∧
        (.counterSignal, EvArg.of [dieOf c, e.counter]) ∈ t.agenda))

/-- R341, R347, R353, R354: the die counter advances by one; a deadline that passes counts a miss once; the revocation test leaves a
partition alone that fits; of one that does not it revokes the entry with the latest deadline, the latest admitted among equals, and goes on
with what is left; and it revokes everything of one that has no core left (log 57, from R345).
The model's readings and choices it rests on: log 53, 55, 57, 61, 77. -/
def Obligations.DeadlinesAndRevocation : Prop :=
  (∀ (s : State), ∃ t, exec .dieCounterTick s = .next t ∧ (getDie t (argN s 0)).counter = (getDie s (argN s 0)).counter + 1 ∧
    (∀ d, d ≠ argN s 0 → getDie t d = getDie s d) ∧ t.mem = s.mem ∧ t.ctxs = s.ctxs ∧ t.cores = s.cores) ∧
  (∀ (s : State) (e : Entry), let die := argN s 0
    (getDie s die).entries.find? (fun e => e.order == argN s 1) = some e → e.transit.runCtx = none → e.state ≠ .waiting →
    holdsPlace e = true → entDeadline s e ≤ (getDie s die).counter →
    ∃ t, exec .deadlinePass s = .next t ∧ t.mem = s.mem ∧ t.ctxs = s.ctxs ∧ ((getDie t die).misses.get? e.part).getD 0 =
      (if e.missed = some (entDeadline s e) then ((getDie s die).misses.get? e.part).getD 0
        else min 65535 (((getDie s die).misses.get? e.part).getD 0 + 1)) ∧
      (∃ f, (getDie t die).entries.find? (fun e => e.order == argN s 1) = some f ∧ f.missed = some (entDeadline s e))) ∧
  (∀ (s : State) (p : PartSt), let die := argN s 0
    getPart? s (argN s 1) = some p →
    let k := min (minimumOf p die) (partCores s (argN s 1) die).length
    (k ≠ 0 → sumsFail (getDie s die).counter k 0 (demands s die (argN s 1) (2 ^ 64)) 0 = false → exec .revocationTest s = .next s) ∧
    (∀ e ∈ (getDie s die).entries, k ≠ 0 → sumsFail (getDie s die).counter k 0 (demands s die (argN s 1) (2 ^ 64)) 0 = true →
      e.part = argN s 1 → holdsPlace e = true →
      (∀ f ∈ (getDie s die).entries, f.part = argN s 1 → holdsPlace f = true → f ≠ e →
        entDeadline s f < entDeadline s e ∨ (entDeadline s f = entDeadline s e ∧ f.order < e.order)) →
      let t := revokeEnt s die e
      exec .revocationTest s = .next (revokeWhile t die (argN s 1) k ((getDie s die).entries.length - 1)) ∧
      (∀ f ∈ (getDie t die).entries, f.order ≠ e.order) ∧
      (sumsFail (getDie t die).counter k 0 (demands t die (argN s 1) (2 ^ 64)) 0 = false → exec .revocationTest s = .next t)) ∧
    (k = 0 → ∃ t, exec .revocationTest s = .next t ∧
      ∀ f ∈ (getDie t die).entries, f.part = argN s 1 → holdsPlace f = false))

/-- R245, R246, R369 to R375: a request opens the window of HINTGAP cycles; a phint in it, or its end, stops the task; a drained task is
saved and its context freed; its restore brings back registers and window.
R379 to R381: the Whistle stops every context of a partition that holds a task; once all have settled, each has its record of 64
bytes in the Whistle area, with the counter at which it settled, and the request is answered.
The model's readings and choices it rests on: log 20, 43, 56, 63, 64, 104, 119, 139. -/
def Obligations.Preemption : Prop :=
  ((∀ (s : State) (e : Entry), let c := argN s 0
    soleEntry s c e → e.state = .asked → (getCtx s c).mode = .running →
    exec .preemptionRequestArrival s = .next (modCtx s c (fun x => { x with
      mode := .stopping, window := some (dieCounter s c + x.hintgap.toNat) }))) ∧
  (∀ (s : State) (e : Entry) (w : Nat), let c := argN s 0
    isMem c = false → soleEntry s c e → (getCtx s c).mode = .stopping → (getCtx s c).window = some w → w ≤ dieCounter s c →
    budxDue s c = false →
    ∃ t, exec .hintWindowExpiry s = .next t ∧ (getCtx t c).mode = .saving ∧ (getCtx t c).hint = none ∧ (getCtx t c).window = none ∧
      (.drainComplete, EvArg.of [c]) ∈ t.agenda ∧ (getCtx t c).g = (getCtx s c).g ∧ (getCtx t c).pc = (getCtx s c).pc ∧ t.mem = s.mem) ∧
  (∀ (s : State) (a b : Reg), notPort a → notPort b → ReadyCompute s 1 → leaderOf s s.cur = s.cur → (val s a).toNat < 2 ^ 48 →
    exec (.phint a b) s = .next (did (if (me s).mode = .stopping ∧ (membersOf s s.cur).any (busyCopy s) = false
      then postOnce (honourHeld (honour (markSaving s s.cur) s.cur (val s a).toNat (val s b).toNat) s.cur) .drainComplete [s.cur]
      else s) s.cur 1 4)) ∧
  (∀ (s : State) (e : Entry), let c := argN s 0
    soleEntry s c e → (getCtx s c).mode = .saving → engineWork s c = false → (getCtx s c).halted = false →
    ∃ t, exec .drainComplete s = .next t ∧ (getCtx t c).stq = [] ∧ (.saveComplete, EvArg.of [c]) ∈ t.agenda ∧
      (getCtx t c).g = (getCtx s c).g) ∧
  (∀ (s : State) (e : Entry), let c := argN s 0
    soleEntry s c e → isMem c = false → (getCtx s c).mode = .saving → poisonedSave s c = none →
    ∃ t f, exec .saveComplete s = .next t ∧ (getCtx t c).mode = .free ∧ f ∈ (getDie t (dieOf c)).entries ∧ f.order = e.order ∧
      f.state = .saved ∧ f.members = [] ∧ f.saved = [saveOf s c] ∧
      (∀ i, i < winLen (getCtx s c) → memGet t.mem (localBase (coreOf c) + winBase (getCtx s c) + i) = 0)) ∧
  (∀ (s : State) (e : Entry) (v : SavedCtx), let c := argN s 0
    soleEntry s c e → e.saved = [v] → e.state = .restoring → (getCtx s c).mode = .loading → isWhistled s e.part = false →
    v.ctx.halted = false → giving s (coreOf c) = false →
    ∃ t f, exec .restoreComplete s = .next t ∧ (getCtx t c).mode = .running ∧ (getCtx t c).g = v.ctx.g ∧ (getCtx t c).v = v.ctx.v ∧
      (getCtx t c).pc = v.ctx.pc ∧ (getCtx t c).st = v.ctx.st ∧ (getCtx t c).tok = v.ctx.tok ∧
      (∀ i, i < winLen v.ctx → memGet t.mem (localBase (coreOf c) + winBase v.ctx + i) = memGet v.bytes (winBase v.ctx + i)) ∧
      f ∈ (getDie t (homeDie s c)).entries ∧ f.order = e.order ∧ f.state = .placed ∧ f.saved = []) ∧
  (∀ (x : Ctx) (live : Nat),
    (∀ r : Fin 28, (maskCtx x live).g[r] = if r.val < 4 ∨ bitAt live (r.val - 4) = true then x.g[r] else 0) ∧
    (∀ v : Fin 16, (maskCtx x live).v[v] = if bitAt live (28 + v.val) = true then x.v[v] else 0) ∧
    (∀ k : Fin 4, (maskCtx x live).acc[k] = (if bitAt live (44 + k.val) = true then x.acc[k] else []) ∧
      (maskCtx x live).ks[k] = if bitAt live (44 + k.val) = true then x.ks[k] else 0))) ∧
  ((∀ (s : State) (part c : Nat), c ∈ partCtxs s part → isMem c = false → issuing (getCtx s c).mode = true →
    budxDue s c = false →
    let t := whistleStop s part none
    (getCtx t c).mode = .whistled ∧ (getCtx t c).g = (getCtx s c).g ∧ (getCtx t c).pc = (getCtx s c).pc ∧ isWhistled t part = true ∧
      (.whistleSettled, EvArg.of [part]) ∈ t.agenda) ∧
  (∀ (s : State) (p : PartSt), getPart? s (argN s 0) = some p → p.whistled = true → p.settled = false → p.spared = none →
    (∀ c ∈ partCtxs s (argN s 0), (getCtx s c).mode = .free ∨
      ((getCtx s c).mode = .whistled ∧ engineWork s c = false ∧ (getCtx s c).settledAt ≠ 0)) →
    ∃ t, exec .whistleSettled s = .next t ∧ (∃ q, getPart? t (argN s 0) = some q ∧ q.settled = true) ∧
      (∀ c ∈ partCtxs s (argN s 0), memRead t.mem (p.cfg.whistle + 64 * c) 64 = whistleRecord s c) ∧
      (∀ r ∈ t.hreqs, ¬(r.part = argN s 0 ∧ r.code = 20 ∧ r.stage = 1))))

/-- R252, R254, R353, R398: seal closes a core of the caller's partition other than its own and asks the tasks placed there to give
way; unseal opens one that is in service and not being scanned, and is ILLEGAL on another; scan.go starts the patterns on a sealed core
with no task; scan.q and rpl.q give their words.
R398, R427, R429 to R431: a core of the Fold whose contexts are free is scanned; a pass empties its taint list and, in the Fold,
brings it back to service with half its score; a failure retires it and gives its partition's supervisor its tags; the rotation of a
die takes the next cluster and scans its cores once every context there is free.
The model's readings and choices it rests on: log 56, 98, 107, 117, 139. -/
def Obligations.SealAndScan : Prop :=
  ((∀ (s : State) (a : Reg) (core p : Nat), notPort a → Ready s 1 → 1 ≤ privOf (me s) → namedCore s s.cur (val s a) = some core →
    partOf s s.cur = some p → (isMem s.cur = false → core ≠ coreOf s.cur) →
    exec (.seal a) s = .next (did (sealCore s core p) s.cur 1 4)) ∧
  (∀ (s : State) (core p : Nat), (getCore s core).sealed = false → (getCore s core).fold = .service →
    let t := sealCore s core p
    (getCore t core).sealed = true ∧ askedAway s t core ∧ (.revocationTest, EvArg.of [dieOfCore core, p]) ∈ t.agenda ∧
      t.mem = s.mem ∧ t.ctxs = s.ctxs) ∧
  (∀ (s : State) (a : Reg) (core : Nat), notPort a → Ready s 1 → 1 ≤ privOf (me s) → namedCore s s.cur (val s a) = some core →
    exec (.unseal a) s = .next (if (getCore s core).fold = .service ∧ (getCore s core).scan ≠ 1
      then did (wakeReady (modCore s core (fun k => { k with sealed := false })) (dieOfCore core)) s.cur 1 4
      else takeTrap s s.cur (wordTrap cILLEGAL (.unseal a) 11) (me s).pc.toNat)) ∧
  (∀ (s : State) (a : Reg) (core : Nat), notPort a → Ready s 1 → 1 ≤ privOf (me s) → namedCore s s.cur (val s a) = some core →
    (getCore s core).sealed = true → (getCore s core).fold = .service → (getCore s core).errScan = false → (getCore s core).scan ≠ 1 →
    coreEmpty s core →
    exec (.scanGo a) s = .next (did (postOnce (modCore (ungate s (clusterOfCore core)) core (fun k => { k with scan := 1, armed := none })) .scanPatternsEnd
      [core, 0]) s.cur 1 4)) ∧
  (∀ (s : State) (d b : Reg) (core : Nat), notPort d → notPort b → Ready s 1 → 1 ≤ privOf (me s) →
    namedCore s s.cur (val s b) = some core →
    exec (.scanQ d b) s = .next (wrote s s.cur 1 4 d (w64 ((getCore s core).scan + (if coreSealed s core = true then 64 else 0) +
      (if (getCore s core).fold = .retired then 128 else 0) + (getCore s core).score * 2 ^ 16)))) ∧
  (∀ (s : State) (d : Reg), notPort d → ReadyCompute s 1 →
    exec (.rplQ d) s = .next (markUnv (wrote s s.cur 1 4 d (w64 (rplWord s s.cur))) s.cur))) ∧
  ((∀ (s : State), let core := argN s 0
    (getCore s core).fold = .drain → exec .foldScanStart s = .next (if (ctxsOf core).all (fun c => (getCtx s c).mode == .free)
      then postOnce (modCore (ungate s (clusterOfCore core)) core (fun k => { k with fold := .scan, scan := 1 })) .scanPatternsEnd [core, 0]
      else postOnce s .foldScanStart [core])) ∧
  (∀ (s : State), let core := argN s 0
    isMem core = false → (getCore s core).scan = 1 → argN s 1 = 0 → (∀ cl, (getCluster s cl).homes = []) →
    ∃ t, exec .scanPatternsEnd s = .next t ∧ (let k := getCore s core
      let j := getCore t core
      j.scan = 2 ∧ j.taint = [] ∧ j.taintOvf = false ∧ j.errScan = false ∧ j.sealed = k.sealed ∧
      j.lastPass = (getDie s (dieOfCore core)).counter ∧ (k.fold = .scan → j.fold = .service ∧ j.score = k.score / 2) ∧
      (k.fold ≠ .scan → j.fold = k.fold ∧ j.score = k.score)) ∧ t.mem = s.mem ∧ t.ctxs = s.ctxs) ∧
  (∀ (s : State), let core := argN s 0
    isMem core = false → (getCore s core).scan = 1 → argN s 1 ≠ 0 → (∀ cl, (getCluster s cl).homes = []) →
    ∃ t, exec .scanPatternsEnd s = .next t ∧ (getCore t core).scan = 3 ∧ (getCore t core).fold = .retired ∧ coreSealed t core = true ∧
      (getCore t core).armed = none ∧ (getCore t core).score = (getCore s core).score ∧ t.mem = s.mem ∧ t.ctxs = s.ctxs ∧
      (∀ p q, s.parts = [(p, q)] → (getCore s core).taint ≠ [] → (getCore s core).taint.length ≤ 24 →
        (∀ tag ∈ (getCore s core).taint, partOfTag s tag = some p) → (getCore s core).taintOvf = false →
        (faultsOf q (dieOfCore core)).length < 256 →
        ∃ q2, getPart? t p = some q2 ∧ faultsOf q2 (dieOfCore core) = faultsOf q (dieOfCore core) ++
          [taintEntry false false core (getCore s core).lastPass (getDie s (dieOfCore core)).counter 0 1 (getCore s core).taint.reverse])) ∧
  (∀ (s : State), let die := argN s 0
    rotatingOf s die = [] → let cl := die * 256 + (getDie s die).rotNext
    ∃ t, exec .rotationClusterStart s = .next t ∧ (getCluster t cl).rotating = true ∧
      (getDie t die).rotNext = ((getDie s die).rotNext + 1) % 256 ∧ (.rotationClusterStart, EvArg.of [die]) ∈ t.agenda ∧
      t.mem = s.mem ∧ t.ctxs = s.ctxs) ∧
  (∀ (s : State) (cl : Nat) (rest : List Nat), let die := argN s 0
    rotatingOf s die = cl :: rest → (getDie s die).rotCores = [] → cl % 8 ≠ 0 → (∀ core ∈ coresOf cl, coreEmpty s core) →
    rotationCores s cl ≠ [] →
    ∃ t, exec .rotationClusterStart s = .next t ∧ (getDie t die).rotCores = rotationCores s cl ∧
      (∀ c ∈ rotationCores s cl, (getCore t c).scan = 1 ∧ (.scanPatternsEnd, EvArg.of [c, 0]) ∈ t.agenda) ∧
      t.mem = s.mem ∧ t.ctxs = s.ctxs))

/-- R425, R426, R432, R433, R436, R439: a single bit corrected is counted and, in device memory, logged with its bit as KIND 1, and
nothing else changes; a parity error in a clean copy discards it. An error that cannot be corrected, met by a context with a task, is entered in the supervisor's fault queue with
its level; at level 1 the core is closed for a scan and every context of it stops, at level 2 the task's graph is aborted, at level 4 the
Whistle stops the partition and the hypervisor is told; met by none, the word is only poisoned, and one that a line of device memory shows
before anything consumes it is logged as KIND 2 too.
R438, R439: a transfer with a parity error is sent again and logged when it passes; after the fourth attempt the lane test puts
a free spare in the lane's place, and where there is none to put, the line is poisoned and the channel retires.
The model's readings and choices it rests on: log 52, 82, 85, 104. -/
def Obligations.UncorrectableErrors : Prop :=
  ((∀ (s : State), let die := argN s 0
    let addr := argN s 2
    argN s 3 = 1 →
    ∃ t, exec .uncorrectable s = .next t ∧ (getDie t die).corrected = (getDie s die).corrected + 1 ∧ t.mem = s.mem ∧ t.ctxs = s.ctxs ∧
      t.poison = s.poison ∧ t.cores = s.cores ∧ (argN s 1 ≠ 5 → t.chans = s.chans) ∧
      (argN s 1 = 5 → addr < 2 ^ 39 → (getChan t (chanOf addr)).arrayLog.head?.map Prod.fst =
        some (2 ^ 62 + addr / 8 % 8 * 2 ^ 59 + argN s 4 % 64 * 2 ^ 52 + addr / 64))) ∧
  (∀ (s : State), let core := argN s 0
    argN s 3 = 2 →
    ∃ t, exec .uncorrectable s = .next t ∧ t.mem = s.mem ∧ t.ctxs = s.ctxs ∧
      (argN s 1 = 0 → ∀ e, e ∈ (getCore t core).icache ↔ e ∈ (getCore s core).icache ∧ e.2.2.1 ≠ argN s 2) ∧
      (argN s 1 = 1 → ∀ e, e ∈ (getCluster t (clusterOfCore core)).icache ↔
        e ∈ (getCluster s (clusterOfCore core)).icache ∧ e.2.2.1 ≠ argN s 2) ∧
      (argN s 1 = 2 → ∀ e, e ∈ (getDie t (dieOfCore core)).tlb ↔ e ∈ (getDie s (dieOfCore core)).tlb ∧ e.va ≠ argN s 2)) ∧
  (∀ (s : State) (p : Nat) (q : PartSt), let c := argN s 0
    argN s 3 = 0 → argN s 1 = 6 → argN s 4 = 0 → partOf s c = some p → getPart? s p = some q → (faultsOf q (dieOf c)).length < 256 →
    ∃ t q2, exec .uncorrectable s = .next t ∧ getPart? t p = some q2 ∧ q2.whistled = true ∧ (∃ r ∈ t.reports, r = .stateFailed p) ∧
      faultsOf q2 (dieOf c) = faultsOf q (dieOf c) ++ [uncorrEntry s none 6 4 (argN s 2) false false 0x3FFF]) ∧
  (∀ (s : State) (p : Nat) (q : PartSt), let c := argN s 0
    let kind := argN s 1
    let addr := argN s 2
    let own := kind == 0 || kind == 4 || (storeKind c addr).2
    let level := errorLevel kind own
    isMem c = false → argN s 3 = 0 → kind ≠ 6 → (getCtx s c).mode ≠ .free → partOf s c = some p → getPart? s p = some q →
    (faultsOf q (dieOf c)).length < 256 →
    ∃ t, exec .uncorrectable s = .next t ∧
      (∃ q2 again, getPart? t p = some q2 ∧ faultsOf q2 (dieOf c) = faultsOf q (dieOf c) ++
        [uncorrEntry s (some c) kind level addr (kind == 5) again (coreOf c)]) ∧
      (level = 1 → (getCore t (coreOf c)).errScan = true ∧ (getCore t (coreOf c)).fold = .scan ∧ (getCore t (coreOf c)).scan = 1 ∧
        (.scanPatternsEnd, EvArg.of [coreOf c, 0]) ∈ t.agenda ∧
        ∀ d ∈ ctxsOf (coreOf c), (getCtx t d).mode = .free ∨ (getCtx t d).mode = .removed) ∧
      (level = 2 → (getCtx s c).run = 0 → ∀ e, entOfCtx s c = some e → compared e = false → e.transit.runCtx ≠ some c → (getCtx t c).mode = .removed)) ∧
  (∀ (s : State), let c := argN s 0
    isMem c = false → argN s 3 = 0 → argN s 1 ≠ 6 → (getCtx s c).mode = .free →
    exec .uncorrectable s = .next (if argN s 4 = 1 then poisonDev s (argN s 2) false else poisonAt s c (argN s 1) (argN s 2))) ∧
  (∀ (s : State), let addr := argN s 2
    argN s 3 = 4 → addr < 2 ^ 39 →
    ∃ t, exec .uncorrectable s = .next t ∧ farAddr addr false / 8 ∈ t.poison ∧ (∀ w ∈ s.poison, w ∈ t.poison) ∧
      (getChan t (chanOf addr)).arrayLog.head?.map Prod.fst = some (2 * 2 ^ 62 + addr / 8 % 8 * 2 ^ 59 + 127 * 2 ^ 52 + addr / 64) ∧
      t.mem = s.mem ∧ t.ctxs = s.ctxs ∧ t.parts = s.parts) ∧
  (∀ (s : State) (w : Nat), w ∈ (poisonWord s w).poison ∧ (∀ v, v ≠ w → (v ∈ (poisonWord s w).poison ↔ v ∈ s.poison)) ∧
    (poisonWord s w).mem = s.mem)) ∧
  ((∀ (s : State) (n : Nat), let ch := argN s 0
    let line := argN s 1
    let group := argN s 2 % 8
    ((getChan s ch).resend = none ∧ n = 1) ∨ (getChan s ch).resend = some (line, group, n) → n < 4 →
    ∃ t, exec .parityResend s = .next t ∧ t.mem = s.mem ∧ t.ctxs = s.ctxs ∧
      (argN s 3 = 0 → (getChan t ch).resend = none ∧ (getChan t ch).busLog.head? =
        some (busWord 1 (n + 1) group 127 (getChan s ch).spares.length line, (getDie s (ch / 32)).counter)) ∧
      (argN s 3 ≠ 0 → (getChan t ch).resend = some (line, group, n + 1) ∧ (getChan t ch).busLog = (getChan s ch).busLog)) ∧
  (∀ (s : State) (n : Nat), let ch := argN s 0
    let line := argN s 1
    let group := argN s 2 % 8
    let lane := argN s 3
    (getChan s ch).resend = some (line, group, n) → 4 ≤ n →
    ∃ t, exec .laneTest s = .next t ∧ t.mem = s.mem ∧ t.ctxs = s.ctxs ∧ (getChan t ch).resend = none ∧
      (if lane / 8 = group ∧ (getChan s ch).spares.length < 2
       then (getChan t ch).spares = (getChan s ch).spares ++ [lane] ∧ (getChan t ch).retired = (getChan s ch).retired ∧
         t.poison = s.poison
       else (getChan t ch).spares = (getChan s ch).spares ∧ (getChan t ch).retired = true ∧ ∀ i, i < 8 → line * 8 + i ∈ t.poison)))

/-- R392, R394, R395, R403: locks that have reached their age end the comparison of a task that runs; a replay, or where one has disagreed a
third run, starts on the core chosen for it, with the registers of task start, the original's final CHARGE and 64 more as its BUDGET and a
new deadline.
The model's readings and choices it rests on: log 59. -/
def Obligations.Replays : Prop :=
  (∀ (s : State) (e : Entry), let die := argN s 0
    entByTag s die (argN s 1) = some e → e.transit.phase = 1 → e.transit.admitted + Config.lockAge ≤ (getDie s die).counter →
    ∃ t f, exec .retentionLockAge s = .next t ∧ entByTag t die (argN s 1) = some f ∧ f.transit.phase = 5 ∧ f.transit.locks = [] ∧
      f.state = e.state ∧ f.members = e.members ∧ t.mem = s.mem ∧ t.ctxs = s.ctxs ∧
      (∀ p, getPart? s e.part = some p → ∃ q, getPart? t e.part = some q ∧ q.unverified = p.unverified + 1)) ∧
  (∀ (s : State) (e : Entry) (core c : Nat) (rest : List Nat), let die := argN s 0
    entByTag s die (argN s 1) = some e → e.transit.phase = 2 ∨ e.transit.phase = 6 → e.saved = [] → e.argLen = 0 → e.rootReq = none →
    isWhistled s e.part = false → let run := if e.transit.phase = 2 then 1 else 2
    (∀ f ∈ (getDie s die).entries, ¬(runWaits f = true ∧ f.transit.phase = e.transit.phase ∧ f.saved = [] ∧ f.transit.seq < e.transit.seq)) →
    runChoice s e false = some core → gatedGroup s core = false → freeCtxs s (2 ^ 64) core = c :: rest →
    ∃ t f, exec .replayPlacement s = .next t ∧ (let x := getCtx t c
      x.mode = .running ∧ x.run = run ∧ x.pc = pc48 e.code ∧ getReg x 2 = w64 e.g2 ∧ getReg x 4 = w64 e.g4 ∧ getReg x 5 = w64 e.g5 ∧
      getReg x 6 = w64 e.tag ∧ x.budget = w64 (e.transit.finalCharge + 64) ∧ x.charge = 0 ∧
      x.deadline = w64 ((getDie s (dieOfCore core)).counter + e.slack)) ∧
      entByTag t die (argN s 1) = some f ∧ f.transit.phase = run + 2 ∧ f.transit.runCtx = some c ∧
      f.transit.cores = e.transit.cores ++ [core])

/-- R395 to R397, R399, R400: a replay that ends with the digest of the original confirms both cores, counts one confirmation, and releases
the task; one that disagrees, or has failed, leaves the task to wait for a third run, with the replay's output lines kept. A third run counts
a mismatch and finds the core at fault: it agrees with the original, whose core and its own are confirmed, and the replay's core takes 256;
or with the replay, and the original's core takes 256; or with neither, all three take 128, and the task counts as aborted. Each writes the
REPLAY_MISMATCH entry with its outcome. In confirm mode the counter is signalled with the release. The replay's lines are copied back under
their byte masks.
The model's readings and choices it rests on: log 34, 59, 60, 104. -/
def Obligations.ReplayOutcomes : Prop :=
  (∀ (s : State) (e : Entry), let c := argN s 0
    runEnded s c 1 e →
    (e.transit.failed.getD 1 false = false ∧ e.transit.d.getD 1 0 = e.transit.d.getD 0 0 → runCore e 0 ≠ runCore e 1 →
      ∃ t, exec .taskCompletion s = .next t ∧ (getCtx t c).mode = .free ∧ selectedGone s t c e false ∧
        confirmedOnce s t (runCore e 0) ∧ confirmedOnce s t (runCore e 1) ∧
        ∀ p, getPart? s e.part = some p → ∃ q, getPart? t e.part = some q ∧ q.confirmed = p.confirmed + 1 ∧ q.mismatch = p.mismatch) ∧
    (e.transit.failed.getD 1 false = true ∨ e.transit.d.getD 1 0 ≠ e.transit.d.getD 0 0 →
      ∃ t f, exec .taskCompletion s = .next t ∧ (getCtx t c).mode = .free ∧ f ∈ (getDie t (homeDie s c)).entries ∧ f.order = e.order ∧
        f.transit.phase = 6 ∧ f.transit.runCtx = none ∧ f.transit.kept = e.transit.shadow ∧ f.transit.shadow = [] ∧
        (.replayPlacement, EvArg.of [homeDie s c, e.tag]) ∈ t.agenda)) ∧
  (∀ (s : State) (e : Entry) (p : PartSt), let c := argN s 0
    let d (i : Nat) : Nat := e.transit.d.getD i 0
    let bad (i : Nat) : Prop := e.transit.failed.getD i false = true
    runEnded s c 2 e → e.transit.cores = [runCore e 0, runCore e 1, runCore e 2] → [runCore e 0, runCore e 1, runCore e 2].Nodup →
    getPart? s e.part = some p → (faultsOf p (homeDie s c)).length < 256 →
    (∃ t, exec .taskCompletion s = .next t ∧ (getCtx t c).mode = .free ∧
      (∃ q, getPart? t e.part = some q ∧ q.mismatch = p.mismatch + 1 ∧ q.confirmed = p.confirmed) ∧
      (¬ bad 2 ∧ d 2 = d 0 → selectedGone s t c e false ∧ mismatchTold s t c e 1 ∧
        confirmedOnce s t (runCore e 0) ∧ confirmedOnce s t (runCore e 2) ∧ raisedBy s t (runCore e 1) 256) ∧
      (¬ bad 2 ∧ ¬ bad 1 ∧ d 2 ≠ d 0 ∧ d 2 = d 1 → selectedGone s t c e false ∧ mismatchTold s t c e 2 ∧
        confirmedOnce s t (runCore e 1) ∧ confirmedOnce s t (runCore e 2) ∧ raisedBy s t (runCore e 0) 256) ∧
      (bad 2 ∨ (d 2 ≠ d 0 ∧ (bad 1 ∨ d 2 ≠ d 1)) → selectedGone s t c e true ∧ mismatchTold s t c e 3 ∧
        raisedBy s t (runCore e 0) 128 ∧ raisedBy s t (runCore e 1) 128 ∧ raisedBy s t (runCore e 2) 128))) ∧
  (∀ (s s1 : State) (die part pid pa : Nat) (l : ShadowLine) (host : Bool), translate s die part pid l.va .write = .ok (s1, pa, host) →
    let a := farAddr (pa / 64 * 64) host
    let t := copyBack s die part pid [l]
    (∀ i, i < 64 → memGet t.mem (a + i) = if bitAt l.mask i = true then l.data.getD i 0 else memGet s.mem (a + i)) ∧
    ∀ b, b < a ∨ a + 64 ≤ b → memGet t.mem b = memGet s.mem b)

/-- R243: hcall of every code leaves a request that names its argument and reply slot; a slot that fails its checks traps, and a
second call while one is outstanding is ILLEGAL.
R243: a reply is two writes: first the result, then the status, which closes the request; the status is written as a release
at system scope. No other byte of memory changes. The status of an invalidation is written when no cache holds an entry of its range and
no order that used one is left (R315).
The model's readings and choices it rests on: log 49, 50, 56, 77, 107, 117, 139. -/
def Obligations.HypervisorCalls : Prop :=
  ((∀ (s : State) (i : Instr) (code : Nat) (a b : Reg), hcalls i = some (code, a, b) → notPort a → notPort b → Ready s 1 →
    bodyEnds (me s) (me s).pc.toNat = false →
    Callable s (val s b) → exec i s = .next (called s code (val s a) (val s b))) ∧
  (∀ (s : State), let w := wordHere s
    notPort (regField w 21) → notPort (regField w 16) → Ready s 1 → bodyEnds (me s) (me s).pc.toNat = false → Callable s (val s (regField w 16)) →
    exec .hcall s = .next (called s (bitsAt w 0 12) (val s (regField w 21)) (val s (regField w 16)))) ∧
  (∀ (s : State) (i : Instr) (code : Nat) (a b : Reg), hcalls i = some (code, a, b) → notPort a → notPort b → Ready s 1 →
    bodyEnds (me s) (me s).pc.toNat = false →
    1 ≤ privOf (me s) →
    (slotArea (me s) s.cur (val s b).toNat 16 = false →
      exec i s = .next (takeTrap s s.cur ⟨cADDRESS, (val s b).toNat, false, 0, 0, none⟩ (me s).pc.toNat)) ∧
    (slotArea (me s) s.cur (val s b).toNat 16 = true → (val s b).toNat % 16 ≠ 0 →
      exec i s = .next (takeTrap s s.cur ⟨cALIGN, (val s b).toNat, false, 0, 0, none⟩ (me s).pc.toNat)) ∧
    (∀ m ∈ membersOf s s.cur, slotCheck (me s) s.cur (val s b).toNat = none → (getCtx s m).hcallOut = true →
      exec i s = .next (takeTrap s s.cur (wordTrap cILLEGAL i 11) (me s).pc.toNat)))) ∧
  ((∀ (s : State) (r : HReq) (p : Nat), requestAt s r 2 → reqAddr s r r.slot = some (some p) →
    ∃ t q, exec .hcallReply s = .next t ∧ memRead t.mem (p + 8) 8 = leBytes 8 r.result ∧
      (∀ a, a < p + 8 ∨ p + 16 ≤ a → memGet t.mem a = memGet s.mem a) ∧ findReq t r.id = some q ∧ q.stage = 3 ∧ q.status = r.status ∧
      (.hcallReply, EvArg.of [r.id]) ∈ t.agenda ∧ t.ctxs = s.ctxs) ∧
  (∀ (s : State) (r : HReq) (p : Nat), requestAt s r 3 → reqAddr s r r.slot = some (some p) →
    (r.code = 17 → r.status = 1 → ordersIn s r.part r.hdr = false) →
    ∃ t, exec .hcallReply s = .next t ∧ memRead t.mem p 8 = leBytes 8 r.status ∧
      (∀ a, a < p ∨ p + 8 ≤ a → memGet t.mem a = memGet s.mem a) ∧ (∀ q ∈ t.hreqs, q.id ≠ r.id) ∧
      (∃ k ∈ t.released, k.addr = p ∧ k.len = 8 ∧ k.carry.scope = 4) ∧
      (∀ e, entByTag s (dieOf r.ctx) r.tag = some e → ∀ m ∈ e.members, (getCtx t m).hcallOut = false) ∧
      (entByTag s (dieOf r.ctx) r.tag = none → homeSaved s r.ctx = false → (getCtx s r.ctx).tag.toNat = r.tag →
        (getCtx t r.ctx).hcallOut = false) ∧
      (entByTag s (dieOf r.ctx) r.tag = none → homeSaved s r.ctx = true →
        ∀ h ∈ (getCluster t (clusterOf r.ctx)).homes, h.1 = r.ctx → h.2.ctx.hcallOut = false) ∧
      (r.code = 17 → r.status = 1 → invalidateRange t r.part r.hdr = t)) ∧
  (∀ (s : State) (r : HReq), requestAt s r 3 → r.code = 17 → r.status = 1 → ordersIn s r.part r.hdr = true →
    exec .hcallReply s = .next (postOnce s .hcallReply [r.id])))

/-- R243, R307, R360, R399, R406, R430: what the hypervisor does for a request of a code, and the status and result with which it
answers; a code without a row is answered with status 3.
The model's readings and choices it rests on: log 55, 77, 84. -/
def Obligations.HypervisorServices : Prop :=
  (∀ (s : State) (r : HReq), requestAt s r 0 → r.code < 16 ∨ 32 < r.code → exec .hcallReply s = .next (answer s r 3 0)) ∧
  (∀ (s : State) (r : HReq), requestAt s r 0 → r.code = 18 → exec .hcallReply s = .next (
    if r.arg / 2 ^ 56 = 0 ∧ r.arg % 4 = 0 then answer (modPart s r.part (fun p => { p with
      loaders := if r.arg % 2 ^ 48 = 0 then p.loaders.del (bitsAt r.arg 48 8) else p.loaders.put (bitsAt r.arg 48 8) (r.arg % 2 ^ 48) }))
      r 1 0
    else answer s r 2 0)) ∧
  (∀ (s : State) (r : HReq) (p : PartSt), requestAt s r 0 → r.code = 19 → getPart? s r.part = some p → r.arg = 0 →
    let die := dieOf r.ctx
    exec .hcallReply s = .next (answer s r 1 (p.cfg.cls % 256 * 2 ^ 56 + minimumOf p die % 4096 * 2 ^ 44 +
      (partCores s r.part die).length % 4096 * 2 ^ 32 + ((getDie s die).misses.get? r.part).getD 0 % 65536 * 2 ^ 16 +
      ((getDie s die).entries.filter (fun e => e.part == r.part && holdsPlace e)).length))) ∧
  (∀ (s : State) (r : HReq) (p : PartSt), requestAt s r 0 → getPart? s r.part = some p →
    (r.code = 19 ∧ r.arg ≠ 0) ∨ (r.code = 22 ∧ (bitsAt r.arg 34 29 ≠ 0 ∨ 65536 < r.arg % 2 ^ 17)) →
    exec .hcallReply s = .next (answer s r 2 0)) ∧
  (∀ (s : State) (r : HReq) (p : PartSt), requestAt s r 0 → r.code = 22 → getPart? s r.part = some p → bitsAt r.arg 34 29 = 0 →
    r.arg % 2 ^ 17 ≤ 65536 →
    exec .hcallReply s = .next (if bitAt r.arg 63 = true
      then answer (putPart s r.part { p with thresh := bitsAt r.arg 18 16, conf := bitAt r.arg 17, frac := r.arg % 2 ^ 17 }) r 1
        (settingsWord { p with thresh := bitsAt r.arg 18 16, conf := bitAt r.arg 17, frac := r.arg % 2 ^ 17 })
      else answer s r 1 (settingsWord p))) ∧
  (∀ (s : State) (r : HReq) (p : PartSt), requestAt s r 0 → r.code = 23 → getPart? s r.part = some p →
    exec .hcallReply s = .next (answer s r 1 (min 2097151 p.confirmed + min 2097151 p.mismatch * 2 ^ 21 +
      min 2097151 p.unverified * 2 ^ 42))) ∧
  (∀ (s : State) (r : HReq), requestAt s r 0 → r.code = 24 → let core := r.arg % 2 ^ 14
    exec .hcallReply s = .next (if r.arg / 2 ^ 22 = 0 ∧ bitsAt r.arg 14 2 = 0 ∧ (getCluster s (clusterOfCore core)).part = some r.part ∧
        (getCore s core).fold ≠ .retired ∧ (getCore s core).armed = none
      then answer (modCore s core (fun k => { k with armed := some (bitsAt r.arg 16 6) })) r 1 r.arg else answer s r 2 0)) ∧
  (∀ (s : State) (r : HReq), requestAt s r 0 → r.code = 25 →
    exec .hcallReply s = .next (if r.arg / 2 ^ 32 = 0 ∧ partOfTag s r.arg = some r.part then answer s r 1 (taintCount s r.arg)
      else answer s r 2 0)) ∧
  (∀ (s : State) (r : HReq) (status result : Nat), findReq s r.id = some r →
    findReq (answer s r status result) r.id = some { r with stage := 2, status := status, result := result } ∧
    (.hcallReply, EvArg.of [r.id]) ∈ (answer s r status result).agenda ∧ (answer s r status result).mem = s.mem ∧
    (answer s r status result).ctxs = s.ctxs)

/-- R315, R368, R379, R444, R446, R447, R457, R458, R461: the codes whose answer follows from more than a word: 17 invalidates a range, 20
stops a partition and 21 releases it, 26 evicts a directory entry, 27 gives the oldest entry of the fault queue, 28 and 29 page a task out
and in, 30 signs the identity of the part, 31 posts a contribution and 32 waits for one; each with the arguments that it answers with
status 2.
The model's readings and choices it rests on: log 8, 9, 20, 50, 65, 77, 93, 94, 96. -/
def Obligations.HypervisorRequests : Prop :=
  (∀ (s : State) (r : HReq), requestAt s r 0 → r.code = 17 → hvRefuse s r r.arg 16 = none →
    let b := memRead s.mem (phys r.ctx r.arg) 16
    (invPlace s r = false ∨ invOk s r b = false → exec .hcallReply s = .next (answer s r 2 0)) ∧
    (invPlace s r = true → invOk s r b = true → ∃ t, exec .hcallReply s = .next t ∧
      (∀ d, ∀ e ∈ (getDie t d).tlb, ¬(e.part = r.part ∧ e.pid = fieldOf b 14 2 ∧ e.va < invTo b ∧ fieldOf b 0 8 < e.va + e.size)) ∧
      (ordersIn s r.part b = false → hvAnswered t r 1 0) ∧ (ordersIn s r.part b = true → hvWaiting t r) ∧
      t.mem = s.mem ∧ t.ctxs = s.ctxs)) ∧
  (∀ (s : State) (r : HReq), requestAt s r 0 → r.code = 20 ∨ r.code = 21 → r.arg ≠ 0 →
    exec .hcallReply s = .next (answer s r 2 0)) ∧
  (∀ (s : State) (r : HReq) (p : PartSt), requestAt s r 0 → r.code = 20 → r.arg = 0 → getPart? s r.part = some p →
    ∃ t, exec .hcallReply s = .next t ∧ hvWaiting t r ∧ isWhistled t r.part = true ∧ (.whistleSettled, EvArg.of [r.part]) ∈ t.agenda ∧
      (∀ c ∈ partCtxs s r.part, c ∉ membersOf s r.ctx → isMem c = false → issuing (getCtx s c).mode = true → budxDue s c = false →
        (getCtx t c).mode = .whistled) ∧
      (∀ c ∈ membersOf s r.ctx, (getCtx t c).mode = (getCtx s c).mode) ∧ t.mem = s.mem) ∧
  (∀ (s : State) (r : HReq) (p : PartSt), requestAt s r 0 → r.code = 21 → r.arg = 0 → getPart? s r.part = some p →
    ∃ t, exec .hcallReply s = .next t ∧ hvAnswered t r 1 0 ∧ isWhistled t r.part = false ∧
      (∀ c ∈ partCtxs s r.part, (getCtx s c).mode = .whistled →
        (getCtx t c).mode = if (getCtx s c).window.isSome = true then .stopping else .running)) ∧
  (∀ (s : State) (r : HReq) (p : PartSt), requestAt s r 0 → r.code = 26 → getPart? s r.part = some p →
    (p.dir.find? (fun e => e.outBase == r.arg) = none → exec .hcallReply s = .next (answer s r 2 0)) ∧
    (∀ e, p.dir.find? (fun e => e.outBase == r.arg) = some e → ∃ t q, exec .hcallReply s = .next t ∧ getPart? t r.part = some q ∧
      q.dir = p.dir.filter (fun f => f.key != e.key) ∧
      (∀ d, ∀ g ∈ (getDie t d).regions, ¬(g.part = r.part ∧ e.outBase ≤ g.addr ∧ g.addr < e.outBase + e.outLen)) ∧
      (removalsLeft t r.part = false → hvAnswered t r 1 0) ∧ (removalsLeft t r.part = true → hvWaiting t r))) ∧
  (∀ (s : State) (r : HReq) (p : PartSt), requestAt s r 0 → r.code = 27 → getPart? s r.part = some p → let die := dieOf r.ctx
    (faultsOf p die = [] ∨ blockOk r.ctx r.arg = false → exec .hcallReply s = .next (answer s r 2 ((p.lost.get? die).getD 0))) ∧
    (∀ e rest, faultsOf p die = e :: rest → blockOk r.ctx r.arg = true → ∃ t q, exec .hcallReply s = .next t ∧
      memRead t.mem (phys r.ctx r.arg) e.length = e ∧ hvAnswered t r 1 rest.length ∧ getPart? t r.part = some q ∧ faultsOf q die = rest ∧
      ∀ a, a < phys r.ctx r.arg ∨ phys r.ctx r.arg + e.length ≤ a → memGet t.mem a = memGet s.mem a)) ∧
  (∀ (s : State) (r : HReq) (p : PartSt), requestAt s r 0 → r.code = 28 → getPart? s r.part = some p →
    (findTag s r.part (r.arg % 2 ^ 32) = none → exec .hcallReply s = .next (answer s r 2 0)) ∧
    (∀ die e, findTag s r.part (r.arg % 2 ^ 32) = some (die, e) →
      let room := p.pages.length + e.saved.length ≤ Config.namespaceSlots r.part
      (e.state ≠ .saved ∨ e.paged = true ∨ ¬ room → exec .hcallReply s = .next (answer s r 2 0)) ∧
      (e.state = .saved → e.paged = false → room → ∃ t q gs f, exec .hcallReply s = .next t ∧ hvAnswered t r 1 0 ∧
        getPart? t r.part = some q ∧ q.pages = p.pages ++ gs ∧ gs.length = e.saved.length ∧
        (∀ g ∈ gs, g.die = die ∧ g.tag = e.tag ∧ g.key = p.xtsKey ∧ g.block % 64 = 0) ∧
        (∀ i (h : i < gs.length) (k : i < e.saved.length), gs[i].units = sealUnits p.xtsKey gs[i].block e.saved[i].bytes) ∧
        f ∈ (getDie t die).entries ∧ f.order = e.order ∧ f.paged = true ∧ (∀ v ∈ f.saved, v.bytes = []) ∧ t.mem = s.mem))) ∧
  (∀ (s : State) (r : HReq), requestAt s r 0 → r.code = 29 →
    (findTag s r.part (r.arg % 2 ^ 32) = none → exec .hcallReply s = .next (answer s r 2 0)) ∧
    (∀ die e, findTag s r.part (r.arg % 2 ^ 32) = some (die, e) → exec .hcallReply s = .next
      (if e.paged = true then answer (askPageIn s die e) r 1 0 else answer s r 2 0))) ∧
  (∀ (s : State) (r : HReq) (p : PartSt), requestAt s r 0 → r.code = 30 → getPart? s r.part = some p → hvRefuse s r r.arg 64 = none →
    let id := sha512 s.hvImage ++ sha512 p.supImage ++ leBytes 8 Config.partNumber ++ leBytes 8 Config.almanacRev
    let bs := id ++ identitySign (memRead s.mem (phys r.ctx r.arg) 64 ++ id) ++ List.replicate 172 0
    ((∃ i, i < 4 ∧ blockOk r.ctx (r.arg + i * 128) = false) → exec .hcallReply s = .next (answer s r 2 0)) ∧
    ((∀ i, i < 4 → blockOk r.ctx (r.arg + i * 128) = true) → ∃ t, exec .hcallReply s = .next t ∧ hvAnswered t r 1 0 ∧
      memRead t.mem (phys r.ctx (r.arg + 0x40)) bs.length = bs)) ∧
  (∀ (s : State) (r : HReq) (p : PartSt), requestAt s r 0 → r.code = 31 → getPart? s r.part = some p → hvRefuse s r r.arg 32 = none →
    let b := memRead s.mem (phys r.ctx r.arg) 32
    let d := spanDesc b
    let ok := spanDescOk s r b = true ∧ 64 ≤ d.len ∧ d.len ≤ 2 ^ 24 ∧ d.len % 64 = 0
    (¬ ok → exec .hcallReply s = .next (answer s r 2 0)) ∧
    (ok → p.expired.contains (d.cid, d.epoch) = true → exec .hcallReply s = .next (answer s r 0x8012 0)) ∧
    (ok → p.expired.contains (d.cid, d.epoch) = false → p.posted.contains (d.peer, d.cid, d.epoch, d.member) = true →
      exec .hcallReply s = .next (answer s r 2 0)) ∧
    (∀ s1 bs, ok → p.expired.contains (d.cid, d.epoch) = false → p.posted.contains (d.peer, d.cid, d.epoch, d.member) = false →
      readFar s (dieOf r.ctx) r.part r.pid d.src d.len = .ok (s1, bs) → ∃ t x, exec .hcallReply s = .next t ∧ hvWaiting t r ∧
        t.sends = s1.sends ++ [x] ∧ x.req = r.id ∧ x.part = r.part ∧ x.peer = d.peer ∧ x.cid = d.cid ∧ x.epoch = d.epoch ∧
        x.member = d.member ∧ x.data = bs ∧ x.unacked = ceilDiv d.len 252 ∧ t.mem = s1.mem)) ∧
  (∀ (s : State) (r : HReq) (p : PartSt), requestAt s r 0 → r.code = 32 → getPart? s r.part = some p → hvRefuse s r r.arg 32 = none →
    let b := memRead s.mem (phys r.ctx r.arg) 32
    let d := spanDesc b
    let ok := spanDescOk s r b = true ∧ d.len = 0 ∧ d.peer = 0
    (¬ ok → exec .hcallReply s = .next (answer s r 2 0)) ∧
    (ok → p.expired.contains (d.cid, d.epoch) = true → exec .hcallReply s = .next (answer s r 0x8012 0)) ∧
    (ok → p.expired.contains (d.cid, d.epoch) = false →
      (∀ c, p.landed.find? (fun c => c.key == (d.cid, d.epoch, d.member)) = some c →
        exec .hcallReply s = .next (answer s r 1 c.addr)) ∧
      (p.landed.find? (fun c => c.key == (d.cid, d.epoch, d.member)) = none → ∃ t, exec .hcallReply s = .next t ∧ hvWaiting t r ∧
        t.mem = s.mem ∧ t.ctxs = s.ctxs)))

/-- R258, R259, R270, R271, R276: an image is prepared: a run block out of order is answered with status 2; a hit of the directory gives its
areas with no run; else the run is offered to the Drover, which decides it in its turn. A placed run starts in root mode with its five registers; its result words
are written to the run block.
The model's readings and choices it rests on: log 46, 50, 57, 74, 75, 77. -/
def Obligations.TranslatorRuns : Prop :=
  (∀ (s : State) (r : HReq), requestAt s r 0 → r.code = 16 →
    hvRefuse s r r.arg 0x20 = none → blockOk r.ctx r.arg = false ∨ blockWordsOk (hvWord s r r.arg) (hvWord s r (r.arg + 8)) (hvWord s r (r.arg + 16)) = false →
    exec .imagePrepare s = .next (answer s r 2 0x100)) ∧
  (∀ (s s1 : State) (r : HReq) (h key : List Byte) (ents : List Nat), requestAt s r 0 → r.code = 16 → blockOk r.ctx r.arg = true →
    hvRefuse s r r.arg 0x20 = none → blockWordsOk (hvWord s r r.arg) (hvWord s r (r.arg + 8)) (hvWord s r (r.arg + 16)) = true →
    readImage s (dieOf r.ctx) r.part r.pid (hvWord s r r.arg) = .ok h ents key s1 →
    (vexidOf h).sig = true ∨ unsignedRuns s r.part = true →
    (∀ e, dirFind s1 r.part key = some e → ∃ t q, exec .imagePrepare s = .next t ∧ findReq t r.id = some q ∧ q.key = key ∧
      q.entries = ents ∧ q.hdr = h ∧ q.stage = 5 ∧ q.res = [2 ^ 32, e.outLen * 2 ^ 32, e.provN, 0, 0, 0, e.outBase, e.provBase] ∧
      memRead t.mem (phys r.ctx (r.arg + 0x20)) key.length = key ∧ (.hcallReply, EvArg.of [r.id]) ∈ t.agenda) ∧
    (∀ u1 u2, dirFind s1 r.part key = none →
      rangeWritable (performBytes s1 (phys r.ctx (r.arg + 0x20)) key) (dieOf r.ctx) r.part r.pid (hvWord s r (r.arg + 8)) (vexidOf h).outlim = .ok u1 →
      rangeWritable u1 (dieOf r.ctx) r.part r.pid (hvWord s r (r.arg + 16)) (2 * (vexidOf h).outlim) = .ok u2 →
      ∃ t q d, exec .imagePrepare s = .next t ∧ findReq t r.id = some q ∧ q.key = key ∧ q.entries = ents ∧ q.hdr = h ∧ q.stage = 1 ∧
        memRead t.mem (phys r.ctx (r.arg + 0x20)) key.length = key ∧
        (getDie t (dieOf r.ctx)).reqs = (getDie u2 (dieOf r.ctx)).reqs ++ [d] ∧ d.kind = 4 ∧ d.n = r.id ∧ d.part = r.part)) ∧
  (∀ (s : State) (die part pid image : Nat) (h key : List Byte) (ents : List Nat) (s1 : State), image % 64 ≠ 0 →
    readImage s die part pid image ≠ .ok h ents key s1) ∧
  (∀ (s : State) (r : HReq) (d : DReq) (ds : List DReq), requestAt s r 1 → r.code = 16 → let die := dieOf r.ctx
    (getDie s die).entries.find? (fun e => e.rootReq == some r.id) = none → (getDie s die).reqs = d :: ds → d.kind = 4 → d.n = r.id →
    let s1 := { s with nextId := s.nextId + 1 }
    let e := runEntry r s.nextId
    exec .translatorRunStart s = .next (dropReq (if decideTask s1 die e 0 false = 0
      then (admitTask (putReq s1 { r with stage := 6 }) die e 0).1 else answer s r 2 (decideTask s1 die e 0 false)) die)) ∧
  (∀ (s : State) (r : HReq) (e : Entry) (c : Nat) (ms : List Nat), findReq s (argN s 0) = some r →
    (getDie s (dieOf r.ctx)).entries.find? (fun e => e.rootReq == some r.id) = some e → e.state = .pushing → e.members = c :: ms →
    isWhistled s e.part = false →
    ∃ t, exec .translatorRunStart s = .next t ∧ (let x := getCtx t c
      let v := vexidOf r.hdr
      x.mode = .running ∧ isRoot x = true ∧ getReg x 4 = 0x40000000 ∧ getReg x 5 = w64 v.plen ∧ getReg x 6 = 0x50000000 ∧
      getReg x 7 = w64 v.scrLen ∧ getReg x 8 = 0x44100001 ∧
      (∀ g : Reg, notPort g → g.val < 4 ∨ 8 < g.val → getReg x g = 0) ∧
      ∃ q, x.root = some q ∧ q.count = 0 ∧ q.limit = meterLimit r ∧ q.req = r.id ∧ q.out = [] ∧ q.prov = []) ∧
      t.mem = s.mem) ∧
  (∀ (s : State) (r : HReq), requestAt s r 5 → r.res.length = 8 →
    ∃ t q, exec .hcallReply s = .next t ∧ memRead t.mem (phys r.ctx (r.arg + 0x40)) 64 = r.res.flatMap (leBytes 8) ∧
      findReq t r.id = some q ∧ q.stage = 2 ∧ q.status = 1 ∧ q.result = r.res.getD 0 0)

/-- R247 to R251, R253, R409, R414, R420: apx.beg with APXCTL.EN clear does nothing; with EN set it opens a region for a true run,
or, where the core has weights and the run is not sampled, writes the surrogate's outputs and goes past the region; apx.end closes a
region and sends its observation; apx.inv invalidates; apx.q gives the newest region's word.
R249, R410, R409: the surrogate's outputs: with width 0 the sum of C and the products of the weights and the inputs, one rounding a
step; with hidden units those of the units, each the greater of its own sum and +0 as bf16; then to the precision of FVAL. An observation
holds what its apx.beg and apx.end read.
The model's readings and choices it rests on: log 68, 70, 73, 107, 139. -/
def Obligations.ApproximableRegions : Prop :=
  ((∀ (s : State) (v : VReg) (a b : Reg), notPort a → notPort b → ReadyCompute s 1 →
    apxOk (me s) v (wBits (val s a) 0 32) (val s b).toNat = true → wBits (me s).apxctl 0 1 = 0 →
    exec (.apxBeg v a b) s = .next (did s s.cur 1 4)) ∧
  (∀ (s : State) (v : VReg) (a b : Reg), notPort a → notPort b → ReadyCompute s 1 → beginsApx s v a b →
    (∀ e, ¬ apxHit s v b e) →
    ∃ t o, exec (.apxBeg v a b) s = .next t ∧ (me t).apx = some o ∧ o.addr = (me s).pc.toNat ∧ o.sampled = false ∧
      o.xs = apxIn s v b ∧ o.skip = bitsAt (val s b).toNat 13 12 ∧ o.vo = bitsAt (val s b).toNat 9 4 ∧ (me t).g = (me s).g ∧
      (me t).v = (me s).v ∧ (me t).charge = (me s).charge + 1 ∧ t.mem = s.mem) ∧
  (∀ (s : State) (v : VReg) (a b : Reg) (e : SurrEnt), notPort a → notPort b → beginsApx s v a b → apxHit s v b e →
    (e.c + 1) % 2 ^ 16 % 2 ^ wBits (me s).apxctl 1 5 ≠ 0 → ReadyCompute s (surrCharge e.net) →
    let d := (val s b).toNat
    let n := ceilDiv e.net.macs 16
    let vo : VReg := ⟨bitsAt d 9 4 % 16, Nat.mod_lt _ (by decide)⟩
    exec (.apxBeg v a b) s = .next (markUnv (modCtx (modCore s (coreOf s.cur) (fun k => { k with
      surr := { e with c := (e.c + 1) % 2 ^ 16 } :: k.surr.filter (fun f => f.key != e.key) })) s.cur (fun x =>
        retiredTo s.cur (surrCharge e.net) 4 (pc48 (((me s).pc.toNat + 4 * bitsAt d 13 12 + 4) % 2 ^ 48))
          { x with v := x.v.set vo (packLanes 32 (surrogateOut e.net e.fval e.params (apxIn s v b))),
                   ecnt := energyPlus x.ecnt (14 * n) })) s.cur)) ∧
  (∀ (s : State) (v : VReg) (a b : Reg), notPort a → notPort b → ReadyCompute s 1 →
    apxOk (me s) v (wBits (val s a) 0 32) (val s b).toNat = true → wBits (me s).apxctl 0 1 = 1 → (me s).run ≠ 0 →
    (∀ e, ¬ apxHit s v b e) → ∃ t, exec (.apxBeg v a b) s = .next t) ∧
  (∀ (s : State), ReadyCompute s 1 → (me s).apx = none → wBits (me s).apxctl 0 1 = 0 →
    exec .apxEnd s = .next (did s s.cur 1 4)) ∧
  (∀ (s : State) (r : ApxOpen), ReadyCompute s 1 → (me s).apx = some r → (me s).pc.toNat = (r.addr + 4 * r.skip) % 2 ^ 48 →
    let die := dieOf s.cur
    let ys := f32Lanes (me s) r.vo (r.nout + 1)
    ∃ t, exec .apxEnd s = .next t ∧ (me t).apx = none ∧ (me t).g = (me s).g ∧ (me t).v = (me s).v ∧ t.mem = s.mem ∧
      (getDie t die).obsWire = (getDie s die).obsWire ++ [obsOf s s.nextId r] ∧ (.observationArrival, EvArg.of [die]) ∈ t.agenda ∧
      (r.sampled = true → (∃ p ∈ r.held.zip ys, withinF r.thr p.1 p.2 = false) →
        (getDie t die).resets = (getDie s die).resets ++ [obsOf s s.nextId r] ∧
        (∀ e ∈ (getCore t (coreOf s.cur)).surr, e.key ≠ (obsOf s s.nextId r).key) ∧
        ∀ w ∈ (getDie t die).weights, ¬(w.1 = coreOf s.cur ∧ w.2.key = (obsOf s s.nextId r).key)) ∧
      (r.sampled = false ∨ (∀ p ∈ r.held.zip ys, withinF r.thr p.1 p.2 = true) → (getDie t die).resets = (getDie s die).resets ∧
        (getCore t (coreOf s.cur)).surr = (getCore s (coreOf s.cur)).surr)) ∧
  (∀ (s : State) (a : Reg) (p : Nat), notPort a → ReadyCompute s 1 → (val s a).toNat < 2 ^ 48 → partOf s s.cur = some p →
    let die := dieOf s.cur
    let hit (q addr : Nat) : Prop := q = p ∧ (val s a = 0 ∨ addr = (val s a).toNat)
    ∃ t, exec (.apxInv a) s = .next t ∧ (∀ r ∈ (getDie t die).regions, ¬ hit r.part r.addr) ∧
      (∀ r ∈ (getDie s die).regions, ¬ hit r.part r.addr → r ∈ (getDie t die).regions) ∧
      (∀ e ∈ (getCore t (coreOf s.cur)).surr, ¬ hit e.part e.addr) ∧ (me t).g = (me s).g ∧ t.mem = s.mem) ∧
  (∀ (s : State) (d a : Reg) (p : Nat), notPort d → notPort a → ReadyCompute s 1 → partOf s s.cur = some p →
    let mine := (getDie s (dieOf s.cur)).regions.filter (fun r => r.part == p && r.addr == (val s a).toNat % 2 ^ 48)
    (mine = [] → exec (.apxQ d a) s = .next (wrote s s.cur 1 4 d 0)) ∧
    (∀ r ∈ mine, (∀ q ∈ mine, q ≠ r → q.last < r.last) →
      exec (.apxQ d a) s = .next (wrote s s.cur 1 4 d (w64 (apxWord s (coreOf s.cur) r)))))) ∧
  ((∀ (n : Net) (fval : Nat) (ps xs : List Nat) (k : Nat), n.h = 0 → k < n.o → xs.length = n.i → n.count ≤ ps.length →
    ∃ y : Nat → Nat, y 0 = ps.getD (n.o * n.i + k) 0 ∧
      (∀ i, i < n.i → y (i + 1) = fmaF (ps.getD (k * n.i + i) 0) (bfF (xs.getD i 0)) (y i)) ∧
      (surrogateOut n fval ps xs).length = n.o ∧ (surrogateOut n fval ps xs).getD k 0 = toPrec fval (y n.i)) ∧
  (∀ (n : Net) (fval : Nat) (ps xs : List Nat) (k : Nat), 0 < n.h → k < n.o → xs.length = n.i → n.count ≤ ps.length →
    ∃ (u : Nat → Nat → Nat) (hb y : Nat → Nat), (∀ j, j < n.h → u j 0 = ps.getD (n.h * n.i + j) 0 ∧
        (∀ i, i < n.i → u j (i + 1) = fmaF (ps.getD (j * n.i + i) 0) (bfF (xs.getD i 0)) (u j i)) ∧
        (nanPat (u j n.i) = false → hb j = bfF (if posF (u j n.i) then u j n.i else 0))) ∧
      y 0 = ps.getD (n.h * n.i + n.h + n.o * n.h + k) 0 ∧
      (∀ j, j < n.h → y (j + 1) = fmaF (ps.getD (n.h * n.i + n.h + k * n.h + j) 0) (hb j) (y j)) ∧
      (surrogateOut n fval ps xs).length = n.o ∧ (surrogateOut n fval ps xs).getD k 0 = toPrec fval (y n.h)) ∧
  (∀ (s : State) (id p : Nat) (r : ApxOpen), partOf s s.cur = some p → let o := obsOf s id r
    o.id = id ∧ o.key = ⟨p, r.addr, r.nin, r.nout, r.fval⟩ ∧ o.freg = r.freg ∧ o.xs = r.xs ∧ o.thr = r.thr ∧ o.sampled = r.sampled ∧
    o.wid = wBits (me s).apxctl 6 2 ∧ o.lr = wBits (me s).apxctl 8 16 ∧ o.ys.length = r.nout + 1 ∧
    ∀ i, i < r.nout + 1 → o.ys.getD i 0 = lane ((me s).v.toList.getD (r.vo + i / 4) 0) 32 (i % 4)))

/-- R408, R409, R411 to R416, R420 to R422: what the Orrery of a die does: an observation arrives in a buffer of 256 and is taken in
order; the first of a key opens a region with its starting masters; a finished fit or step leaves the masters of R412 or R413 and
arms the region when every pair is within the threshold or after four good steps; weights arrive in a cache of four and removals take
them out; a reset brings an armed region back to its start.
The model's readings and choices it rests on: log 67, 68, 69, 70, 71. -/
def Obligations.OrreryEvents : Prop :=
  (∀ (s : State) (o : Obs) (rest : List Obs), (getDie s (argN s 0)).obsWire = o :: rest →
    ∃ t, exec .observationArrival s = .next t ∧ (getDie t (argN s 0)).obsWire = rest ∧
      (getDie t (argN s 0)).obsBuf = (if (getDie s (argN s 0)).obsBuf.length < 256 then (getDie s (argN s 0)).obsBuf ++ [o]
        else (getDie s (argN s 0)).obsBuf) ∧ t.mem = s.mem ∧ t.ctxs = s.ctxs) ∧
  (∀ (s : State) (o : Obs) (rest : List Obs), let die := argN s 0
    takes s o rest → findRegion s die o.key = none → (getDie s die).regions.length < 64 →
    (∀ r ∈ (getDie s die).regions, r.id < s.nextId) →
    ∃ t r, exec .observationTake s = .next t ∧ (getDie t die).obsBuf = rest ∧ (getDie t die).regions = (getDie s die).regions ++ [r] ∧
      r.id = s.nextId ∧ r.late = [] ∧ r.key = o.key ∧ r.state = 1 ∧ r.obs = 1 ∧ r.samp = 0 ∧ r.good = 0 ∧ r.wid = o.wid ∧ r.pairs = [(o.xs, o.ys)] ∧ r.fitting = 0 ∧
      r.masters = startMasters (netOf o.nin o.nout o.wid) ∧ r.lr = (if o.lr = 0 then 0x3C00 else o.lr)) ∧
  (∀ (s : State) (o : Obs) (rest : List Obs) (r : Region), let die := argN s 0
    takes s o rest → findRegion s die o.key = some r → (∀ q ∈ (getDie s die).regions, q.id = r.id → q = r) →
    (r.fitting ≠ 0 → ∃ t, exec .observationTake s = .next t ∧ (getDie t die).obsBuf = rest ∧
      findRegion t die o.key = some { r with late := r.late ++ [o] }) ∧
    (r.fitting = 0 →
      let ps := r.pairs ++ [(o.xs, o.ys)]
      let fit := if r.wid = 0 ∧ r.fitted = false then (if ps.length = 8 then 1 else 0) else if ps.length = 32 then 2 else 0
      ∃ t, exec .observationTake s = .next t ∧ (getDie t die).obsBuf = rest ∧
        findRegion t die o.key = some { r with
          obs := min 65535 (r.obs + 1), samp := if o.sampled = true ∧ r.state = 2 then min 65535 (r.samp + 1) else r.samp
          pairs := ps, fitting := fit, last := s.nextId })) ∧
  (∀ (s : State) (r : Region), regionAt s r → r.fitting = 1 → r.late = [] →
    let f := closedForm r.net r.pairs
    let arm := f.2 && decide (r.nin < 7) && r.pairs.all (pairWithin r.net r.fval r.thr (f.1.map bfF))
    ∃ t q, exec .closedFormFit s = .next t ∧ (getDie t (argN s 0)).regions.find? (fun r => r.id == argN s 1) = some q ∧
      q = { r with
        masters := f.1, pairs := [], fitting := 0, fitted := true, state := if arm then 2 else r.state
        samp := if arm ∧ r.state ≠ 2 then 0 else r.samp } ∧ t.mem = s.mem) ∧
  (∀ (s : State) (r : Region), regionAt s r → r.fitting = 2 → r.late = [] →
    let f := sgdStep r.net r.fval r.thr r.lr r.masters r.pairs
    let good := if f.2 then min 255 (r.good + 1) else 0
    ∃ t q, exec .sgdStep s = .next t ∧ (getDie t (argN s 0)).regions.find? (fun r => r.id == argN s 1) = some q ∧
      q = (if f.1.all finiteF then { r with
          masters := f.1, pairs := [], fitting := 0, good := good, state := if 4 ≤ good then 2 else r.state
          samp := if 4 ≤ good ∧ r.state ≠ 2 then 0 else r.samp }
        else { r with masters := startMasters r.net, pairs := [], fitting := 0, good := 0, state := 1 }) ∧ t.mem = s.mem) ∧
  (∀ (s : State) (e : SurrEnt), let core := argN s 0
    (getDie s (dieOfCore core)).weights.filter (fun w => w.1 == core) = [(core, e)] →
    ∃ t, exec .weightsArrival s = .next t ∧
      (getCore t core).surr = (e :: (getCore s core).surr.filter (fun f => f.key != e.key)).take 4 ∧
      (∀ w ∈ (getDie t (dieOfCore core)).weights, w.1 ≠ core) ∧ t.ctxs = s.ctxs) ∧
  (∀ (s : State) (e : SurrEnt), let core := argN s 0
    (core, e) ∈ (getDie s (dieOfCore core)).removals →
    ∃ t, exec .cacheRemoval s = .next t ∧ (∀ f ∈ (getCore t core).surr, ¬(f.key = e.key ∧ f.params = e.params)) ∧
      (∀ x ∈ (getDie t (dieOfCore core)).removals, x.1 ≠ core) ∧ t.ctxs = s.ctxs) ∧
  (∀ (s : State) (o : Obs) (rest : List Obs) (r : Region), let die := argN s 0
    (getDie s die).resets = o :: rest → (∀ p ∈ rest, p.id ≠ o.id) →
    (∀ p ∈ (getDie s die).obsBuf ++ (getDie s die).obsWire, p.key = o.key → o.id ≤ p.id) →
    findRegion s die o.key = some r → r.state = 2 → (∀ q ∈ (getDie s die).regions, q.id = r.id → q = r) →
    ∃ t q, exec .regionReset s = .next t ∧ (getDie t die).resets = rest ∧ findRegion t die o.key = some q ∧ q.state = 1 ∧
      q.masters = startMasters r.net ∧ q.good = 0 ∧ q.obs = 0 ∧ q.samp = 0 ∧ q.pairs = [] ∧ q.late = [] ∧ q.fitting = 0 ∧
      (∀ w ∈ (getDie t die).weights, w.2.key ≠ o.key))

/-- R450 to R455: a queue is created empty; SUBMIT and RELEASE take the value the host writes; a stopped queue goes on from SUBMIT; a
doorbell write that arrives while a migration has stopped the
partition, or once it has left, is kept and applied in order; a command whose SEQ and words are in order becomes a request to the Drover it names, and one that is not stops the queue; a completion
is written to the ring, its count last, once there is room.
R318, R335: a host write of one line through a queue becomes a write order of that queue's party at the line's channel.
The model's readings and choices it rests on: log 34, 86, 87, 88, 89, 93, 104. -/
def Obligations.LaunchQueues : Prop :=
  ((∀ (s : State) (c : QueueCfg) (p : PartSt), s.arg.queue = some c → getPart? s (argN s 0) = some p → argN s 1 < 64 →
    getQueue s (argN s 0) (argN s 1) = none → p.cfg.pids.any (fun q => q.1 == c.pid) = true → (∃ i, i < 13 ∧ c.entries = 2 ^ (i + 4)) →
    ∃ t, exec .launchQueueCreate s = .next t ∧
      getQueue t (argN s 0) (argN s 1) = some ⟨c, 0, 0, 0, 0, false, false, false, [], [], []⟩ ∧ t.mem = s.mem ∧ t.ctxs = s.ctxs) ∧
  (∀ (s : State) (x : LaunchQ), queueAt s x → migrating s (argN s 0) = true →
    (∃ t, exec .doorbellSubmit s = .next t ∧ bellKept s t x (0, argN s 2)) ∧
    (∃ t, exec .doorbellRelease s = .next t ∧ bellKept s t x (1, argN s 2)) ∧
    (∃ t, exec .resetDoorbell s = .next t ∧ bellKept s t x (2, 0))) ∧
  (∀ (s : State) (l : Leaving) (x : LaunchQ), getQueue s (argN s 0) (argN s 1) = none → l ∈ s.departed → l.part = argN s 0 →
    (argN s 0 * 64 + argN s 1, x) ∈ l.queues → ∃ t, exec .doorbellSubmit s = .next t ∧ ∃ k ∈ t.departed, k.part = argN s 0 ∧
      (argN s 0 * 64 + argN s 1, { x with bells := x.bells ++ [(0, argN s 2)] }) ∈ k.queues) ∧
  (∀ (s : State) (x : LaunchQ) (bs : List (Nat × Nat)) (v : Nat), queueAt s x → migrating s (argN s 0) = false → x.bells = bs ++ [(0, v)] →
    ∃ t y, exec .commandTake s = .next t ∧ getQueue t (argN s 0) (argN s 1) = some y ∧ y.bells = [] ∧ y.submit = v % 2 ^ 32) ∧
  (∀ (s : State) (x : LaunchQ), queueAt s x → migrating s (argN s 0) = false → x.bells = [] →
    (∃ t, exec .doorbellSubmit s = .next t ∧
      getQueue t (argN s 0) (argN s 1) = some { x with submit := argN s 2 % 2 ^ 32 } ∧
      (.commandTake, EvArg.of [argN s 0, argN s 1]) ∈ t.agenda ∧ t.mem = s.mem ∧ t.ctxs = s.ctxs) ∧
    (∃ t, exec .doorbellRelease s = .next t ∧
      getQueue t (argN s 0) (argN s 1) = some { x with release := argN s 2 % 2 ^ 32 } ∧
      (.completionWrite, EvArg.of [argN s 0, argN s 1]) ∈ t.agenda ∧ t.mem = s.mem ∧ t.ctxs = s.ctxs) ∧
    (∃ t, exec .resetDoorbell s = .next t ∧
      getQueue t (argN s 0) (argN s 1) = some { x with stopped := false, accepted := x.submit } ∧
      (.commandTake, EvArg.of [argN s 0, argN s 1]) ∈ t.agenda ∧ t.mem = s.mem ∧ t.ctxs = s.ctxs)) ∧
  (∀ (s s1 : State) (x : LaunchQ) (n : Nat) (cmd : List Byte), queueAt s x → takesCommands x n → 0 < n → n ≤ x.cfg.entries →
    ringRead s (argN s 0) x x.cfg.cmdBase (x.accepted % x.cfg.entries * 256) 256 = .ok (s1, cmd) →
    migrating s (argN s 0) = false → fieldOf cmd 4 4 = x.accepted → commandOk cmd = true → let die := fieldOf cmd 1 1 % 8
    ∃ t r, exec .commandTake s = .next t ∧ (getDie t die).reqs = (getDie s1 die).reqs ++ [r] ∧ r.kind = 3 ∧ r.part = argN s 0 ∧
      r.pid = x.cfg.pid ∧ r.launch = some ⟨argN s 0, argN s 1, x.accepted, fieldOf cmd 8 8⟩ ∧ r.n = fieldOf cmd 0 1 ∧
      r.words.head? = some (fieldOf cmd 16 8) ∧
      (∃ y, getQueue t (argN s 0) (argN s 1) = some y ∧ y.accepted = (x.accepted + 1) % 2 ^ 32) ∧ t.ctxs = s1.ctxs ∧ t.mem = s1.mem) ∧
  (∀ (s s1 : State) (x : LaunchQ) (n : Nat) (cmd : List Byte), queueAt s x → takesCommands x n → 0 < n → n ≤ x.cfg.entries →
    ringRead s (argN s 0) x x.cfg.cmdBase (x.accepted % x.cfg.entries * 256) 256 = .ok (s1, cmd) →
    migrating s (argN s 0) = false → fieldOf cmd 4 4 ≠ x.accepted ∨ commandOk cmd = false →
    ∃ t y, exec .commandTake s = .next t ∧ getQueue t (argN s 0) (argN s 1) = some y ∧ y.stopped = true ∧ y.accepted = x.accepted ∧
      y.pending = x.pending ++ [(fieldOf cmd 4 4, 0, 0, 0x8013, 0)] ∧ (.completionWrite, EvArg.of [argN s 0, argN s 1]) ∈ t.agenda) ∧
  (∀ (s : State) (x : LaunchQ) (seq utag tag status ecnt : Nat) (rest : List (Nat × Nat × Nat × Nat × Nat)), queueAt s x →
    x.pending = (seq, utag, tag, status, ecnt) :: rest → x.cfg.host = true → migrating s (argN s 0) = false →
    ctrDiff x.completed x.release ≠ x.cfg.entries →
    let a := farAddr (x.cfg.compBase + x.completed % x.cfg.entries * 32) true
    ∃ t y, exec .completionWrite s = .next t ∧ memRead t.mem a 8 = leBytes 8 (seq % 2 ^ 32 * 2 ^ 32 + x.completed) ∧
      memRead t.mem (a + 8) 24 = leBytes 8 utag ++
        leBytes 8 (tag % 2 ^ 32 * 2 ^ 32 + if x.badRing = true then 0x8011 else status) ++ leBytes 8 (min (2 ^ 48 - 1) ecnt) ∧
      (∀ b, b < a ∨ a + 32 ≤ b → memGet t.mem b = memGet s.mem b) ∧ getQueue t (argN s 0) (argN s 1) = some y ∧ y.pending = rest ∧
      y.completed = (x.completed + 1) % 2 ^ 32 ∧ t.ctxs = s.ctxs)) ∧
  (∀ (s s1 : State) (x : LaunchQ) (pa : Nat) (host : Bool), queueAt s x → x.torn = false → s.arg.bytes ≠ [] →
    argN s 2 % 64 + s.arg.bytes.length ≤ 64 →
    translate { s with nextId := s.nextId + 1 } (homeOf s (argN s 0)) (argN s 0) x.cfg.pid (argN s 2) .write = .ok (s1, pa, host) →
    let ch := lineChan (homeOf s (argN s 0)) pa host
    ∃ t o, exec .hostWrite s = .next t ∧ (getChan t ch).orders = (getChan s1 ch).orders ++ [o] ∧ o.party = .host (argN s 0) (argN s 1) ∧
      o.kind = .write ∧ o.pa = pa / 64 * 64 ∧ o.off = argN s 2 % 64 ∧ o.data = s.arg.bytes ∧ o.host = host ∧ o.stage = 0 ∧ o.rid = s.nextId ∧
      o.core = argN s 3 ∧ o.near = argN s 4 ∧
      (.orderAtHead, EvArg.of [ch, o.id]) ∈ t.agenda ∧ t.mem = s1.mem ∧ t.ctxs = s1.ctxs)

/-- R456 to R458: a flit carries 252 bytes and their CRC; one with a good CRC is delivered in its order, one without is counted for that flit,
and at the 17th failing transmission of one flit its link retires and what waits for acknowledgement moves to the first link that remains to
the same package (log 95); a contribution lands once for its key and answers its sender, one to another package when every flit has been
acknowledged; an epoch of which a member is still waited for expires, for every partition of the package.
The model's readings and choices it rests on: log 10, 77, 89, 94, 95, 120. -/
def Obligations.SpanLinks : Prop :=
  (∀ (s : State), let n := argN s 0
    let k := getLink s n
    let f := s.arg.bytes
    let bad := (k.fails.get? (argN s 2)).getD 0
    n < 24 → k.retired = false → argN s 1 = 0 → f.length = 256 →
    ∃ t, exec .flitReceive s = .next t ∧ t.mem = s.mem ∧ t.ctxs = s.ctxs ∧
      (crc32 (f.take 252) = leNat (f.drop 252) → getLink t n = (if argN s 2 = k.delivered.length
        then { k with delivered := k.delivered ++ [f], fails := k.fails.filter (fun q => q.1 != argN s 2) } else k)) ∧
      (crc32 (f.take 252) ≠ leNat (f.drop 252) → bad < 16 → (let j := getLink t n
        j.fails.get? (argN s 2) = some (bad + 1) ∧ (∀ i, i ≠ argN s 2 → j.fails.get? i = k.fails.get? i) ∧
        j.delivered = k.delivered ∧ j.retired = false ∧ j.replay = k.replay)) ∧
      (crc32 (f.take 252) ≠ leNat (f.drop 252) → 16 ≤ bad → linkGone s t n k)) ∧
  (∀ (s : State) (f : Flit) (rest : List Flit), let n := argN s 0
    let k := getLink s n
    n < 24 → k.retired = false → argN s 1 = 1 → k.replay = f :: rest →
    ∃ t, exec .flitReceive s = .next t ∧ getLink t n = { k with replay := rest } ∧
      t.sends = s.sends.map (fun x => if x.id = f.send then { x with unacked := x.unacked - 1 } else x) ∧ t.mem = s.mem ∧ t.ctxs = s.ctxs) ∧
  (∀ (s : State) (f : Flit), let n := argN s 0
    let k := getLink s n
    n < 24 → k.retired = false → argN s 1 = 2 → k.replay[argN s 2]? = some f →
    (f.fails < 16 → exec .flitReceive s = .next (putLink s n { k with replay := k.replay.set (argN s 2) { f with fails := f.fails + 1 } })) ∧
    (16 ≤ f.fails → ∃ t, exec .flitReceive s = .next t ∧ linkGone s t n k)) ∧
  (∀ (s : State) (x : SpanSend), let n := argN s 0
    let k := getLink s n
    n < 24 → k.retired = false → argN s 1 = 3 → s.sends.find? (fun x => x.id == argN s 2) = some x → Config.linkPeer n = x.peer →
    flitsOut s x.id < x.unacked → exec .flitReceive s = .next (putLink s n { k with replay := k.replay ++
      [⟨x.id, flitBytes x.data (ceilDiv x.data.length 252 - x.unacked + flitsOut s x.id), 0⟩] })) ∧
  (∀ (data : List Byte) (i : Nat), (flitBytes data i).length = 256 ∧
    (∀ j, j < 252 → (flitBytes data i).getD j 0 = data.getD (252 * i + j) 0) ∧
    leNat ((flitBytes data i).drop 252) = crc32 ((flitBytes data i).take 252)) ∧
  (∀ (s : State) (x : SpanSend) (p : PartSt) (r : HReq), s.sends.find? (fun x => x.id == argN s 0) = some x → argN s 1 ≠ 0 →
    let part := argN s 1 - 1
    x.peer = Config.packageId → getPart? s part = some p → p.expired.contains (x.cid, x.epoch) = false →
    findReq s x.req = some r → r.stage = 1 →
    ∃ t, exec .contributionLand s = .next t ∧ (∀ y ∈ t.sends, y.id ≠ x.id) ∧
      (if p.landed.any (fun d => d.key == (x.cid, x.epoch, x.member)) = true
       then hvAnswered t r 2 0 ∧ t.mem = s.mem ∧ getPart? t part = some p
       else hvAnswered t r 1 0 ∧ getPart? t part = some { p with landed := p.landed ++
         [⟨x.cid, x.epoch, x.member, x.data.length, argN s 2, x.data, (getDie s (homeOf s part)).counter⟩] })) ∧
  (∀ (s : State) (x : SpanSend) (r : HReq), s.sends.find? (fun x => x.id == argN s 0) = some x → x.peer ≠ Config.packageId →
    (x.unacked ≠ 0 → exec .contributionLand s = .next s) ∧
    (x.unacked = 0 → argN s 3 < 2 → findReq s x.req = some r → r.stage = 1 →
      ∃ t, exec .contributionLand s = .next t ∧ (∀ y ∈ t.sends, y.id ≠ x.id) ∧ hvAnswered t r (argN s 3 + 1) 0 ∧
        t.mem = s.mem ∧ t.parts = s.parts)) ∧
  (∀ (s : State) (p : PartSt), let part := argN s 0
    let cid := argN s 1
    let epoch := argN s 2
    let due := if argN s 3 = 0 then epochOver s part cid epoch p = true ∧ memberMissing s cid epoch = true
      else Config.epochExpiry ≤ argN s 4
    getPart? s part = some p →
    (p.expired.contains (cid, epoch) = true ∨ ¬ due → exec .collectiveExpiry s = .next s) ∧
    (p.expired.contains (cid, epoch) = false → due →
      ∃ t, exec .collectiveExpiry s = .next t ∧ t.mem = s.mem ∧ t.ctxs = s.ctxs ∧
        (∀ n q, getPart? s n = some q → ∃ h, getPart? t n = some h ∧ (cid, epoch) ∈ h.expired ∧
          ∀ c ∈ h.landed, ¬(c.cid = cid ∧ c.epoch = epoch)) ∧
        (∀ x ∈ t.sends, ¬(x.cid = cid ∧ x.epoch = epoch)) ∧
        ∀ r, findReq s r.id = some r → onEpoch cid epoch r = true → hvAnswered t r 0x8012 0)) ∧
  (∀ (s : State) (cid epoch : Nat) (r : HReq), r ∈ s.hreqs → onEpoch cid epoch r = true → r.code = 32 → memberMissing s cid epoch = true) ∧
  (∀ (s : State) (part cid epoch : Nat) (p : PartSt), epochOver s part cid epoch p = true ↔
    ∃ first, firstLanding p cid epoch = some first ∧ first + Config.epochExpiry ≤ (getDie s (homeOf s part)).counter)

/-- R239, R399, R441 to R443, R446 to R450: a partition is created with its clusters and tables; a supervisor whose image is in order and
verifies starts on its home core in supervisor mode; a page-in makes a cold task placeable again; a pre-copy round clears the bitmaps it
has read and the last one stops the partition; a released partition keeps nothing, and neither does one that a migration takes to
another package.
R459, R460: at power-on every SRAM and HBM byte is zero and every register is at reset, and an image that verifies starts the
hypervisor; else the part is in recovery, where a new image may start it. An island wakes, and is gated when nothing keeps it on; its
static share of energy goes to the contexts with a task.
The model's readings and choices it rests on: log 1, 8, 65, 90, 91, 92, 93, 97, 104. -/
def Obligations.Partitions : Prop :=
  ((∀ (s : State) (c : PartCfg), s.arg.part = some c → creatable s (argN s 0) c →
    ∃ t p, exec .partitionCreate s = .next t ∧ getPart? t (argN s 0) = some p ∧ p.cfg = c ∧ p.svec = 0 ∧ p.dbgctl = 0 ∧ p.loaders = [] ∧
      p.thresh = 0 ∧ p.conf = false ∧ p.frac = 0 ∧ p.whistled = false ∧
      (∀ k ∈ c.clusters, (getCluster t k).part = some (argN s 0) ∧ (getCluster t k).perm = permTable c.clusters) ∧
      (∀ k, k ∉ c.clusters → getCluster t k = getCluster s k) ∧
      (∀ k ∈ c.clusters, ∀ core ∈ coresOf k, ∀ i, i < 0x30000 → let a := wstackBase core + i
        a < argN s 1 ∨ argN s 1 + s.arg.bytes.length ≤ a → memGet t.mem a = 0) ∧
      memRead t.mem (argN s 1) s.arg.bytes.length = s.arg.bytes ∧ t.ctxs = s.ctxs) ∧
  (∀ (s : State) (p : PartSt), let part := argN s 0
    let core := argN s 1
    let img := s.arg.bytes
    let c := core * 4
    getPart? s part = some p → p.cfg.clusters.contains (clusterOfCore core) = true →
    p.cfg.pids.any (fun q => q.1 == argN s 2) = true → (getCtx s c).mode = .free →
    (imageOk 0x4B535652 p.cfg.ownerKey img = true →
      mappedCode (writeEntries s part (s.arg.ns.drop 6)) part (argN s 2) (argN s 3) (fieldOf img 4 4) = true →
      ∃ t q, exec .supervisorStart s = .next t ∧ (let x := getCtx t c
        x.mode = .running ∧ privOf x = 1 ∧ x.pid = BitVec.ofNat 16 (argN s 2) ∧ x.pc = pc48 (argN s 3 + fieldOf img 8 4) ∧
        x.g = Ctx.reset.g ∧ x.charge = 0 ∧ x.lwin = w64 (argN s 4) ∧ x.budget = w64 (argN s 5)) ∧
        (getCluster t (clusterOfCore core)).gated = false ∧ getPart? t part = some q ∧ q.supImage = img ∧ q.supPid = argN s 2) ∧
    (imageOk 0x4B535652 p.cfg.ownerKey img = false →
      exec .supervisorStart s = .next { s with reports := s.reports ++ [.imageFailed part] })) ∧
  (∀ (s : State) (e : Entry), entByTag s (argN s 0) (argN s 1) = some e → e.paged = true → e.pageAsked = true → argN s 2 ≠ 0 →
    slotsOk s e (argN s 0) = true →
    ∃ t f, exec .pageIn s = .next t ∧ entByTag t (argN s 0) (argN s 1) = some f ∧ f = { e with
        saved := (e.saved.zip (slotsOf s e.part (argN s 0) e.tag)).map (fun q => pageBack q.1 (slotSave q.2))
        paged := false, pageAsked := false } ∧ t.mem = s.mem ∧ slotsOf t e.part (argN s 0) e.tag = [] ∧
      t.ctxs = s.ctxs ∧ (e.state = .saved → (.taskPlacement, EvArg.of [argN s 0, argN s 1]) ∈ t.agenda)) ∧
  (∀ (s : State) (p : PartSt), let part := argN s 0
    getPart? s part = some p → p.whistled = false →
    ∃ t q, exec .migrationPrecopyRound s = .next t ∧ dirtyUnits t part = [] ∧ getPart? t part = some q ∧ t.mem = s.mem ∧
      (if p.migRound = 0 then q.migRound = 1 ∧ q.whistled = false ∧ q.migImage = copyPages s.mem [] (mappedRanges s.mem p.cfg)
       else if (dirtyUnits s part).length ≤ 4 ∨ 8 ≤ p.migRound then q.whistled = true ∧ q.migDirty = dirtyUnits s part
       else q.migRound = p.migRound + 1 ∧ q.whistled = false ∧ q.migDirty = dirtyUnits s part ∧
         q.migImage = copyPages s.mem p.migImage ((dirtyUnits s part).map unitRange))) ∧
  (∀ (s : State) (p : PartSt), let part := argN s 0
    getPart? s part = some p → (exec .partitionRelease s = .next (releasePart s part) ∧
    (s.arg.leaving = none → readyToMove s part p = true → (∀ c ∈ liveCtxs s part, poisonedSave s c = none) → s.arg.ns.drop 1 = [] →
      ∃ t l, exec .migrationRelease s = .next t ∧ (∀ q ∈ t.parts, q.1 ≠ part) ∧ t.departed = s.departed ++ [l] ∧ l.part = part ∧
        l.ranges.map (fun r => (r.base, r.len)) = ((sortNat p.cfg.clusters).flatMap (clusterStore s)) ++
          (p.cfg.whistle, 64 * 65536) :: mappedRanges (copyPages s.mem p.migImage
            ((p.cfg.whistle, 64 * 65536) :: (p.migDirty ++ dirtyUnits s part).map unitRange)) p.cfg ∧
        l.queues = s.queues.filter (fun q => q.1 / 64 == part)) ∧
    (s.arg.leaving = none → readyToMove s part p = true → (∀ c ∈ liveCtxs s part, poisonedSave s c = none) → s.arg.ns.drop 1 ≠ [] →
      movesOk (depart s part p false).2 (depart s part p false).1 (s.arg.ns.drop 1) = true →
      ∃ t q, exec .migrationRelease s = .next t ∧ getPart? t part = some q ∧ q.cfg.clusters = s.arg.ns.drop 1 ∧ q.whistled = false ∧
        q.migRound = 0 ∧ q.cfg.pids = p.cfg.pids))) ∧
  (∀ (s : State) (part : Nat) (p : PartSt), getPart? s part = some p →
    let t := releasePart s part
    (∀ q ∈ t.parts, q.1 ≠ part) ∧ (∀ r ∈ t.hreqs, r.part ≠ part) ∧ (∀ q ∈ t.queues, q.1 / 64 ≠ part) ∧ (∀ x ∈ t.sends, x.part ≠ part) ∧
      (∀ c ∈ t.chans, ∀ o ∈ c.2.orders, o.part ≠ part) ∧
      (∀ k ∈ p.cfg.clusters, (getCluster t k).part = none ∧ (getCluster t k).objs = [] ∧
        ∀ core ∈ coresOf k, coreEmpty t core ∧ (getCore t core).mat = [] ∧ (getCore t core).vec = []) ∧
      (∀ d, (∀ e ∈ (getDie t d).entries, e.part ≠ part) ∧ ∀ r ∈ (getDie t d).regions, r.part ≠ part))) ∧
  ((∀ (s : State), ∃ t, exec .powerOn s = .next t ∧ (∀ a, a < hostBase → memGet t.mem a = 0) ∧
    (∀ a, hostBase ≤ a → memGet t.mem a = memGet s.mem a) ∧ t.ctxs = [] ∧ t.cores = [] ∧ t.clusters = [] ∧ t.dies = [] ∧ t.chans = [] ∧
    t.parts = [] ∧ t.queues = [] ∧ t.hreqs = [] ∧ t.poison = [] ∧ t.marks = [] ∧ t.sends = [] ∧ t.links = [] ∧
    t.departed = [] ∧
    (if s.arg.bytes = [] then t.power = .recovery 2
     else if imageOk 0x4B485950 Config.korserKey s.arg.bytes = true then t.power = .running ∧ t.hvImage = s.arg.bytes
     else t.power = .recovery 3)) ∧
  (∀ (s : State) (k : Nat), s.power = .recovery k → s.arg.bytes ≠ [] →
    exec .recoveryBootImage s = .next (if imageOk 0x4B485950 Config.korserKey s.arg.bytes = true
      then { s with power := .running, hvImage := s.arg.bytes } else { s with power := .recovery 3 })) ∧
  (∀ (s : State), (∀ k, s.power ≠ .recovery k) → exec .recoveryBootImage s = .next s) ∧
  (∀ (s : State), ∃ t, exec .islandWake s = .next t ∧ (∀ k ∈ islandClusters (argN s 0) (argN s 1), (getCluster t k).gated = false) ∧
    (∀ k, k ∉ islandClusters (argN s 0) (argN s 1) → getCluster t k = getCluster s k) ∧ t.mem = s.mem ∧ t.ctxs = s.ctxs) ∧
  (∀ (s : State), (islandIdle s (argN s 0) (argN s 1) = true →
      ∃ t, exec .islandGate s = .next t ∧ (∀ k ∈ islandClusters (argN s 0) (argN s 1), (getCluster t k).gated = true) ∧
        (∀ k, k ∉ islandClusters (argN s 0) (argN s 1) → getCluster t k = getCluster s k) ∧ t.mem = s.mem ∧ t.ctxs = s.ctxs) ∧
    (islandIdle s (argN s 0) (argN s 1) = false → exec .islandGate s = .next s)) ∧
  (∀ (s : State), let cs := (islandCtxs (argN s 0) (argN s 1)).filter (fun c => (getCtx s c).mode != .free)
    (getCluster s (argN s 0 * 256 + 2 * argN s 1)).gated = false → argN s 1 < 128 → argN s 0 < 8 →
    ∃ t, exec .ecntStaticShare s = .next t ∧ (∀ c ∈ cs, (getCtx t c).ecnt = energyPlus (getCtx s c).ecnt (480000 / cs.length) ∧
      (getCtx t c).g = (getCtx s c).g ∧ (getCtx t c).pc = (getCtx s c).pc) ∧ (∀ c, c ∉ cs → getCtx t c = getCtx s c) ∧ t.mem = s.mem))

/-- R67 to R86, R91: the words of R91's table, each written field by field from its encoding, decode to the instructions they stand
for, and its rejected words are rejected with the reasons that it gives; and words of other families likewise. -/
def Obligations.DecodedWords : Prop :=
  -- ld.w g5, [g2+16]; st.d g12, [g3-8]: form E, d, base, SIZE, off13
  decodeTableWord 32 0b010100_00101_00010_001_0000000000100 = some (.ld 5 2 .ws 4) ∧
  decodeTableWord 32 0b010101_01100_00011_000_1111111111111 = some (.st 12 3 .d 0x1FFF) ∧
  -- add.sats and add.satu g20, g4, g5: form A, d, a, b, SAT, WIDTH, a zero bit, OP; SAT 3 is reserved
  decodeTableWord 32 0b000001_10100_00100_00101_01_00_0_000000 = some (.add 20 4 5 .sats .d) ∧
  decodeTableWord 32 0b000001_10100_00100_00101_10_00_0_000000 = some (.add 20 4 5 .satu .d) ∧
  decodeWord 0b000001_10100_00100_00101_11_00_0_000000 false = .error 5 ∧
  -- ldk g7, 0x0001, 1: form B, d, three zero bits and the chunk, imm16
  decodeTableWord 32 0b000111_00111_000_01_0000000000000001 = some (.ldk 7 1 1) ∧
  -- ld.b.z.cluster g7, [g9+3]: form A, d, a, b, SIZE, SCOPE, ORDER, KIND
  decodeTableWord 32 0b011000_00111_01001_00011_111_001_00_000 = some (.ldScoped 7 9 3 .bz .cluster .plain) ∧
  -- addi g20, g9, 40: form B; then ld.b.z.cluster g7, [g20+0]
  decodeTableWord 32 0b000010_10100_01001_0000000000101000 = some (.addi 20 9 40) ∧
  decodeTableWord 32 0b011000_00111_10100_00000_111_001_00_000 = some (.ldScoped 7 20 0 .bz .cluster .plain) ∧
  -- bne g5, g0, -3 words: form C, a, b, disp16
  decodeTableWord 32 0b001011_00101_00000_1111111111111101 = some (.bne 5 0 0xFFFD) ∧
  -- loop 0, g9, 4: form J, level, count, len, zeros
  decodeTableWord 32 0b010011_00_01001_000000000011_0000000 = some (.loop 0 9 3) ∧
  -- cpy.go 0, g9, t2: form F, engine, op, a, b, token, mod
  decodeTableWord 32 0b100110_10_00000_01001_00000_010_000000 = some (.cpyGo 9 2 0) ∧
  -- fmtp fmt3, fmt3, fmt1, own: form H, fmt-A, fmt-B, fmt-out, rounding, zeros
  decodeTableWord 32 0b100101_011_011_001_101_00000000000000 = some (.fmtp 3 3 1 .dyn) ∧
  -- nop, an ori
  decodeTableWord 32 0b000100_00000_00000_0000000000000000 = some (.ori 0 0 0) ∧
  -- ld.v v3, [g8+32]: form E with a SIMD register and an offset in units of 16 bytes
  decodeTableWord 32 0b010110_00011_01000_000_0000000000010 = some (.ldV 3 8 2) ∧
  -- amo.add.w.cluster g5, [g6], g7
  decodeTableWord 32 0b010111_00101_00110_00111_00010010000 = some (.amoAdd 5 6 7 true .cluster .plain) ∧
  -- bar.arr g20, g8; ppoll g20, 1; halt
  decodeTableWord 32 0b011001_10100_01000_0000000000000001 = some (.barArr 20 8) ∧
  decodeTableWord 32 0b011010_10100_00000_0000000000000010 = some (.ppoll 20 1) ∧
  decodeTableWord 32 0b101000_00000_00000_0000000000000001 = some (.halt 0) ∧
  -- k.add g1, g2, g3 in root mode; with its b field raised to 17; a word of the root set's neighbour majors
  decodeWord 0b110000_00001_00010_00011_00000000000 true = .ok (.kAdd 1 2 3) ∧
  (∀ root : Bool, decodeWord 0b110000_00001_00010_10001_00000000000 root = .error 6) ∧
  decodeWord 0b001001_00000000000000000000000000 false = .error 2 ∧
  (∀ root : Bool, decodeWord 0 root = .error 1 ∧ decodeWord 0b111111_00000000000000000000000000 root = .error 1)

/-- R67 to R85: for every well-formed instruction decoding its encoding gives it back, with every operand at every value that the
encoding admits, also in root mode where its major executes there.
The model's readings and choices it rests on: log 32, 108. -/
def Obligations.EncodingsRoundTrip : Prop := ∀ (i : Instr) (w : BitVec 32), wellFormed i = true → encode i = some w →
  decodeTableWord 32 w.toNat = some i ∧ (48 ≤ w.toNat / 2 ^ 26 → decodeWord w.toNat true = .ok i)

/-- R67 to R86: a word has one meaning: a word that decodes to an instruction is that instruction's encoding, every bit of it, and the
instruction is well-formed; the hcalls whose number R269 reserves are one constructor and keep no more than that.
The model's readings and choices it rests on: log 32, 108. -/
def Obligations.WordsHaveOneMeaning : Prop := ∀ (i : Instr) (w : Nat), w < 2 ^ 32 → decodeWord w false = .ok i → i ≠ .hcall →
  wellFormed i = true ∧ encode i = some (BitVec.ofNat 32 w)

/-- R67, R86, R88, R296, R336: a step runs the instruction at the pc of the context whose turn it is: the
contexts of a core in the order of their deadlines until one does not wait, no further than a context that was named; an event that has its turn happens.
The model's readings and choices it rests on: log 4, 5, 34. -/
def Obligations.StepRunsTheInstruction : Prop :=
  (∀ (s s1 : State) (c w : Nat) (ts : List Turn) (i : Instr), s.sched = .ctx c :: ts → canIssue (getCtx s c) = true →
    (issueOrder s (groupOf c)).head? = some c →
    fetchWord { s with sched := ts, cur := c } c (getCtx s c).pc.toNat = .ok (s1, w) →
    decodeWord w (isRoot (getCtx s c)) = .ok i → step s = exec i s1) ∧
  (∀ (s s1 u : State) (d c w : Nat) (cs ds : List Nat) (ts : List Turn) (i : Instr), s.sched = .ctx d :: ts →
    canIssue (getCtx s d) = true → issueOrder s (groupOf d) = c :: cs ++ d :: ds → d ∉ c :: cs →
    fetchWord { s with sched := ts, cur := c } c (getCtx s c).pc.toNat = .ok (s1, w) →
    decodeWord w (isRoot (getCtx s c)) = .ok i → exec i s1 = .next u →
    step s = (if (getCtx u c).waiting then coreTurn (cs ++ [d]) u else .next u)) ∧
  (∀ (s s1 u : State) (g c w : Nat) (cs : List Nat) (ts : List Turn) (i : Instr), s.sched = .core g :: ts →
    issueOrder s g = c :: cs → fetchWord { s with sched := ts, cur := c } c (getCtx s c).pc.toNat = .ok (s1, w) →
    decodeWord w (isRoot (getCtx s c)) = .ok i → exec i s1 = .next u →
    step s = (if (getCtx u c).waiting then coreTurn cs u else .next u)) ∧
  (∀ (s : State) (i : Instr) (a : EvArg) (ts : List Turn), s.sched = .event i a :: ts → isEvent i = true →
    step s = exec i { s with sched := ts, arg := a }) ∧
  (∀ (s : State) (i : Instr) (a : EvArg) (rest : List (Instr × EvArg)), s.sched = [] → s.phase = 1 → s.agenda = (i, a) :: rest →
    isEvent i = true → step s = exec i { s with phase := 2, agenda := rest, arg := a }) ∧
  (∀ (s : State) (c : Nat), (canIssue (getCtx s c) = true ↔ ((getCtx s c).mode = .running ∨ (getCtx s c).mode = .stopping) ∧
    (getCtx s c).follower = false ∧ ∀ v, (getCtx s c).serving = some v → v.retired < programLimit v ∧ v.fault = none))

/-- R86 to R89, R363: the part never stops: every step gives a next state; what fails a check takes a trap or is recorded.
The model's readings and choices it rests on: log 4, 105. -/
def Obligations.EveryStepCompletes : Prop := ∀ (s : State), ∃ t, step s = .next t

/-- The model's own form of memory, which every step keeps: addresses strictly rising and no byte listed that an unlisted one reads as.
The model's readings and choices it rests on: log 104. -/
def Obligations.MemoryStaysCanonical : Prop :=
  ∀ (s t : State), Memory.wf s.mem = true → step s = .next t → Memory.wf t.mem = true

/-- R29, R239: no instruction of a context in task mode, and of its flock in task mode, changes the SVEC or DBGCTL of a partition. -/
def Obligations.TaskModeKeepsSupervisorRegisters : Prop :=
  ∀ (s t : State) (i : Instr) (p : Nat) (q : PartSt), isEvent i = false →
    (∀ m ∈ s.cur :: flockOf s s.cur, privOf (getCtx s m) = 0) → getPart? s p = some q → exec i s = .next t →
    ∃ q2, getPart? t p = some q2 ∧ q2.svec = q.svec ∧ q2.dbgctl = q.dbgctl ∧ q2.cfg = q.cfg

/-- R460: the part before power-on holds nothing; R13, R23, R28, R30, R31, R36: what a context holds when a task starts on it.
The model's readings and choices it rests on: log 1, 2, 104. -/
def Obligations.ResetAndTaskStart : Prop :=
  (Memory.wf State.reset.mem = true ∧ (∀ a, memGet State.reset.mem a = 0) ∧ State.reset.power = .off ∧ State.reset.parts = [] ∧
    State.reset.queues = [] ∧ State.reset.hreqs = [] ∧ State.reset.marks = [] ∧ State.reset.links = [] ∧ State.reset.agenda = [] ∧
    (∀ c, getCtx State.reset c = Ctx.reset) ∧ (∀ d, (getDie State.reset d).counter = 0) ∧
    (∀ d, (getDie State.reset d).entries = []) ∧ (∀ c, (getCluster State.reset c).part = none)) ∧
  (∀ (c w : Nat) (e : Entry) (m : RunMode) (old : Ctx), w ≤ 1 → let x := startCtx c e 0 w m old
    (∀ r : Reg, notPort r → r ≠ 2 → r ≠ 4 → r ≠ 5 → r ≠ 6 → getReg x r = 0) ∧ getReg x 2 = w64 e.g2 ∧ getReg x 4 = w64 e.g4 ∧
    getReg x 5 = w64 e.g5 ∧ getReg x 6 = w64 e.tag ∧ (∀ k : Fin 16, x.v[k] = 0) ∧ (∀ k : Fin 4, accWords x.acc[k] = List.replicate 256 0) ∧
    (∀ k : Fin 8, x.tok[k] = ⟨0, 0, 0, none⟩) ∧
    x.fmt = #v[0x03000000, 0x02000000, 0x01000000, 0x00507480, 0x0040F580, 0x00601240, 0x00603360, 0x00601260] ∧
    (∀ k : Fin 4, x.amx[k] = 0) ∧ (∀ k : Fin 16, x.shp[k].ndim = 0) ∧ (∀ k : Fin 4, x.ls[k] = 0 ∧ x.le[k] = 0 ∧ x.lc[k] = 0) ∧
    x.pc = pc48 e.code ∧ x.st = 0 ∧ x.tvec = 0 ∧ x.tframe = 0 ∧ x.tag = BitVec.ofNat 32 e.tag ∧ x.pid = BitVec.ofNat 16 e.pid ∧
    x.budget = w64 e.budget ∧ x.charge = 0 ∧ x.ecnt = 0 ∧ x.hintgap = 16384 ∧ x.pfx = 0 ∧ (∀ k : Fin 4, x.pbind[k] = 0) ∧
    x.lfsr = (if e.tag % 2 ^ 32 = 0 then 1 else BitVec.ofNat 32 e.tag))

/-- R48, R147, R163, R168, R176: the arithmetic behind every float instruction is exact before its one rounding: a sum, difference,
product or fused product of finite numbers is that number, rounded into the result's format; a quotient, a root, a reciprocal or a
reciprocal root in a fixed format is the nearest number, or the next on the side that the rounding names, with NX where it differs; a
minimum or maximum is the lesser or the greater; fcmp tells the order; cvt takes an integer exactly, and rounds to an integer within the
range.
The model's readings and choices it rests on: log 39. -/
def Obligations.ArithmeticIsExact : Prop :=
  (∀ (f : Fmt) (rnd : Nat) (rs : RS) (a b d : FVal), finiteV a = true → finiteV b = true → finiteV d = true →
    (∃ v, arithF .add f rnd rs a b d = encodeF f rnd rs v ∧ finiteV v = true ∧ ratV v = ratV a + ratV b ∧
      (ratV v = 0 → v.neg = if a.isZero && b.isZero && a.neg == b.neg then a.neg else rnd == 3)) ∧
    (∃ v, arithF .sub f rnd rs a b d = encodeF f rnd rs v ∧ finiteV v = true ∧ ratV v = ratV a - ratV b ∧
      (ratV v = 0 → v.neg = if a.isZero && b.isZero && a.neg != b.neg then a.neg else rnd == 3)) ∧
    (∃ v, arithF .mul f rnd rs a b d = encodeF f rnd rs v ∧ finiteV v = true ∧ ratV v = ratV a * ratV b ∧
      v.neg = (a.neg != b.neg)) ∧
    (∃ v, arithF .fma f rnd rs a b d = encodeF f rnd rs v ∧ finiteV v = true ∧ ratV v = ratV a * ratV b + ratV d)) ∧
  (∀ (f : Fmt) (rnd : Nat) (l : BitVec 32) (a b d : FVal), f ∈ [f16Fmt, bf16Fmt, f32Fmt, f64Fmt] → rnd < 4 → finiteV a = true →
    finiteV b = true →
    (ratV b ≠ 0 → roundsTo f rnd (arithF .div f rnd ⟨l, 0⟩ a b d) ((ratV a / ratV b : ℚ) : ℝ)) ∧
    (ratV b = 0 → ratV a ≠ 0 → arithF .div f rnd ⟨l, 0⟩ a b d = encodeF f rnd ⟨l, fDZ⟩ (.inf (a.neg != b.neg))) ∧
    (∀ x : ℝ, 0 ≤ x → x * x = (ratV a : ℝ) → a.neg = false → roundsTo f rnd (arithF .sqrt f rnd ⟨l, 0⟩ a b d) x) ∧
    (ratV a < 0 → arithF .sqrt f rnd ⟨l, 0⟩ a b d = encodeF f rnd ⟨l, fNV⟩ defaultNan) ∧
    (ratV a ≠ 0 → roundsTo f rnd (sfnF .rcp f rnd ⟨l, 0⟩ a) ((1 / ratV a : ℚ) : ℝ)) ∧
    (∀ x : ℝ, 0 < x → x * x * (ratV a : ℝ) = 1 → roundsTo f rnd (sfnF .rsq f rnd ⟨l, 0⟩ a) x)) ∧
  (∀ (f : Fmt) (rnd x y : Nat) (rs : RS) (v w : ℚ), x < 2 ^ f.w → y < 2 ^ f.w → finiteCode f x = some v → finiteCode f y = some w →
    finiteCode f (minMaxF false f f f rnd rs x y).1 = some (min v w) ∧
    finiteCode f (minMaxF true f f f rnd rs x y).1 = some (max v w) ∧
    cmpCode (decodeF f x) (decodeF f y) = (if v < w then 1 else if v = w then 2 else 4, 0)) ∧
  (∀ (a b : FVal), a.isNan = true ∨ b.isNan = true → (cmpCode a b).1 = 8) ∧
  (∀ (x : Ctx) (n : Fin 8) (r : Rnd) (t c : CvType) (w : Word), c.isInt = true → t.isInt = false →
    ∃ v, finiteV v = true ∧ ratV v = intSide c w ∧ cvtVal x n r t c w =
      (w64 (encodeF (cvtTo x n t) (rounding x r) ⟨x.lfsr, 0⟩ v).1, (encodeF (cvtTo x n t) (rounding x r) ⟨x.lfsr, 0⟩ v).2)) ∧
  (∀ (lo hi : Int) (rnd : Nat) (rs : RS) (v : FVal), rnd < 4 → finiteV v = true →
    ∃ k : Int, toIntF lo hi rnd rs v = (if k < lo then (lo, rs.flag fNV) else if hi < k then (hi, rs.flag fNV)
        else (k, if ratV v = k then rs else rs.flag fNX)) ∧
      (rnd = 0 → |ratV v - k| ≤ 1 / 2 ∧ (|ratV v - k| = 1 / 2 → k % 2 = 0)) ∧
      (rnd = 1 → |(k : ℚ)| ≤ |ratV v| ∧ |ratV v| < |(k : ℚ)| + 1 ∧ 0 ≤ ratV v * k) ∧
      (rnd = 2 → ratV v ≤ k ∧ (k : ℚ) < ratV v + 1) ∧ (rnd = 3 → (k : ℚ) ≤ ratV v ∧ ratV v < k + 1))

/-- R175, R176: the special functions of an f32 number are the exact value of the mathematical function rounded once into the format of the
result: nearest, or next on the side that the rounding names, with NX where it differs; fsin and fcos for |x| ≤ 2^24.
The model's readings and choices it rests on: log 103. -/
def Obligations.SpecialFunctionsAreExact : Prop :=
  ∀ (f : Fmt) (rnd code : Nat) (l : BitVec 32) (x : ℚ), f ∈ [f16Fmt, bf16Fmt, f32Fmt] → rnd < 4 → code < 2 ^ 32 →
    finiteCode f32Fmt code = some x → let v := decodeF f32Fmt code
    (|x| ≤ 2 ^ 24 → roundsTo f rnd (sfnF .sin f rnd ⟨l, 0⟩ v) (Real.sin x) ∧ roundsTo f rnd (sfnF .cos f rnd ⟨l, 0⟩ v) (Real.cos x)) ∧
    roundsTo f rnd (sfnF .exp2 f rnd ⟨l, 0⟩ v) ((2 : ℝ) ^ (x : ℝ)) ∧
    (0 < x → roundsTo f rnd (sfnF .log2 f rnd ⟨l, 0⟩ v) (Real.logb 2 x)) ∧
    roundsTo f rnd (sfnF .tanh f rnd ⟨l, 0⟩ v) (Real.tanh x) ∧
    (2 ^ 24 < |x| → (sfnF .sin f32Fmt rnd ⟨l, 0⟩ v) = (0x7FFC0000, ⟨(RS.draw ⟨l, 0⟩ rnd).lfsr, fRG⟩))

/-- R30, R199, R200, R222, R229, R251, R252, R278, R399, R430: the fields of the words that the status instructions and requests give.
R361 to R363: the 64 bytes of a fault record, field by field, and what stands in them: the cause; ATTR, FAR, LOOP and PFXP; the
context and its TAG; the pc, OPC for an attributed fault; the address; ST as it reads before the trap; the cause's words, of an attributed
fault the pc of the instruction that raised it; PFX with the active loop levels.
The model's readings and choices it rests on: log 13, 84, 101, 112. -/
def Obligations.ResultWords : Prop :=
  ((∀ (s : State), let n := ebusyVal s
    let k := getCore s (coreOf s.cur)
    bitsAt n 0 1 = bit (busyMat s s.cur) ∧ bitsAt n 1 1 = bit (busyVec s s.cur) ∧ bitsAt n 2 1 = bit (busyCopy s s.cur) ∧
    bitsAt n 3 1 = 0 ∧ (∀ i : Fin 4, bitsAt n (4 + i.val) 1 = bit k.chans[i].isSome) ∧ bitsAt n 8 2 = min 2 (waitingCmds k.mat) ∧
    bitsAt n 10 2 = min 2 (waitingCmds k.vec) ∧ bitsAt n 12 2 = min 2 k.copyQ.length ∧ n < 2 ^ 14) ∧
  (∀ (s : State) (c : Nat), isMem c = false → let n := stNow s c
    bitsAt n 20 1 = bit (busyMat s c) ∧ bitsAt n 21 1 = bit (busyVec s c) ∧ bitsAt n 22 1 = bit (busyCopy s c) ∧
    ∀ j, j < 64 → ¬(20 ≤ j ∧ j ≤ 22) → bitAt n j = (getCtx s c).st.getLsbD j) ∧
  (∀ (s : State) (c : Nat) (k : Fin 4), let n := chstatVal s c k
    let q := getCore s (coreOf c)
    bitsAt n 0 32 = (getCtx s c).chrec[k] % 2 ^ 32 ∧ (bitsAt n 32 1 = 1 ↔ ∃ r, q.chans[k] = some r ∧ r.chain.ctx = c) ∧
    bitsAt n 33 2 = min 2 (q.copyQ.filter (fun e => e.1 == k.val && e.2.ctx == c)).length ∧ bitsAt n 35 13 = 0 ∧
    bitsAt n 48 8 = (getCtx s c).chcause[k] % 256 ∧ bitsAt n 56 7 = 0 ∧ bitsAt n 63 1 = bit (getCtx s c).chfault[k].isSome ∧ n < 2 ^ 64) ∧
  (∀ (s : State), let n := mqStatVal s
    let q := (getCore s (coreOf s.cur)).mat
    bitsAt n 0 2 = min 2 (waitingCmds q) ∧ bitsAt n 2 1 = bit (q.any EngCmd.running) ∧ bitsAt n 3 1 = 0 ∧
    (∀ k, k < 4 → bitsAt n (4 + k) 1 = bit (q.any (fun e => e.ctx == s.cur && e.k == k))) ∧ bitsAt n 8 16 = 0 ∧
    (∀ k : Fin 4, bitsAt n (24 + 8 * k.val) 8 = (me s).ks[k].toNat) ∧ n < 2 ^ 56) ∧
  (∀ (s : State) (k : Fin 4), let n := mqNanVal s k
    let ws := accWords (me s).acc[k]
    bitsAt n 49 2 = min 3 ((getCore s (coreOf s.cur)).mat.filter (fun e => e.ctx == s.cur && e.k == k.val)).length ∧
    bitsAt n 40 9 = (ws.filter isNan32).length ∧ n < 2 ^ 51 ∧
    ((∀ w ∈ ws, isNan32 w = false) → bitsAt n 0 40 = 0) ∧
    ((∃ w ∈ ws, isNan32 w = true) → let w := bitsAt n 0 32
      let i := bitsAt n 32 8
      ws.getD i 0 = w ∧ isNan32 w = true ∧ (∀ u ∈ ws, isNan32 u = true → nanLess w u = true) ∧ ∀ j, j < i → ws.getD j 0 ≠ w)) ∧
  (∀ (s : State) (p : Nat) (q : PartSt) (e : Entry), partOf s s.cur = some p → getPart? s p = some q → q.frac < 2 ^ 17 →
    entOfCtx s s.cur = some e → let n := rplWord s s.cur
    bitsAt n 32 17 = q.frac ∧ bitsAt n 4 1 = bit q.conf ∧ bitsAt n 3 1 = bit ((me s).run != 0) ∧ bitsAt n 2 1 = bit e.unv ∧
    bitsAt n 1 1 = bit (e.transit.phase != 0) ∧ bitsAt n 0 1 = bit e.telig ∧ bitsAt n 5 27 = 0 ∧ n < 2 ^ 49) ∧
  (∀ (s : State) (core : Nat) (r : Region), r.state ≤ 2 → r.wid < 4 → r.good < 2 ^ 8 → r.obs < 2 ^ 16 → r.samp < 2 ^ 16 →
    let n := apxWord s core r
    bitsAt n 0 3 = (if r.state = 2 ∧ (∃ e ∈ (getCore s core).surr, e.key = r.key) then 3 else r.state) ∧ bitsAt n 3 3 = 0 ∧
    bitsAt n 6 2 = r.wid ∧ bitsAt n 8 8 = r.good ∧ bitsAt n 16 16 = r.obs ∧ bitsAt n 32 16 = r.samp ∧ n < 2 ^ 48) ∧
  (∀ (p : PartSt), p.thresh < 2 ^ 16 → p.frac < 2 ^ 17 → let n := settingsWord p
    bitsAt n 0 17 = p.frac ∧ bitsAt n 17 1 = bit p.conf ∧ bitsAt n 18 16 = (if p.thresh = 0 then 1024 else p.thresh) ∧ n < 2 ^ 34) ∧
  (∀ (s : State) (tag : Nat), taintCount s tag = 0 ↔
    (∀ c ∈ s.cores, tag ∉ c.2.taint ∧ ¬(c.2.taintOvf = true ∧ tag ∈ (getDie s (dieOfCore c.1)).placed)) ∧
    (∀ c ∈ s.chans, tag ∉ c.2.taint ∧ ¬(c.2.taintOvf = true ∧ tag ∈ (getDie s (c.1 / 32)).placed))) ∧
  (almWord 0 0 = 480 * 2 ^ 32 + 1 ∧ almWord 0 1 = 0x44100001 ∧ almWord 0 2 = 472 * 2 ^ 48 + 471 * 2 ^ 32 + 455 * 2 ^ 16 + 228 ∧
    almWord 0 3 = 0x4410 * 2 ^ 32 + 227 * 2 ^ 16 + 1 ∧ ∀ r w, 480 ≤ r ∨ 4 ≤ w → almWord r w = 0)) ∧
  ((∀ (r : FaultRec), r.cause < 2 ^ 16 → r.flags < 2 ^ 16 → r.thread < 2 ^ 32 → r.tag < 2 ^ 32 → r.poff < 2 ^ 32 → r.pc < 2 ^ 64 →
    r.addr < 2 ^ 64 → r.sst < 2 ^ 64 → r.spec0 < 2 ^ 64 → r.spec1 < 2 ^ 64 → r.spfx < 2 ^ 64 → let b := r.bytes
    b.length = 64 ∧ fieldOf b 0 2 = r.cause ∧ fieldOf b 2 2 = r.flags ∧ fieldOf b 4 4 = r.thread ∧ fieldOf b 8 4 = r.tag ∧
    fieldOf b 0x0C 4 = r.poff ∧ fieldOf b 0x10 8 = r.pc ∧ fieldOf b 0x18 8 = r.addr ∧ fieldOf b 0x20 8 = r.sst ∧
    fieldOf b 0x28 8 = r.spec0 ∧ fieldOf b 0x30 8 = r.spec1 ∧ fieldOf b 0x38 8 = r.spfx) ∧
  (∀ (s : State) (c pc : Nat) (t : Trap), let r := mkRec s c t pc
    let x := getCtx s c
    r.cause = t.cause ∧ bitsAt r.flags 0 1 = bit t.opc.isSome ∧ bitsAt r.flags 1 1 = bit t.far ∧
    (bitsAt r.flags 2 1 = 1 ↔ ∃ l : Fin 4, x.lc[l] ≠ 0) ∧ bitsAt r.flags 3 1 = 0 ∧ bitsAt r.flags 4 1 = wBits x.st 3 1 ∧ r.flags < 32 ∧
    r.thread = c ∧ r.tag = x.tag.toNat ∧ r.pc = t.opc.getD pc ∧ r.addr = t.addr ∧ r.sst = stNow s c ∧
    r.spec0 = (if t.opc.isSome then pc else t.spec0) ∧ r.spec1 = t.spec1 ∧ bitsAt r.spfx 0 32 = x.pfx.toNat ∧
    (∀ l : Fin 4, bitsAt r.spfx (32 + l.val) 1 = bit (x.lc[l] != 0)) ∧ r.spfx < 2 ^ 36))
end

