-- ==== Sys2Proof/Laws/Tables.lean ====
section
/-! SUPPORT. Laws of finite tables and of the accessors of the state: a part that was replaced reads as what replaced it, other
parts read as before. -/

namespace Sys2Proof

theorem Tab.get?_put {α : Type} (t : Tab α) (n : Nat) (x : α) : (t.put n x).get? n = some x := by
  induction t with
  | nil => simp [Tab.put, Tab.get?]
  | cons p t ih =>
    obtain ⟨k, v⟩ := p
    unfold Tab.put
    split
    · simp [Tab.get?, *]
    · split
      · simp [Tab.get?]
      · simp [Tab.get?, *]

theorem Tab.get?_put_ne {α : Type} (t : Tab α) {n m : Nat} (x : α) (h : m ≠ n) : (t.put n x).get? m = t.get? m := by
  induction t with
  | nil => simp [Tab.put, Tab.get?, Ne.symm h]
  | cons p t ih =>
    obtain ⟨k, v⟩ := p
    unfold Tab.put
    split
    · rename_i hk; subst hk; simp [Tab.get?, Ne.symm h]
    · split
      · simp [Tab.get?, Ne.symm h]
      · simp [Tab.get?, ih]

theorem Tab.put_put {α : Type} (t : Tab α) (n : Nat) (x y : α) : (t.put n x).put n y = t.put n y := by
  induction t with
  | nil => simp [Tab.put]
  | cons p t ih =>
    obtain ⟨k, v⟩ := p
    by_cases hk : k = n
    · simp [Tab.put, hk]
    · by_cases hn : n < k
      · simp [Tab.put, hk, hn]
      · simp [Tab.put, hk, hn, ih]

namespace Machine

theorem getCtx_putCtx (s : State) (c : Nat) (x : Ctx) : getCtx (putCtx s c x) c = x := by
  simp [getCtx, putCtx, Tab.get?_put]

theorem getCtx_putCtx_ne (s : State) {c d : Nat} (x : Ctx) (h : d ≠ c) : getCtx (putCtx s c x) d = getCtx s d := by
  simp [getCtx, putCtx, Tab.get?_put_ne _ _ h]

theorem putCtx_putCtx (s : State) (c : Nat) (x y : Ctx) : putCtx (putCtx s c x) c y = putCtx s c y := by
  simp [putCtx, Tab.put_put]

theorem getCtx_modCtx (s : State) (c : Nat) (f : Ctx → Ctx) : getCtx (modCtx s c f) c = f (getCtx s c) := by
  simp [modCtx, getCtx_putCtx]

theorem getCtx_modCtx_ne (s : State) {c d : Nat} (f : Ctx → Ctx) (h : d ≠ c) : getCtx (modCtx s c f) d = getCtx s d := by
  simp [modCtx, getCtx_putCtx_ne _ _ h]

theorem modCtx_modCtx (s : State) (c : Nat) (f g : Ctx → Ctx) : modCtx (modCtx s c f) c g = modCtx s c (fun x => g (f x)) := by
  simp [modCtx, putCtx_putCtx, getCtx_putCtx]

theorem getCore_putCore (s : State) (c : Nat) (x : CoreSt) : getCore (putCore s c x) c = x := by
  simp [getCore, putCore, Tab.get?_put]

theorem getCore_putCore_ne (s : State) {c d : Nat} (x : CoreSt) (h : d ≠ c) : getCore (putCore s c x) d = getCore s d := by
  simp [getCore, putCore, Tab.get?_put_ne _ _ h]

theorem getCluster_putCluster (s : State) (c : Nat) (x : ClusterSt) : getCluster (putCluster s c x) c = x := by
  simp [getCluster, putCluster, Tab.get?_put]

theorem getCluster_putCluster_ne (s : State) {c d : Nat} (x : ClusterSt) (h : d ≠ c) :
    getCluster (putCluster s c x) d = getCluster s d := by
  simp [getCluster, putCluster, Tab.get?_put_ne _ _ h]

theorem getDie_putDie (s : State) (d : Nat) (x : DieSt) : getDie (putDie s d x) d = x := by
  simp [getDie, putDie, Tab.get?_put]

theorem getDie_putDie_ne (s : State) {d e : Nat} (x : DieSt) (h : e ≠ d) : getDie (putDie s d x) e = getDie s e := by
  simp [getDie, putDie, Tab.get?_put_ne _ _ h]

theorem getChan_putChan (s : State) (n : Nat) (x : ChanSt) : getChan (putChan s n x) n = x := by
  simp [getChan, putChan, Tab.get?_put]

theorem getChan_putChan_ne (s : State) {n m : Nat} (x : ChanSt) (h : m ≠ n) : getChan (putChan s n x) m = getChan s m := by
  simp [getChan, putChan, Tab.get?_put_ne _ _ h]

theorem getPart_putPart (s : State) (p : Nat) (x : PartSt) : getPart? (putPart s p x) p = some x := by
  simp [getPart?, putPart, Tab.get?_put]

theorem getPart_putPart_ne (s : State) {p q : Nat} (x : PartSt) (h : q ≠ p) : getPart? (putPart s p x) q = getPart? s q := by
  simp [getPart?, putPart, Tab.get?_put_ne _ _ h]

end Machine

end Sys2Proof
end

