-- ==== Sys2Proof/Laws/Issue.lean ====
section
/-! SUPPORT. What the issue of an instruction does when no check stops it. -/

namespace Sys2Proof.Claims

open Sys2Proof.Machine

theorem gather_plain (x : Ctx) : ∀ (rs : List Reg) (q : Vector (List PortWord) 4), (∀ r ∈ rs, notPort r) →
    gather x rs q = (rs.map (fun r => (some (getReg x r), none)), q)
  | [], _, _ => rfl
  | r :: rs, q, h => by
    have hr : portOf r = none := by
      have := h r (List.mem_cons_self ..)
      simp only [portOf, dif_neg (Nat.not_le.mpr this)]
    simp only [gather, hr, gather_plain x rs q (fun r' hm => h r' (List.mem_cons_of_mem _ hm)), List.map_cons]

theorem lostWord_plain (s : State) (x : Ctx) (rs : List Reg) :
    lostWord s (rs.map (fun r => (some (getReg x r), none))) = none := by
  induction rs with
  | nil => rfl
  | cons r t ih => simp [lostWord]

theorem takenOf_plain (x : Ctx) (rs : List Reg) :
    takenOf (rs.map (fun r => ((some (getReg x r) : Option Word), (none : Option (Fin 4 × PortWord))))) = [] := by
  induction rs with
  | nil => rfl
  | cons r t ih => simp [takenOf]

theorem firsts_plain (x : Ctx) (rs : List Reg) :
    (rs.map (fun r => ((some (getReg x r) : Option Word), (none : Option (Fin 4 × PortWord))))).filterMap Prod.fst =
      rs.map (getReg x) := by
  induction rs with
  | nil => rfl
  | cons r t ih => simp

theorem ready_plain (x : Ctx) (rs : List Reg) :
    (rs.map (fun r => ((some (getReg x r) : Option Word), (none : Option (Fin 4 × PortWord))))).any (fun p => p.1.isNone) =
      false := by
  induction rs with
  | nil => rfl
  | cons r t ih => simp

theorem portOf_none {r : Reg} (h : notPort r) : portOf r = none := by
  simp only [portOf, dif_neg (Nat.not_le.mpr h)]

/-- What the checks before an instruction's effect ask of a context. -/
structure Passes (sp : Spec) (x : Ctx) (c : Nat) : Prop where
  legal : legality sp x c = none
  ends : sp.noEnd = true → bodyEnds x x.pc.toNat = false
  srcs : ∀ r ∈ sp.srcs, notPort r
  dst : ∀ r, sp.dst = some r → notPort r
  budget : sp.wu.bind (budgetCheck x c) = none
  meter : meterFull x = false

theorem attempt_ok {sp : Spec} {body : Body} {s : State} {c : Nat} {out : Out} (h : Passes sp (getCtx s c) c)
    (hb : body (sp.srcs.map (getReg (getCtx s c))) { s with cur := c } = .ok out) :
    attempt sp body s c = .ok (retire sp c (getCtx s c).pc.toNat [] out,
      match fpTrap (getCtx s c) out.flags out.mask with
      | some t => some t
      | none => out.after) := by
  have he : (sp.noEnd && bodyEnds (getCtx s c) (getCtx s c).pc.toNat) = false := by
    cases hn : sp.noEnd with
    | false => rfl
    | true => simp [h.ends hn]
  have hd : sp.dst.bind portOf = none := by
    cases hd : sp.dst with
    | none => rfl
    | some r => simp [portOf_none (h.dst r hd)]
  simp only [attempt, h.legal, he, gather_plain _ _ _ h.srcs, lostWord_plain, ready_plain, takenOf_plain, firsts_plain, hd,
    Res.bind, Res.onWait, h.budget, hb, h.meter, Bool.false_eq_true, if_false]
  all_goals (cases fpTrap (getCtx s c) out.flags out.mask <;> rfl)

theorem attempt_trap {sp : Spec} {body : Body} {s : State} {c : Nat} {t : Trap} (h : Passes sp (getCtx s c) c)
    (hb : body (sp.srcs.map (getReg (getCtx s c))) { s with cur := c } = .trap t) :
    attempt sp body s c = .trap t := by
  have he : (sp.noEnd && bodyEnds (getCtx s c) (getCtx s c).pc.toNat) = false := by
    cases hn : sp.noEnd with
    | false => rfl
    | true => simp [h.ends hn]
  have hd : sp.dst.bind portOf = none := by
    cases hd : sp.dst with
    | none => rfl
    | some r => simp [portOf_none (h.dst r hd)]
  simp only [attempt, h.legal, he, gather_plain _ _ _ h.srcs, lostWord_plain, ready_plain, firsts_plain, hd,
    Res.bind, Res.onWait, h.budget, hb, Bool.false_eq_true, if_false]

theorem attempt_wait {sp : Spec} {body : Body} {s s1 : State} {c : Nat} (h : Passes sp (getCtx s c) c)
    (hb : body (sp.srcs.map (getReg (getCtx s c))) { s with cur := c } = .wait s1) :
    attempt sp body s c = .wait (noStall s1 c) := by
  have he : (sp.noEnd && bodyEnds (getCtx s c) (getCtx s c).pc.toNat) = false := by
    cases hn : sp.noEnd with
    | false => rfl
    | true => simp [h.ends hn]
  have hd : sp.dst.bind portOf = none := by
    cases hd : sp.dst with
    | none => rfl
    | some r => simp [portOf_none (h.dst r hd)]
  simp only [attempt, h.legal, he, gather_plain _ _ _ h.srcs, lostWord_plain, ready_plain, firsts_plain, hd,
    Res.bind, Res.onWait, h.budget, hb, Bool.false_eq_true, if_false]

/-- An instruction outside a flock whose checks pass and whose effect sets no trapped flag retires. -/
theorem issue_ok {sp : Spec} {body : Body} {s : State} {out : Out} (ha : flockOf s s.cur = [])
    (h : Passes sp (me s) s.cur) (hb : body (sp.srcs.map (val s)) s = .ok out)
    (hf : fpTrap (me s) out.flags out.mask = none) (ht : out.after = none) :
    issue sp body s = .next (retire sp s.cur (me s).pc.toNat [] out) := by
  simp only [issue, issueWord, ha, List.length_nil, Nat.zero_le, if_true, issueOne, attempt_ok (s := s) (c := s.cur) h hb, hf, ht]

theorem issue_trap {sp : Spec} {body : Body} {s : State} {t : Trap} (ha : flockOf s s.cur = [])
    (h : Passes sp (me s) s.cur) (hb : body (sp.srcs.map (val s)) s = .trap t) :
    issue sp body s = .next (takeTrap s s.cur (fillWord ((encodeNat sp.i).getD 0) t) (me s).pc.toNat) := by
  simp only [issue, issueWord, ha, List.length_nil, Nat.zero_le, if_true, issueOne, attempt_trap (s := s) (c := s.cur) h hb]

theorem issue_wait {sp : Spec} {body : Body} {s s1 : State} (ha : flockOf s s.cur = [])
    (h : Passes sp (me s) s.cur) (hb : body (sp.srcs.map (val s)) s = .wait s1) :
    issue sp body s = .next (markWait (noStall s1 s.cur) s.cur) := by
  simp only [issue, issueWord, ha, List.length_nil, Nat.zero_le, if_true, issueOne, attempt_wait (s := s) (c := s.cur) h hb]

/- ---------------------------------------------------------------- retirement -/

/-- A result written where a destination field names a register. -/
def setDst (x : Ctx) (d : Option Reg) (v : Option Word) : Ctx :=
  match d, v with
  | some r, some w => setReg x r w
  | _, _ => x

theorem writeDst_plain (s : State) (c : Nat) (d : Option Reg) (v : Option Word) (h : ∀ r, d = some r → notPort r)
    (g : Ctx → Ctx) : modCtx (writeDst s c d v) c g = modCtx s c (fun x => g (setDst x d v)) := by
  unfold writeDst setDst
  cases d with
  | none => rfl
  | some r =>
    cases v with
    | none => rfl
    | some w => simp only [portOf_none (h r rfl), modCtx_modCtx]

theorem setDst_serving (x : Ctx) (d : Option Reg) (v : Option Word) : (setDst x d v).serving = x.serving := by
  unfold setDst setReg
  split
  · split
    · split <;> rfl
    · rfl
  · rfl

/-- The end of a retirement: the region ends where the instruction synchronises, and an event of R390 marks the task. -/
def closing (sync unv : Bool) (s : State) (c : Nat) : State :=
  let s1 := if sync then endRegion s c else s
  if unv then markUnv s1 c else s1

theorem endRegion_serving (s : State) (c : Nat) : (getCtx (endRegion s c) c).serving = (getCtx s c).serving := by
  simp only [endRegion, getCtx_modCtx]
  rfl

theorem sends_plain {sp : Spec} (out : Out) (hd : ∀ r, sp.dst = some r → notPort r) : sendsPort sp out = false := by
  unfold sendsPort
  split
  · simp [portOf_none (hd _ ‹_›)]
  · rfl

/-- The test of a served program's length does nothing below the limit. -/
theorem checkLimit_plain (s : State) (c : Nat) (h : ∀ v, (getCtx s c).serving = some v → v.retired < programLimit v) :
    checkLimit s c = s := by
  unfold checkLimit
  split
  · simp [Nat.not_le.mpr (h _ ‹_›)]
  · rfl

theorem retire_eq {sp : Spec} {c pc : Nat} {out : Out} (hd : ∀ r, sp.dst = some r → notPort r)
    (hl : ∀ v, (getCtx out.st c).serving = some v → v.retired + 1 < programLimit v) :
    retire sp c pc [] out = closing out.sync out.unv
      (modCtx out.st c (fun x => retireCtx sp out (sp.wu.getD out.wu) pc (isMem c) (setDst x sp.dst out.val))) c := by
  unfold retire closing
  simp only [List.foldl_nil, List.isEmpty_nil, Bool.not_true, sends_plain out hd, Bool.or_false,
    writeDst_plain _ _ _ _ hd]
  rw [checkLimit_plain]
  intro v hv
  have hv' : (getCtx (modCtx out.st c (fun x => retireCtx sp out (sp.wu.getD out.wu) pc (isMem c)
      (setDst x sp.dst out.val))) c).serving = some v := by
    cases hs : out.sync <;> simp only [hs, Bool.false_eq_true, if_false, if_true, endRegion_serving] at hv <;> exact hv
  rw [getCtx_modCtx] at hv'
  simp only [retireCtx, setDst_serving] at hv'
  cases hw : (getCtx out.st c).serving with
  | none => simp [hw] at hv'
  | some w =>
    simp only [hw, Option.map_some, Option.some.injEq] at hv'
    have := hl w hw
    subst hv'
    exact this

theorem w64_add (a : Word) (n : Nat) : w64 (a.toNat + n) = a + w64 n := by
  apply BitVec.eq_of_toNat_eq
  simp [w64]

theorem pc48_next (p : BitVec 48) : pc48 ((p.toNat + 4) % 2 ^ 48) = p + 4 := by
  apply BitVec.eq_of_toNat_eq
  simp [pc48]

theorem w64_toNat (a : Word) : w64 a.toNat = a := by
  apply BitVec.eq_of_toNat_eq
  simp [w64]

/-- Where a retirement goes when no loop body ends: a target or the next word. -/
def nextOf (p : Option Nat) (x : Ctx) : BitVec 48 :=
  match p with
  | some t => pc48 t
  | none => x.pc + 4

theorem pc48_getD (p : Option Nat) (x : Ctx) : pc48 (p.getD ((x.pc.toNat + 4) % 2 ^ 48)) = nextOf p x := by
  cases p with
  | none => simp only [Option.getD_none, nextOf, pc48_next]
  | some t => rfl

/-- Where a retirement goes: back to a loop's start, else on. -/
theorem pc48_target (l p : Option Nat) (x : Ctx) :
    pc48 (l.getD (p.getD ((x.pc.toNat + 4) % 2 ^ 48))) = (match l with | some t => pc48 t | none => nextOf p x) := by
  cases l with
  | none => exact pc48_getD p x
  | some t => rfl

/-- The registers after the retirement of an instruction that takes no formats and sets no flag. -/
theorem retireCtx_to {sp : Spec} {out : Out} {wu : Nat} {c : Nat} {x : Ctx} (hf : sp.fmt = false) (hn : sp.noEnd = false)
    (hg : out.flags = 0) :
    retireCtx sp out wu x.pc.toNat (isMem c) x = retiredTo c wu (pJ sp.ecls) (nextOf out.pc x) x := by
  simp only [retireCtx, retiredTo, charged, hf, hn, hg, Bool.false_eq_true, if_false, Nat.zero_mul,
    Nat.or_zero, w64_toNat, w64_add, energyPlus, pc48_target] <;> rfl

/-- The registers after the retirement of an instruction that may not end a loop body. -/
theorem retireCtx_jump {sp : Spec} {out : Out} {wu : Nat} {c : Nat} {x : Ctx} (hf : sp.fmt = false) (hn : sp.noEnd = true)
    (hg : out.flags = 0) (he : sp.ecls = 0) :
    retireCtx sp out wu x.pc.toNat (isMem c) x = jumped c wu (nextOf out.pc x) x := by
  simp only [retireCtx, jumped, charged, hf, hn, hg, he, Bool.false_eq_true, if_false, if_true, Nat.zero_mul,
    Nat.or_zero, w64_toNat, w64_add, energyPlus, Option.getD_none, pc48_getD, pJ]
  rfl

/-- The registers after the retirement of an instruction that takes formats. -/
theorem retireCtx_fmt {sp : Spec} {out : Out} {wu : Nat} {c : Nat} {x : Ctx} (hf : sp.fmt = true) (hn : sp.noEnd = false)
    (hp : out.pc = none) :
    retireCtx sp out wu x.pc.toNat (isMem c) x = retiredFmt c wu (pJ sp.ecls) out.flags x := by
  simp only [retireCtx, retiredFmt, retired, retiredTo, charged, hf, hn, hp, Bool.false_eq_true, if_false, if_true,
    w64_add, energyPlus, pc48_target, nextOf] <;> rfl

/-- The kind of core that an instruction executes on has the context that has the turn. -/
def kindOk (k : CoreKind) (c : Nat) : Bool :=
  match k with
  | .both => true
  | .compute => !isMem c
  | .mem => isMem c

theorem legality_none {sp : Spec} {x : Ctx} {c : Nat} (hr : sp.rootOnly = true → isRoot x = true) (hk : kindOk sp.kind c = true)
    (hp : sp.fmt = false → wBits x.st 3 1 = 0) (hl : sp.level ≤ privOf x) : legality sp x c = none := by
  have h1 : (sp.rootOnly && !isRoot x) = false := by
    cases h : sp.rootOnly with
    | false => rfl
    | true => simp [hr h]
  have h2 : ((sp.kind == .compute && isMem c) || (sp.kind == .mem && !isMem c)) = false := by
    unfold kindOk at hk
    split at hk <;> simp_all
  have h3 : (decide (wBits x.st 3 1 = 1) && !sp.fmt) = false := by
    cases hf : sp.fmt with
    | false => simp [hp hf]
    | true => simp
  simp only [legality, h1, h2, h3, Nat.not_lt.mpr hl, Bool.false_eq_true, if_false]

theorem passes_of {sp : Spec} {s : State} (hr : sp.rootOnly = true → isRoot (me s) = true) (hk : kindOk sp.kind s.cur = true)
    (hp : sp.fmt = false → wBits (me s).st 3 1 = 0) (hl : sp.level ≤ privOf (me s))
    (he : sp.noEnd = true → bodyEnds (me s) (me s).pc.toNat = false) (hs : ∀ r ∈ sp.srcs, notPort r)
    (hd : ∀ r, sp.dst = some r → notPort r) {wu : Nat} (hw : sp.wu = none ∨ sp.wu = some wu) (h : Free s wu) :
    Passes sp (me s) s.cur where
  legal := legality_none hr hk hp hl
  ends := he
  srcs := hs
  dst := hd
  budget := by
    rcases hw with hw | hw
    · rw [hw]; rfl
    · rw [hw]
      show budgetCheck (me s) s.cur wu = none
      unfold budgetCheck overBudget
      rcases h.budget with hb | hb
      · simp [hb, h.paid]
      · simp [Nat.not_lt.mpr hb, h.paid]
  meter := h.meter

theorem setDst_pc (x : Ctx) (d : Option Reg) (v : Option Word) : (setDst x d v).pc = x.pc := by
  unfold setDst setReg
  split
  · split
    · split <;> rfl
    · rfl
  · rfl

/-- An instruction whose checks pass, whose effect sets no trapped flag and raises nothing after it: the effect, the result, and
what retirement does to the registers. -/
theorem issue_any {sp : Spec} {body : Body} {s : State} {out : Out} {wu : Nat} (h : Free s wu)
    (hb : body (sp.srcs.map (val s)) s = .ok out) (hw : sp.wu = some wu ∨ (sp.wu = none ∧ out.wu = wu))
    (hp : sp.fmt = false → wBits (me s).st 3 1 = 0)
    (hr : sp.rootOnly = true → isRoot (me s) = true) (hk : kindOk sp.kind s.cur = true) (hl : sp.level ≤ privOf (me s))
    (he : sp.noEnd = true → bodyEnds (me s) (me s).pc.toNat = false) (hs : ∀ r ∈ sp.srcs, notPort r)
    (hd : ∀ r, sp.dst = some r → notPort r) (hf : fpTrap (me s) out.flags out.mask = none) (ht : out.after = none)
    (hv : (getCtx out.st s.cur).serving = (me s).serving) :
    issue sp body s = .next (closing out.sync out.unv (modCtx out.st s.cur (fun x =>
      retireCtx sp out wu (me s).pc.toNat (isMem s.cur) (setDst x sp.dst out.val))) s.cur) := by
  have hps := passes_of hr hk hp hl he hs hd (hw.symm.imp (fun q => q.1) id) h
  have hwu : sp.wu.getD out.wu = wu := by
    rcases hw with hw | ⟨hw, ho⟩
    · rw [hw]; rfl
    · rw [hw, Option.getD_none, ho]
  rw [issue_ok h.alone hps hb hf ht, retire_eq hd (by rw [hv]; exact h.limit), hwu]

theorem fpTrap_zero (x : Ctx) (m : Nat) : fpTrap x 0 m = none := by
  simp [fpTrap]

/-- An instruction that takes no formats, sets no flag and may end a loop body. -/
theorem issue_to {sp : Spec} {body : Body} {s s1 : State} {v : Option Word} {p : Option Nat} {sync unv : Bool} {wu : Nat}
    (h : Ready s wu) (hb : body (sp.srcs.map (val s)) s = .ok { st := s1, val := v, pc := p, sync := sync, unv := unv })
    (hw : sp.wu = some wu) (hf : sp.fmt = false) (hn : sp.noEnd = false) (hr : sp.rootOnly = true → isRoot (me s) = true)
    (hk : kindOk sp.kind s.cur = true) (hl : sp.level ≤ privOf (me s)) (hs : ∀ r ∈ sp.srcs, notPort r)
    (hd : ∀ r, sp.dst = some r → notPort r) (hpc : (getCtx s1 s.cur).pc = (me s).pc)
    (hv : (getCtx s1 s.cur).serving = (me s).serving) :
    issue sp body s = .next (closing sync unv (modCtx s1 s.cur (fun x =>
      retiredTo s.cur wu (pJ sp.ecls) (nextOf p x) (setDst x sp.dst v))) s.cur) := by
  rw [issue_any h.toFree hb (Or.inl hw) (fun _ => h.plain) hr hk hl (fun he => by simp [hn] at he) hs hd (fpTrap_zero _ _) rfl hv]
  simp only [modCtx]
  have e := retireCtx_to (wu := wu) (c := s.cur) (x := setDst (getCtx s1 s.cur) sp.dst v) hf hn
    (out := { st := s1, val := v, pc := p, sync := sync, unv := unv }) rfl
  rw [setDst_pc, hpc] at e
  rw [e]
  cases p <;> simp only [nextOf, setDst_pc]

/-- An instruction that takes no formats, sets no flag and goes to the next word: its effect, its result, and retirement. -/
theorem issue_next {sp : Spec} {body : Body} {s s1 : State} {v : Option Word} {sync unv : Bool} {wu : Nat} (h : Ready s wu)
    (hb : body (sp.srcs.map (val s)) s = .ok { st := s1, val := v, sync := sync, unv := unv }) (hw : sp.wu = some wu)
    (hf : sp.fmt = false) (hn : sp.noEnd = false) (hr : sp.rootOnly = true → isRoot (me s) = true)
    (hk : kindOk sp.kind s.cur = true) (hl : sp.level ≤ privOf (me s)) (hs : ∀ r ∈ sp.srcs, notPort r)
    (hd : ∀ r, sp.dst = some r → notPort r) (hpc : (getCtx s1 s.cur).pc = (me s).pc)
    (hv : (getCtx s1 s.cur).serving = (me s).serving) :
    issue sp body s = .next (closing sync unv
      (modCtx s1 s.cur (fun x => retired s.cur wu (pJ sp.ecls) (setDst x sp.dst v))) s.cur) := by
  rw [issue_to h hb hw hf hn hr hk hl hs hd hpc hv]
  simp only [nextOf, retired, setDst_pc]

/-- The same where the effect itself tells the work units. -/
theorem issue_cmd {sp : Spec} {body : Body} {s s1 : State} {unv : Bool} {wu : Nat} (h : Ready s wu)
    (hb : body (sp.srcs.map (val s)) s = .ok { st := s1, wu := wu, unv := unv }) (hw : sp.wu = none)
    (hf : sp.fmt = false) (hn : sp.noEnd = false) (hr : sp.rootOnly = true → isRoot (me s) = true)
    (hk : kindOk sp.kind s.cur = true) (hl : sp.level ≤ privOf (me s)) (hs : ∀ r ∈ sp.srcs, notPort r) (hd : sp.dst = none)
    (hpc : (getCtx s1 s.cur).pc = (me s).pc) (hv : (getCtx s1 s.cur).serving = (me s).serving) :
    issue sp body s = .next (closing false unv (modCtx s1 s.cur (retired s.cur wu (pJ sp.ecls))) s.cur) := by
  rw [issue_any h.toFree hb (Or.inr ⟨hw, rfl⟩) (fun _ => h.plain) hr hk hl (fun he => by simp [hn] at he) hs
    (by simp [hd]) (fpTrap_zero _ _) rfl hv]
  simp only [modCtx, hd, setDst]
  have e := retireCtx_to (wu := wu) (c := s.cur) (x := getCtx s1 s.cur) hf hn
    (out := { st := s1, wu := wu, unv := unv }) rfl
  rw [hpc] at e
  rw [e]
  rfl

/-- An instruction that may not end a loop body, to a target or to the next word. -/
theorem issue_jump {sp : Spec} {body : Body} {s s1 : State} {v : Option Word} {p : Option Nat} {wu : Nat} (h : Ready s wu)
    (hb : body (sp.srcs.map (val s)) s = .ok { st := s1, val := v, pc := p }) (hw : sp.wu = some wu)
    (hf : sp.fmt = false) (hn : sp.noEnd = true) (he : bodyEnds (me s) (me s).pc.toNat = false)
    (hr : sp.rootOnly = true → isRoot (me s) = true) (hc : sp.ecls = 0)
    (hk : kindOk sp.kind s.cur = true) (hl : sp.level ≤ privOf (me s)) (hs : ∀ r ∈ sp.srcs, notPort r)
    (hd : ∀ r, sp.dst = some r → notPort r) (hpc : (getCtx s1 s.cur).pc = (me s).pc)
    (hv : (getCtx s1 s.cur).serving = (me s).serving) :
    issue sp body s = .next (modCtx s1 s.cur (fun x => jumped s.cur wu (nextOf p x) (setDst x sp.dst v))) := by
  rw [issue_any h.toFree hb (Or.inl hw) (fun _ => h.plain) hr hk hl (fun _ => he) hs hd (fpTrap_zero _ _) rfl hv]
  simp only [modCtx, closing, Bool.false_eq_true, if_false]
  have e := retireCtx_jump (wu := wu) (c := s.cur) (x := setDst (getCtx s1 s.cur) sp.dst v) hf hn
    (out := { st := s1, val := v, pc := p }) rfl hc
  rw [setDst_pc, hpc] at e
  rw [e]
  cases p <;> simp only [nextOf, setDst_pc]

/-- An instruction that takes formats: its effect, its result, its flags, and retirement. -/
theorem issue_fmt {sp : Spec} {body : Body} {s s1 : State} {v : Option Word} {fl mk wu : Nat} (h : Free s wu)
    (hb : body (sp.srcs.map (val s)) s = .ok { st := s1, val := v, flags := fl, mask := mk }) (hw : sp.wu = some wu)
    (hf : sp.fmt = true) (hn : sp.noEnd = false) (hr : sp.rootOnly = true → isRoot (me s) = true)
    (hk : kindOk sp.kind s.cur = true) (hl : sp.level ≤ privOf (me s)) (hs : ∀ r ∈ sp.srcs, notPort r)
    (hd : ∀ r, sp.dst = some r → notPort r) (hg : fpTrap (me s) fl mk = none) (hpc : (getCtx s1 s.cur).pc = (me s).pc)
    (hv : (getCtx s1 s.cur).serving = (me s).serving) :
    issue sp body s = .next (modCtx s1 s.cur (fun x => retiredFmt s.cur wu (pJ sp.ecls) fl (setDst x sp.dst v))) := by
  rw [issue_any h hb (Or.inl hw) (fun hq => by simp [hf] at hq) hr hk hl (fun he => by simp [hn] at he) hs hd hg rfl hv]
  simp only [modCtx, closing, Bool.false_eq_true, if_false]
  have e := retireCtx_fmt (wu := wu) (c := s.cur) (x := setDst (getCtx s1 s.cur) sp.dst v) hf hn
    (out := { st := s1, val := v, flags := fl, mask := mk }) rfl
  rw [setDst_pc, hpc] at e
  rw [e]

/-- A command that takes formats, where the effect itself tells the work units. -/
theorem issue_fmt_cmd {sp : Spec} {body : Body} {s s1 : State} {unv : Bool} {wu : Nat} (h : Free s wu)
    (hb : body (sp.srcs.map (val s)) s = .ok { st := s1, wu := wu, unv := unv }) (hw : sp.wu = none)
    (hf : sp.fmt = true) (hn : sp.noEnd = false) (hr : sp.rootOnly = true → isRoot (me s) = true)
    (hk : kindOk sp.kind s.cur = true) (hl : sp.level ≤ privOf (me s)) (hs : ∀ r ∈ sp.srcs, notPort r) (hd : sp.dst = none)
    (hpc : (getCtx s1 s.cur).pc = (me s).pc) (hv : (getCtx s1 s.cur).serving = (me s).serving) :
    issue sp body s = .next (closing false unv (modCtx s1 s.cur (retiredFmt s.cur wu (pJ sp.ecls) 0)) s.cur) := by
  rw [issue_any h hb (Or.inr ⟨hw, rfl⟩) (fun hq => by simp [hf] at hq) hr hk hl (fun he => by simp [hn] at he) hs
    (by simp [hd]) (fpTrap_zero _ _) rfl hv]
  simp only [modCtx, hd, setDst]
  have e := retireCtx_fmt (wu := wu) (c := s.cur) (x := getCtx s1 s.cur) hf hn
    (out := { st := s1, wu := wu, unv := unv }) rfl
  rw [hpc] at e
  rw [e]

end Sys2Proof.Claims
end

