-- ==== Sys2Proof/Laws/Memory.lean ====
section
/-! SUPPORT. Laws of memory: read after write, other bytes stay, and every operation keeps the canonical form. -/

namespace Sys2Proof.Machine

theorem memWfFrom_mono : ∀ (m : Memory) {lo lo' : Nat}, lo' ≤ lo → memWfFrom lo m = true → memWfFrom lo' m = true
  | [], _, _, _, _ => rfl
  | (a, b) :: t, lo, lo', h, hw => by
    simp only [memWfFrom, Bool.and_eq_true, decide_eq_true_eq] at hw ⊢
    exact ⟨⟨by omega, hw.1.2⟩, hw.2⟩

theorem memGet_below : ∀ (m : Memory) {lo n : Nat}, memWfFrom lo m = true → n < lo → memGet m n = memDefault
  | [], _, _, _, _ => rfl
  | (a, b) :: t, lo, n, hw, h => by
    simp only [memWfFrom, Bool.and_eq_true, decide_eq_true_eq] at hw
    have ha : a ≠ n := by omega
    simp only [memGet, ha, if_false]
    exact memGet_below t hw.2 (by omega)

theorem memGet_memPut : ∀ (m : Memory) (n : Nat) (x : Byte), memGet (memPut m n x) n = x
  | [], n, x => by simp [memPut, memGet]
  | (a, b) :: t, n, x => by
    unfold memPut
    split
    · simp [memGet]
    · split
      · simp [memGet]
      · rename_i h _
        simp only [memGet, h, if_false]
        exact memGet_memPut t n x

theorem memGet_memPut_ne : ∀ (m : Memory) {n k : Nat} (x : Byte), k ≠ n → memGet (memPut m n x) k = memGet m k
  | [], n, k, x, h => by simp [memPut, memGet, Ne.symm h]
  | (a, b) :: t, n, k, x, h => by
    unfold memPut
    split
    · subst_vars; simp [memGet, Ne.symm h]
    · split
      · simp [memGet, Ne.symm h]
      · simp only [memGet, memGet_memPut_ne t x h]

theorem memPut_wf : ∀ (m : Memory) (lo n : Nat) (x : Byte), x ≠ memDefault → memWfFrom lo m = true → lo ≤ n →
    memWfFrom lo (memPut m n x) = true
  | [], lo, n, x, hx, _, h => by simp [memPut, memWfFrom, *]
  | (a, b) :: t, lo, n, x, hx, hw, h => by
    simp only [memWfFrom, Bool.and_eq_true, decide_eq_true_eq] at hw
    unfold memPut
    split
    · subst_vars; simp [memWfFrom, *]
    · split
      · simp [memWfFrom, *]
      · simp only [memWfFrom, Bool.and_eq_true, decide_eq_true_eq]
        exact ⟨⟨hw.1.1, hw.1.2⟩, memPut_wf t (a + 1) n x hx hw.2 (by omega)⟩

theorem memGet_filter_self : ∀ (m : Memory) (n : Nat), memGet (m.filter (fun p => p.1 != n)) n = memDefault
  | [], _ => rfl
  | (a, b) :: t, n => by
    by_cases h : a = n
    · simp [h, memGet_filter_self t n]
    · simp [h, memGet, memGet_filter_self t n]

theorem memGet_filter_ne : ∀ (m : Memory) {n k : Nat}, k ≠ n → memGet (m.filter (fun p => p.1 != n)) k = memGet m k
  | [], _, _, _ => rfl
  | (a, b) :: t, n, k, h => by
    by_cases ha : a = n
    · simp [ha, memGet, Ne.symm h, memGet_filter_ne t h]
    · simp [ha, memGet, memGet_filter_ne t h]

/-- A byte written reads back, in any list. -/
theorem memGet_memSet (m : Memory) (n : Nat) (x : Byte) : memGet (memSet m n x) n = x := by
  unfold memSet
  split
  · rename_i h; rw [h, memGet_filter_self]
  · exact memGet_memPut m n x

/-- Every other byte stays. -/
theorem memGet_memSet_ne (m : Memory) {n k : Nat} (x : Byte) (h : k ≠ n) : memGet (memSet m n x) k = memGet m k := by
  unfold memSet
  split
  · exact memGet_filter_ne m h
  · exact memGet_memPut_ne m x h

theorem filter_wf (p : Nat × Byte → Bool) : ∀ (m : Memory) (lo : Nat), memWfFrom lo m = true → memWfFrom lo (m.filter p) = true
  | [], _, _ => rfl
  | (a, b) :: t, lo, hw => by
    simp only [memWfFrom, Bool.and_eq_true, decide_eq_true_eq] at hw
    have ht := filter_wf p t (a + 1) hw.2
    by_cases hp : p (a, b) = true
    · rw [List.filter_cons_of_pos hp]
      simp only [memWfFrom, Bool.and_eq_true, decide_eq_true_eq]
      exact ⟨hw.1, ht⟩
    · rw [List.filter_cons_of_neg hp]
      exact memWfFrom_mono _ (by omega) ht

theorem memSet_wf (m : Memory) (lo n : Nat) (x : Byte) (hw : memWfFrom lo m = true) (h : lo ≤ n) :
    memWfFrom lo (memSet m n x) = true := by
  unfold memSet
  split
  · exact filter_wf _ m lo hw
  · rename_i hx; exact memPut_wf m lo n x hx hw h

theorem memWrite_wf : ∀ (bs : List Byte) (m : Memory) (a : Nat), Memory.wf m = true → Memory.wf (memWrite m a bs) = true
  | [], _, _, h => h
  | b :: t, m, a, h => memWrite_wf t (memSet m a b) (a + 1) (memSet_wf m 0 a b h (Nat.zero_le _))

theorem memZero_wf (m : Memory) (a n : Nat) (h : Memory.wf m = true) : Memory.wf (memZero m a n) = true :=
  filter_wf _ m 0 h

theorem memGet_memWrite_out : ∀ (bs : List Byte) (m : Memory) (a k : Nat), k < a ∨ a + bs.length ≤ k →
    memGet (memWrite m a bs) k = memGet m k
  | [], _, _, _, _ => rfl
  | b :: t, m, a, k, h => by
    simp only [List.length_cons] at h
    rw [memWrite, memGet_memWrite_out t _ _ _ (by omega), memGet_memSet_ne _ _ (by omega)]

theorem memGet_memWrite_in : ∀ (bs : List Byte) (m : Memory) (a i : Nat) (h : i < bs.length),
    memGet (memWrite m a bs) (a + i) = bs[i]
  | b :: t, m, a, 0, _ => by
    rw [memWrite, memGet_memWrite_out _ _ _ _ (by omega)]
    exact memGet_memSet m a b
  | b :: t, m, a, i + 1, h => by
    have h' : i < t.length := by simpa using h
    rw [memWrite]
    have := memGet_memWrite_in t (memSet m a b) (a + 1) i h'
    rw [show a + (i + 1) = a + 1 + i by omega, this]
    rfl

theorem memRead_length (m : Memory) : ∀ (n a : Nat), (memRead m a n).length = n
  | 0, _ => rfl
  | n + 1, a => by simp [memRead, memRead_length m n]

theorem memRead_memWrite (m : Memory) (a : Nat) (bs : List Byte) :
    memRead (memWrite m a bs) a bs.length = bs := by
  have key : ∀ (n i : Nat), i + n = bs.length → memRead (memWrite m a bs) (a + i) n = bs.drop i := by
    intro n
    induction n with
    | zero => intro i hi; simp [memRead, List.drop_eq_nil_of_le (by omega : bs.length ≤ i)]
    | succ n ih =>
      intro i hi
      have hlt : i < bs.length := by omega
      rw [memRead, memGet_memWrite_in bs m a i hlt, List.drop_eq_getElem_cons hlt, ← ih (i + 1) (by omega),
        show a + i + 1 = a + (i + 1) by omega]
  simpa using key bs.length 0 (by simp)

/-- Writing single bytes one after another keeps the canonical form (a migration's move of a range). -/
theorem memSets_wf {α : Type} (at_ : α → Nat) (val : α → Byte) : ∀ (cells : List α) (m : Memory), Memory.wf m = true →
    Memory.wf (cells.foldl (fun m p => memSet m (at_ p) (val p)) m) = true
  | [], _, h => h
  | c :: t, m, h => memSets_wf at_ val t (memSet m (at_ c) (val c)) (memSet_wf m 0 _ _ h (Nat.zero_le _))

/-- Memory after reset lists nothing and so has the canonical form. -/
theorem reset_mem_wf : Memory.wf State.reset.mem = true := rfl

end Sys2Proof.Machine
end

