-- ==== Sys2Proof/Laws/PerInstr.lean ====
section
/-! SUPPORT. Statements made for each instruction. Family Encodes: which instructions have a word, and that
it has 32 bits. -/

namespace Sys2Proof.Laws

theorem width_lt (x : Width) : x.code < 4 := by cases x <;> decide
theorem sat_lt (x : Sat) : x.code < 3 := by cases x <;> decide
theorem ldSize_lt (x : LdSize) : x.code < 8 := by cases x <;> decide
theorem scope_lt (x : Scope) : x.code < 5 := by cases x <;> decide
theorem order_lt (x : Order) : x.code < 4 := by cases x <;> decide
theorem iLane_lt (x : ILane) : x.code < 8 := by cases x <;> decide
theorem fLane_lt (x : FLane) : x.code < 12 := by cases x <;> decide
theorem rnd_lt (x : Rnd) : x.code < 6 := by cases x <;> decide
theorem cvType_lt (x : CvType) : x.code < 9 := by cases x <;> decide
theorem lane_lt (x : Lane) : x.code < 12 := by
  cases x with
  | int t => have := iLane_lt t; simp only [Lane.code]; omega
  | flt t => exact fLane_lt t
theorem bit_lt (b : Bool) : bit b < 2 := by cases b <;> decide
theorem amx_lt (m : AmxSel) : amxG m < 2 ∧ amxM m < 4 := by
  cases m with
  | none => decide
  | some k => exact ⟨by simp [amxG], by simp [amxM]⟩

/-- The rows without a word: events, words that are not instructions, failed fetches and the reserved hcalls, whose number the
decoder does not keep. -/
def noWord : Instr → Bool
  | .illegalWord => true
  | .fetchFault => true
  | .hcall => true
  | i => Machine.isEvent i

/-- R67 to R85: the instruction has a word exactly if its row has one, and the number that its fields give has 32 bits. -/
def Encodes.Statement (i : Instr) : Prop :=
  (encodeNat i).isSome = !(noWord i) ∧ ∀ n, encodeNat i = some n → n < 2 ^ 32

/-- One number below 2^32 is what the encoder gives. -/
theorem encodes_of {i : Instr} {k : Nat} (he : encodeNat i = some k) (hv : noWord i = false) (hk : k < 4294967296) :
    Encodes.Statement i := by
  refine ⟨by rw [he, hv]; rfl, fun n hn => ?_⟩
  rw [he] at hn
  cases hn
  exact hk

/-- A row without a word. -/
theorem encodes_event {i : Instr} (he : encodeNat i = none) (hv : noWord i = true) : Encodes.Statement i :=
  ⟨by rw [he, hv]; rfl, fun n hn => by rw [he] at hn; cases hn⟩

end Sys2Proof.Laws

open Sys2Proof in
theorem Sys2Proof.Laws.Encodes.add (d : Reg) (a : Reg) (b : Reg) (s : Sat) (wd : Width) : Sys2Proof.Laws.Encodes.Statement (.add d a b s wd) :=
  Sys2Proof.Laws.encodes_of rfl rfl (by have := Sys2Proof.Laws.sat_lt s; have := Sys2Proof.Laws.width_lt wd; omega)
open Sys2Proof in
theorem Sys2Proof.Laws.Encodes.sub (d : Reg) (a : Reg) (b : Reg) (s : Sat) (wd : Width) : Sys2Proof.Laws.Encodes.Statement (.sub d a b s wd) :=
  Sys2Proof.Laws.encodes_of rfl rfl (by have := Sys2Proof.Laws.sat_lt s; have := Sys2Proof.Laws.width_lt wd; omega)
open Sys2Proof in
theorem Sys2Proof.Laws.Encodes.mul (d : Reg) (a : Reg) (b : Reg) (s : Sat) (wd : Width) : Sys2Proof.Laws.Encodes.Statement (.mul d a b s wd) :=
  Sys2Proof.Laws.encodes_of rfl rfl (by have := Sys2Proof.Laws.sat_lt s; have := Sys2Proof.Laws.width_lt wd; omega)
open Sys2Proof in
theorem Sys2Proof.Laws.Encodes.mulh (d : Reg) (a : Reg) (b : Reg) (wd : Width) : Sys2Proof.Laws.Encodes.Statement (.mulh d a b wd) :=
  Sys2Proof.Laws.encodes_of rfl rfl (by have := Sys2Proof.Laws.width_lt wd; omega)
open Sys2Proof in
theorem Sys2Proof.Laws.Encodes.mulhu (d : Reg) (a : Reg) (b : Reg) (wd : Width) : Sys2Proof.Laws.Encodes.Statement (.mulhu d a b wd) :=
  Sys2Proof.Laws.encodes_of rfl rfl (by have := Sys2Proof.Laws.width_lt wd; omega)
open Sys2Proof in
theorem Sys2Proof.Laws.Encodes.div (d : Reg) (a : Reg) (b : Reg) (wd : Width) : Sys2Proof.Laws.Encodes.Statement (.div d a b wd) :=
  Sys2Proof.Laws.encodes_of rfl rfl (by have := Sys2Proof.Laws.width_lt wd; omega)
open Sys2Proof in
theorem Sys2Proof.Laws.Encodes.divu (d : Reg) (a : Reg) (b : Reg) (wd : Width) : Sys2Proof.Laws.Encodes.Statement (.divu d a b wd) :=
  Sys2Proof.Laws.encodes_of rfl rfl (by have := Sys2Proof.Laws.width_lt wd; omega)
open Sys2Proof in
theorem Sys2Proof.Laws.Encodes.rem (d : Reg) (a : Reg) (b : Reg) (wd : Width) : Sys2Proof.Laws.Encodes.Statement (.rem d a b wd) :=
  Sys2Proof.Laws.encodes_of rfl rfl (by have := Sys2Proof.Laws.width_lt wd; omega)
open Sys2Proof in
theorem Sys2Proof.Laws.Encodes.remu (d : Reg) (a : Reg) (b : Reg) (wd : Width) : Sys2Proof.Laws.Encodes.Statement (.remu d a b wd) :=
  Sys2Proof.Laws.encodes_of rfl rfl (by have := Sys2Proof.Laws.width_lt wd; omega)
open Sys2Proof in
theorem Sys2Proof.Laws.Encodes.and (d : Reg) (a : Reg) (b : Reg) (wd : Width) : Sys2Proof.Laws.Encodes.Statement (.and d a b wd) :=
  Sys2Proof.Laws.encodes_of rfl rfl (by have := Sys2Proof.Laws.width_lt wd; omega)
open Sys2Proof in
theorem Sys2Proof.Laws.Encodes.or (d : Reg) (a : Reg) (b : Reg) (wd : Width) : Sys2Proof.Laws.Encodes.Statement (.or d a b wd) :=
  Sys2Proof.Laws.encodes_of rfl rfl (by have := Sys2Proof.Laws.width_lt wd; omega)
open Sys2Proof in
theorem Sys2Proof.Laws.Encodes.xor (d : Reg) (a : Reg) (b : Reg) (wd : Width) : Sys2Proof.Laws.Encodes.Statement (.xor d a b wd) :=
  Sys2Proof.Laws.encodes_of rfl rfl (by have := Sys2Proof.Laws.width_lt wd; omega)
open Sys2Proof in
theorem Sys2Proof.Laws.Encodes.andn (d : Reg) (a : Reg) (b : Reg) (wd : Width) : Sys2Proof.Laws.Encodes.Statement (.andn d a b wd) :=
  Sys2Proof.Laws.encodes_of rfl rfl (by have := Sys2Proof.Laws.width_lt wd; omega)
open Sys2Proof in
theorem Sys2Proof.Laws.Encodes.shl (d : Reg) (a : Reg) (b : Reg) (wd : Width) : Sys2Proof.Laws.Encodes.Statement (.shl d a b wd) :=
  Sys2Proof.Laws.encodes_of rfl rfl (by have := Sys2Proof.Laws.width_lt wd; omega)
open Sys2Proof in
theorem Sys2Proof.Laws.Encodes.shr (d : Reg) (a : Reg) (b : Reg) (wd : Width) : Sys2Proof.Laws.Encodes.Statement (.shr d a b wd) :=
  Sys2Proof.Laws.encodes_of rfl rfl (by have := Sys2Proof.Laws.width_lt wd; omega)
open Sys2Proof in
theorem Sys2Proof.Laws.Encodes.sar (d : Reg) (a : Reg) (b : Reg) (wd : Width) : Sys2Proof.Laws.Encodes.Statement (.sar d a b wd) :=
  Sys2Proof.Laws.encodes_of rfl rfl (by have := Sys2Proof.Laws.width_lt wd; omega)
open Sys2Proof in
theorem Sys2Proof.Laws.Encodes.rot (d : Reg) (a : Reg) (b : Reg) (wd : Width) : Sys2Proof.Laws.Encodes.Statement (.rot d a b wd) :=
  Sys2Proof.Laws.encodes_of rfl rfl (by have := Sys2Proof.Laws.width_lt wd; omega)
open Sys2Proof in
theorem Sys2Proof.Laws.Encodes.min (d : Reg) (a : Reg) (b : Reg) (wd : Width) : Sys2Proof.Laws.Encodes.Statement (.min d a b wd) :=
  Sys2Proof.Laws.encodes_of rfl rfl (by have := Sys2Proof.Laws.width_lt wd; omega)
open Sys2Proof in
theorem Sys2Proof.Laws.Encodes.max (d : Reg) (a : Reg) (b : Reg) (wd : Width) : Sys2Proof.Laws.Encodes.Statement (.max d a b wd) :=
  Sys2Proof.Laws.encodes_of rfl rfl (by have := Sys2Proof.Laws.width_lt wd; omega)
open Sys2Proof in
theorem Sys2Proof.Laws.Encodes.minu (d : Reg) (a : Reg) (b : Reg) (wd : Width) : Sys2Proof.Laws.Encodes.Statement (.minu d a b wd) :=
  Sys2Proof.Laws.encodes_of rfl rfl (by have := Sys2Proof.Laws.width_lt wd; omega)
open Sys2Proof in
theorem Sys2Proof.Laws.Encodes.maxu (d : Reg) (a : Reg) (b : Reg) (wd : Width) : Sys2Proof.Laws.Encodes.Statement (.maxu d a b wd) :=
  Sys2Proof.Laws.encodes_of rfl rfl (by have := Sys2Proof.Laws.width_lt wd; omega)
open Sys2Proof in
theorem Sys2Proof.Laws.Encodes.seq (d : Reg) (a : Reg) (b : Reg) (wd : Width) : Sys2Proof.Laws.Encodes.Statement (.seq d a b wd) :=
  Sys2Proof.Laws.encodes_of rfl rfl (by have := Sys2Proof.Laws.width_lt wd; omega)
open Sys2Proof in
theorem Sys2Proof.Laws.Encodes.sne (d : Reg) (a : Reg) (b : Reg) (wd : Width) : Sys2Proof.Laws.Encodes.Statement (.sne d a b wd) :=
  Sys2Proof.Laws.encodes_of rfl rfl (by have := Sys2Proof.Laws.width_lt wd; omega)
open Sys2Proof in
theorem Sys2Proof.Laws.Encodes.slt (d : Reg) (a : Reg) (b : Reg) (wd : Width) : Sys2Proof.Laws.Encodes.Statement (.slt d a b wd) :=
  Sys2Proof.Laws.encodes_of rfl rfl (by have := Sys2Proof.Laws.width_lt wd; omega)
open Sys2Proof in
theorem Sys2Proof.Laws.Encodes.sltu (d : Reg) (a : Reg) (b : Reg) (wd : Width) : Sys2Proof.Laws.Encodes.Statement (.sltu d a b wd) :=
  Sys2Proof.Laws.encodes_of rfl rfl (by have := Sys2Proof.Laws.width_lt wd; omega)
open Sys2Proof in
theorem Sys2Proof.Laws.Encodes.sel (d : Reg) (a : Reg) (b : Reg) (c : Reg) : Sys2Proof.Laws.Encodes.Statement (.sel d a b c) :=
  Sys2Proof.Laws.encodes_of rfl rfl (by omega)
open Sys2Proof in
theorem Sys2Proof.Laws.Encodes.addi (d : Reg) (a : Reg) (i : Fin 65536) : Sys2Proof.Laws.Encodes.Statement (.addi d a i) :=
  Sys2Proof.Laws.encodes_of rfl rfl (by omega)
open Sys2Proof in
theorem Sys2Proof.Laws.Encodes.andi (d : Reg) (a : Reg) (i : Fin 65536) : Sys2Proof.Laws.Encodes.Statement (.andi d a i) :=
  Sys2Proof.Laws.encodes_of rfl rfl (by omega)
open Sys2Proof in
theorem Sys2Proof.Laws.Encodes.ori (d : Reg) (a : Reg) (i : Fin 65536) : Sys2Proof.Laws.Encodes.Statement (.ori d a i) :=
  Sys2Proof.Laws.encodes_of rfl rfl (by omega)
open Sys2Proof in
theorem Sys2Proof.Laws.Encodes.xori (d : Reg) (a : Reg) (i : Fin 65536) : Sys2Proof.Laws.Encodes.Statement (.xori d a i) :=
  Sys2Proof.Laws.encodes_of rfl rfl (by omega)
open Sys2Proof in
theorem Sys2Proof.Laws.Encodes.shli (d : Reg) (a : Reg) (n : Fin 64) : Sys2Proof.Laws.Encodes.Statement (.shli d a n) :=
  Sys2Proof.Laws.encodes_of rfl rfl (by omega)
open Sys2Proof in
theorem Sys2Proof.Laws.Encodes.shri (d : Reg) (a : Reg) (n : Fin 64) : Sys2Proof.Laws.Encodes.Statement (.shri d a n) :=
  Sys2Proof.Laws.encodes_of rfl rfl (by omega)
open Sys2Proof in
theorem Sys2Proof.Laws.Encodes.sari (d : Reg) (a : Reg) (n : Fin 64) : Sys2Proof.Laws.Encodes.Statement (.sari d a n) :=
  Sys2Proof.Laws.encodes_of rfl rfl (by omega)
open Sys2Proof in
theorem Sys2Proof.Laws.Encodes.roti (d : Reg) (a : Reg) (n : Fin 64) : Sys2Proof.Laws.Encodes.Statement (.roti d a n) :=
  Sys2Proof.Laws.encodes_of rfl rfl (by omega)
open Sys2Proof in
theorem Sys2Proof.Laws.Encodes.ldk (d : Reg) (k : Fin 4) (c : Fin 65536) : Sys2Proof.Laws.Encodes.Statement (.ldk d k c) :=
  Sys2Proof.Laws.encodes_of rfl rfl (by omega)
open Sys2Proof in
theorem Sys2Proof.Laws.Encodes.mov (d : Reg) (a : Reg) : Sys2Proof.Laws.Encodes.Statement (.mov d a) :=
  Sys2Proof.Laws.encodes_of rfl rfl (by omega)
open Sys2Proof in
theorem Sys2Proof.Laws.Encodes.clz (d : Reg) (a : Reg) : Sys2Proof.Laws.Encodes.Statement (.clz d a) :=
  Sys2Proof.Laws.encodes_of rfl rfl (by omega)
open Sys2Proof in
theorem Sys2Proof.Laws.Encodes.ctz (d : Reg) (a : Reg) : Sys2Proof.Laws.Encodes.Statement (.ctz d a) :=
  Sys2Proof.Laws.encodes_of rfl rfl (by omega)
open Sys2Proof in
theorem Sys2Proof.Laws.Encodes.popc (d : Reg) (a : Reg) : Sys2Proof.Laws.Encodes.Statement (.popc d a) :=
  Sys2Proof.Laws.encodes_of rfl rfl (by omega)
open Sys2Proof in
theorem Sys2Proof.Laws.Encodes.ext (d : Reg) (a : Reg) (z : Bool) (wd : Width) : Sys2Proof.Laws.Encodes.Statement (.ext d a z wd) :=
  Sys2Proof.Laws.encodes_of rfl rfl (by have := Sys2Proof.Laws.bit_lt z; have := Sys2Proof.Laws.width_lt wd; omega)
open Sys2Proof in
theorem Sys2Proof.Laws.Encodes.bfx (d : Reg) (a : Reg) (l : Fin 64) (s : Bool) (p : Fin 64) : Sys2Proof.Laws.Encodes.Statement (.bfx d a l s p) :=
  Sys2Proof.Laws.encodes_of rfl rfl (by have := Sys2Proof.Laws.bit_lt s; omega)
open Sys2Proof in
theorem Sys2Proof.Laws.Encodes.bfi (d : Reg) (a : Reg) (l : Fin 64) (p : Fin 64) : Sys2Proof.Laws.Encodes.Statement (.bfi d a l p) :=
  Sys2Proof.Laws.encodes_of rfl rfl (by omega)
open Sys2Proof in
theorem Sys2Proof.Laws.Encodes.beq (a : Reg) (b : Reg) (i : Fin 65536) : Sys2Proof.Laws.Encodes.Statement (.beq a b i) :=
  Sys2Proof.Laws.encodes_of rfl rfl (by omega)
open Sys2Proof in
theorem Sys2Proof.Laws.Encodes.bne (a : Reg) (b : Reg) (i : Fin 65536) : Sys2Proof.Laws.Encodes.Statement (.bne a b i) :=
  Sys2Proof.Laws.encodes_of rfl rfl (by omega)
open Sys2Proof in
theorem Sys2Proof.Laws.Encodes.blt (a : Reg) (b : Reg) (i : Fin 65536) : Sys2Proof.Laws.Encodes.Statement (.blt a b i) :=
  Sys2Proof.Laws.encodes_of rfl rfl (by omega)
open Sys2Proof in
theorem Sys2Proof.Laws.Encodes.bge (a : Reg) (b : Reg) (i : Fin 65536) : Sys2Proof.Laws.Encodes.Statement (.bge a b i) :=
  Sys2Proof.Laws.encodes_of rfl rfl (by omega)
open Sys2Proof in
theorem Sys2Proof.Laws.Encodes.bltu (a : Reg) (b : Reg) (i : Fin 65536) : Sys2Proof.Laws.Encodes.Statement (.bltu a b i) :=
  Sys2Proof.Laws.encodes_of rfl rfl (by omega)
open Sys2Proof in
theorem Sys2Proof.Laws.Encodes.bgeu (a : Reg) (b : Reg) (i : Fin 65536) : Sys2Proof.Laws.Encodes.Statement (.bgeu a b i) :=
  Sys2Proof.Laws.encodes_of rfl rfl (by omega)
open Sys2Proof in
theorem Sys2Proof.Laws.Encodes.jmp (i : Fin 67108864) : Sys2Proof.Laws.Encodes.Statement (.jmp i) :=
  Sys2Proof.Laws.encodes_of rfl rfl (by omega)
open Sys2Proof in
theorem Sys2Proof.Laws.Encodes.call (i : Fin 67108864) : Sys2Proof.Laws.Encodes.Statement (.call i) :=
  Sys2Proof.Laws.encodes_of rfl rfl (by omega)
open Sys2Proof in
theorem Sys2Proof.Laws.Encodes.jr (a : Reg) : Sys2Proof.Laws.Encodes.Statement (.jr a) :=
  Sys2Proof.Laws.encodes_of rfl rfl (by omega)
open Sys2Proof in
theorem Sys2Proof.Laws.Encodes.callr (d : Reg) (a : Reg) : Sys2Proof.Laws.Encodes.Statement (.callr d a) :=
  Sys2Proof.Laws.encodes_of rfl rfl (by omega)
open Sys2Proof in
theorem Sys2Proof.Laws.Encodes.loop (l : Fin 4) (c : Reg) (n : Fin 4096) : Sys2Proof.Laws.Encodes.Statement (.loop l c n) :=
  Sys2Proof.Laws.encodes_of rfl rfl (by omega)
open Sys2Proof in
theorem Sys2Proof.Laws.Encodes.ld (d : Reg) (b : Reg) (z : LdSize) (o : Fin 8192) : Sys2Proof.Laws.Encodes.Statement (.ld d b z o) :=
  Sys2Proof.Laws.encodes_of rfl rfl (by have := Sys2Proof.Laws.ldSize_lt z; omega)
open Sys2Proof in
theorem Sys2Proof.Laws.Encodes.st (d : Reg) (b : Reg) (z : Width) (o : Fin 8192) : Sys2Proof.Laws.Encodes.Statement (.st d b z o) :=
  Sys2Proof.Laws.encodes_of rfl rfl (by have := Sys2Proof.Laws.width_lt z; omega)
open Sys2Proof in
theorem Sys2Proof.Laws.Encodes.ldV (v : VReg) (b : Reg) (o : Fin 8192) : Sys2Proof.Laws.Encodes.Statement (.ldV v b o) :=
  Sys2Proof.Laws.encodes_of rfl rfl (by omega)
open Sys2Proof in
theorem Sys2Proof.Laws.Encodes.stV (v : VReg) (b : Reg) (o : Fin 8192) : Sys2Proof.Laws.Encodes.Statement (.stV v b o) :=
  Sys2Proof.Laws.encodes_of rfl rfl (by omega)
open Sys2Proof in
theorem Sys2Proof.Laws.Encodes.amoAdd (d : Reg) (a : Reg) (b : Reg) (w32 : Bool) (sc : Scope) (o : Order) : Sys2Proof.Laws.Encodes.Statement (.amoAdd d a b w32 sc o) :=
  Sys2Proof.Laws.encodes_of rfl rfl (by have := Sys2Proof.Laws.bit_lt w32; have := Sys2Proof.Laws.scope_lt sc; have := Sys2Proof.Laws.order_lt o; omega)
open Sys2Proof in
theorem Sys2Proof.Laws.Encodes.amoMin (d : Reg) (a : Reg) (b : Reg) (w32 : Bool) (sc : Scope) (o : Order) : Sys2Proof.Laws.Encodes.Statement (.amoMin d a b w32 sc o) :=
  Sys2Proof.Laws.encodes_of rfl rfl (by have := Sys2Proof.Laws.bit_lt w32; have := Sys2Proof.Laws.scope_lt sc; have := Sys2Proof.Laws.order_lt o; omega)
open Sys2Proof in
theorem Sys2Proof.Laws.Encodes.amoMax (d : Reg) (a : Reg) (b : Reg) (w32 : Bool) (sc : Scope) (o : Order) : Sys2Proof.Laws.Encodes.Statement (.amoMax d a b w32 sc o) :=
  Sys2Proof.Laws.encodes_of rfl rfl (by have := Sys2Proof.Laws.bit_lt w32; have := Sys2Proof.Laws.scope_lt sc; have := Sys2Proof.Laws.order_lt o; omega)
open Sys2Proof in
theorem Sys2Proof.Laws.Encodes.amoAnd (d : Reg) (a : Reg) (b : Reg) (w32 : Bool) (sc : Scope) (o : Order) : Sys2Proof.Laws.Encodes.Statement (.amoAnd d a b w32 sc o) :=
  Sys2Proof.Laws.encodes_of rfl rfl (by have := Sys2Proof.Laws.bit_lt w32; have := Sys2Proof.Laws.scope_lt sc; have := Sys2Proof.Laws.order_lt o; omega)
open Sys2Proof in
theorem Sys2Proof.Laws.Encodes.amoOr (d : Reg) (a : Reg) (b : Reg) (w32 : Bool) (sc : Scope) (o : Order) : Sys2Proof.Laws.Encodes.Statement (.amoOr d a b w32 sc o) :=
  Sys2Proof.Laws.encodes_of rfl rfl (by have := Sys2Proof.Laws.bit_lt w32; have := Sys2Proof.Laws.scope_lt sc; have := Sys2Proof.Laws.order_lt o; omega)
open Sys2Proof in
theorem Sys2Proof.Laws.Encodes.amoXor (d : Reg) (a : Reg) (b : Reg) (w32 : Bool) (sc : Scope) (o : Order) : Sys2Proof.Laws.Encodes.Statement (.amoXor d a b w32 sc o) :=
  Sys2Proof.Laws.encodes_of rfl rfl (by have := Sys2Proof.Laws.bit_lt w32; have := Sys2Proof.Laws.scope_lt sc; have := Sys2Proof.Laws.order_lt o; omega)
open Sys2Proof in
theorem Sys2Proof.Laws.Encodes.amoSwp (d : Reg) (a : Reg) (b : Reg) (w32 : Bool) (sc : Scope) (o : Order) : Sys2Proof.Laws.Encodes.Statement (.amoSwp d a b w32 sc o) :=
  Sys2Proof.Laws.encodes_of rfl rfl (by have := Sys2Proof.Laws.bit_lt w32; have := Sys2Proof.Laws.scope_lt sc; have := Sys2Proof.Laws.order_lt o; omega)
open Sys2Proof in
theorem Sys2Proof.Laws.Encodes.amoCas (d : Reg) (a : Reg) (b : Reg) (w32 : Bool) (sc : Scope) (o : Order) : Sys2Proof.Laws.Encodes.Statement (.amoCas d a b w32 sc o) :=
  Sys2Proof.Laws.encodes_of rfl rfl (by have := Sys2Proof.Laws.bit_lt w32; have := Sys2Proof.Laws.scope_lt sc; have := Sys2Proof.Laws.order_lt o; omega)
open Sys2Proof in
theorem Sys2Proof.Laws.Encodes.ldScoped (d : Reg) (a : Reg) (b : Fin 32) (z : LdSize) (sc : Scope) (o : Order) : Sys2Proof.Laws.Encodes.Statement (.ldScoped d a b z sc o) :=
  Sys2Proof.Laws.encodes_of rfl rfl (by have := Sys2Proof.Laws.ldSize_lt z; have := Sys2Proof.Laws.scope_lt sc; have := Sys2Proof.Laws.order_lt o; omega)
open Sys2Proof in
theorem Sys2Proof.Laws.Encodes.stScoped (d : Reg) (a : Reg) (b : Fin 32) (z : Width) (sc : Scope) (o : Order) : Sys2Proof.Laws.Encodes.Statement (.stScoped d a b z sc o) :=
  Sys2Proof.Laws.encodes_of rfl rfl (by have := Sys2Proof.Laws.width_lt z; have := Sys2Proof.Laws.scope_lt sc; have := Sys2Proof.Laws.order_lt o; omega)
open Sys2Proof in
theorem Sys2Proof.Laws.Encodes.fence (sc : Scope) (o : Order) : Sys2Proof.Laws.Encodes.Statement (.fence sc o) :=
  Sys2Proof.Laws.encodes_of rfl rfl (by have := Sys2Proof.Laws.scope_lt sc; have := Sys2Proof.Laws.order_lt o; omega)
open Sys2Proof in
theorem Sys2Proof.Laws.Encodes.barInit (a : Reg) (b : Reg) : Sys2Proof.Laws.Encodes.Statement (.barInit a b) :=
  Sys2Proof.Laws.encodes_of rfl rfl (by omega)
open Sys2Proof in
theorem Sys2Proof.Laws.Encodes.barArr (d : Reg) (a : Reg) : Sys2Proof.Laws.Encodes.Statement (.barArr d a) :=
  Sys2Proof.Laws.encodes_of rfl rfl (by omega)
open Sys2Proof in
theorem Sys2Proof.Laws.Encodes.barDrop (d : Reg) (a : Reg) : Sys2Proof.Laws.Encodes.Statement (.barDrop d a) :=
  Sys2Proof.Laws.encodes_of rfl rfl (by omega)
open Sys2Proof in
theorem Sys2Proof.Laws.Encodes.barWait (d : Reg) (a : Reg) (b : Reg) : Sys2Proof.Laws.Encodes.Statement (.barWait d a b) :=
  Sys2Proof.Laws.encodes_of rfl rfl (by omega)
open Sys2Proof in
theorem Sys2Proof.Laws.Encodes.barQ (d : Reg) (a : Reg) : Sys2Proof.Laws.Encodes.Statement (.barQ d a) :=
  Sys2Proof.Laws.encodes_of rfl rfl (by omega)
open Sys2Proof in
theorem Sys2Proof.Laws.Encodes.rngInit (a : Reg) (b : Reg) : Sys2Proof.Laws.Encodes.Statement (.rngInit a b) :=
  Sys2Proof.Laws.encodes_of rfl rfl (by omega)
open Sys2Proof in
theorem Sys2Proof.Laws.Encodes.rngRsv (d : Reg) (a : Reg) (b : Reg) : Sys2Proof.Laws.Encodes.Statement (.rngRsv d a b) :=
  Sys2Proof.Laws.encodes_of rfl rfl (by omega)
open Sys2Proof in
theorem Sys2Proof.Laws.Encodes.rngPub (a : Reg) (b : Reg) : Sys2Proof.Laws.Encodes.Statement (.rngPub a b) :=
  Sys2Proof.Laws.encodes_of rfl rfl (by omega)
open Sys2Proof in
theorem Sys2Proof.Laws.Encodes.rngTake (d : Reg) (a : Reg) (b : Reg) : Sys2Proof.Laws.Encodes.Statement (.rngTake d a b) :=
  Sys2Proof.Laws.encodes_of rfl rfl (by omega)
open Sys2Proof in
theorem Sys2Proof.Laws.Encodes.rngQ (d : Reg) (a : Reg) : Sys2Proof.Laws.Encodes.Statement (.rngQ d a) :=
  Sys2Proof.Laws.encodes_of rfl rfl (by omega)
open Sys2Proof in
theorem Sys2Proof.Laws.Encodes.ppoll (d : Reg) (k : Fin 4) : Sys2Proof.Laws.Encodes.Statement (.ppoll d k) :=
  Sys2Proof.Laws.encodes_of rfl rfl (by omega)
open Sys2Proof in
theorem Sys2Proof.Laws.Encodes.pdrain (d : Reg) (k : Fin 4) : Sys2Proof.Laws.Encodes.Statement (.pdrain d k) :=
  Sys2Proof.Laws.encodes_of rfl rfl (by omega)
open Sys2Proof in
theorem Sys2Proof.Laws.Encodes.fld (d : Reg) (b : Reg) (z : LdSize) (o : Fin 4096) : Sys2Proof.Laws.Encodes.Statement (.fld d b z o) :=
  Sys2Proof.Laws.encodes_of rfl rfl (by have := Sys2Proof.Laws.ldSize_lt z; omega)
open Sys2Proof in
theorem Sys2Proof.Laws.Encodes.fst (d : Reg) (b : Reg) (z : Width) (o : Fin 4096) : Sys2Proof.Laws.Encodes.Statement (.fst d b z o) :=
  Sys2Proof.Laws.encodes_of rfl rfl (by have := Sys2Proof.Laws.width_lt z; omega)
open Sys2Proof in
theorem Sys2Proof.Laws.Encodes.push (n : Reg) (a : Reg) (b : Reg) : Sys2Proof.Laws.Encodes.Statement (.push n a b) :=
  Sys2Proof.Laws.encodes_of rfl rfl (by omega)
open Sys2Proof in
theorem Sys2Proof.Laws.Encodes.pull (n : Reg) (a : Reg) (b : Reg) : Sys2Proof.Laws.Encodes.Statement (.pull n a b) :=
  Sys2Proof.Laws.encodes_of rfl rfl (by omega)
open Sys2Proof in
theorem Sys2Proof.Laws.Encodes.vadd (d : VReg) (a : VReg) (b : VReg) (t : ILane) (s : Sat) : Sys2Proof.Laws.Encodes.Statement (.vadd d a b t s) :=
  Sys2Proof.Laws.encodes_of rfl rfl (by have := Sys2Proof.Laws.iLane_lt t; have := Sys2Proof.Laws.sat_lt s; omega)
open Sys2Proof in
theorem Sys2Proof.Laws.Encodes.vsub (d : VReg) (a : VReg) (b : VReg) (t : ILane) (s : Sat) : Sys2Proof.Laws.Encodes.Statement (.vsub d a b t s) :=
  Sys2Proof.Laws.encodes_of rfl rfl (by have := Sys2Proof.Laws.iLane_lt t; have := Sys2Proof.Laws.sat_lt s; omega)
open Sys2Proof in
theorem Sys2Proof.Laws.Encodes.vmul (d : VReg) (a : VReg) (b : VReg) (t : ILane) (s : Sat) : Sys2Proof.Laws.Encodes.Statement (.vmul d a b t s) :=
  Sys2Proof.Laws.encodes_of rfl rfl (by have := Sys2Proof.Laws.iLane_lt t; have := Sys2Proof.Laws.sat_lt s; omega)
open Sys2Proof in
theorem Sys2Proof.Laws.Encodes.vmla (d : VReg) (a : VReg) (b : VReg) (t : ILane) (s : Sat) : Sys2Proof.Laws.Encodes.Statement (.vmla d a b t s) :=
  Sys2Proof.Laws.encodes_of rfl rfl (by have := Sys2Proof.Laws.iLane_lt t; have := Sys2Proof.Laws.sat_lt s; omega)
open Sys2Proof in
theorem Sys2Proof.Laws.Encodes.vmin (d : VReg) (a : VReg) (b : VReg) (t : ILane) : Sys2Proof.Laws.Encodes.Statement (.vmin d a b t) :=
  Sys2Proof.Laws.encodes_of rfl rfl (by have := Sys2Proof.Laws.iLane_lt t; omega)
open Sys2Proof in
theorem Sys2Proof.Laws.Encodes.vmax (d : VReg) (a : VReg) (b : VReg) (t : ILane) : Sys2Proof.Laws.Encodes.Statement (.vmax d a b t) :=
  Sys2Proof.Laws.encodes_of rfl rfl (by have := Sys2Proof.Laws.iLane_lt t; omega)
open Sys2Proof in
theorem Sys2Proof.Laws.Encodes.vabs (d : VReg) (a : VReg) (t : ILane) (s : Sat) : Sys2Proof.Laws.Encodes.Statement (.vabs d a t s) :=
  Sys2Proof.Laws.encodes_of rfl rfl (by have := Sys2Proof.Laws.iLane_lt t; have := Sys2Proof.Laws.sat_lt s; omega)
open Sys2Proof in
theorem Sys2Proof.Laws.Encodes.vneg (d : VReg) (a : VReg) (t : ILane) (s : Sat) : Sys2Proof.Laws.Encodes.Statement (.vneg d a t s) :=
  Sys2Proof.Laws.encodes_of rfl rfl (by have := Sys2Proof.Laws.iLane_lt t; have := Sys2Proof.Laws.sat_lt s; omega)
open Sys2Proof in
theorem Sys2Proof.Laws.Encodes.vand (d : VReg) (a : VReg) (b : VReg) (t : ILane) : Sys2Proof.Laws.Encodes.Statement (.vand d a b t) :=
  Sys2Proof.Laws.encodes_of rfl rfl (by have := Sys2Proof.Laws.iLane_lt t; omega)
open Sys2Proof in
theorem Sys2Proof.Laws.Encodes.vor (d : VReg) (a : VReg) (b : VReg) (t : ILane) : Sys2Proof.Laws.Encodes.Statement (.vor d a b t) :=
  Sys2Proof.Laws.encodes_of rfl rfl (by have := Sys2Proof.Laws.iLane_lt t; omega)
open Sys2Proof in
theorem Sys2Proof.Laws.Encodes.vxor (d : VReg) (a : VReg) (b : VReg) (t : ILane) : Sys2Proof.Laws.Encodes.Statement (.vxor d a b t) :=
  Sys2Proof.Laws.encodes_of rfl rfl (by have := Sys2Proof.Laws.iLane_lt t; omega)
open Sys2Proof in
theorem Sys2Proof.Laws.Encodes.vandn (d : VReg) (a : VReg) (b : VReg) (t : ILane) : Sys2Proof.Laws.Encodes.Statement (.vandn d a b t) :=
  Sys2Proof.Laws.encodes_of rfl rfl (by have := Sys2Proof.Laws.iLane_lt t; omega)
open Sys2Proof in
theorem Sys2Proof.Laws.Encodes.vshl (d : VReg) (a : VReg) (b : VReg) (t : ILane) (s : Sat) : Sys2Proof.Laws.Encodes.Statement (.vshl d a b t s) :=
  Sys2Proof.Laws.encodes_of rfl rfl (by have := Sys2Proof.Laws.iLane_lt t; have := Sys2Proof.Laws.sat_lt s; omega)
open Sys2Proof in
theorem Sys2Proof.Laws.Encodes.vshr (d : VReg) (a : VReg) (b : VReg) (t : ILane) : Sys2Proof.Laws.Encodes.Statement (.vshr d a b t) :=
  Sys2Proof.Laws.encodes_of rfl rfl (by have := Sys2Proof.Laws.iLane_lt t; omega)
open Sys2Proof in
theorem Sys2Proof.Laws.Encodes.vceq (d : VReg) (a : VReg) (b : VReg) (t : ILane) : Sys2Proof.Laws.Encodes.Statement (.vceq d a b t) :=
  Sys2Proof.Laws.encodes_of rfl rfl (by have := Sys2Proof.Laws.iLane_lt t; omega)
open Sys2Proof in
theorem Sys2Proof.Laws.Encodes.vclt (d : VReg) (a : VReg) (b : VReg) (t : ILane) : Sys2Proof.Laws.Encodes.Statement (.vclt d a b t) :=
  Sys2Proof.Laws.encodes_of rfl rfl (by have := Sys2Proof.Laws.iLane_lt t; omega)
open Sys2Proof in
theorem Sys2Proof.Laws.Encodes.vcle (d : VReg) (a : VReg) (b : VReg) (t : ILane) : Sys2Proof.Laws.Encodes.Statement (.vcle d a b t) :=
  Sys2Proof.Laws.encodes_of rfl rfl (by have := Sys2Proof.Laws.iLane_lt t; omega)
open Sys2Proof in
theorem Sys2Proof.Laws.Encodes.vsel (d : VReg) (a : VReg) (b : VReg) (c : VReg) : Sys2Proof.Laws.Encodes.Statement (.vsel d a b c) :=
  Sys2Proof.Laws.encodes_of rfl rfl (by omega)
open Sys2Proof in
theorem Sys2Proof.Laws.Encodes.vfadd (d : VReg) (a : VReg) (b : VReg) (t : FLane) (r : Rnd) : Sys2Proof.Laws.Encodes.Statement (.vfadd d a b t r) :=
  Sys2Proof.Laws.encodes_of rfl rfl (by have := Sys2Proof.Laws.fLane_lt t; have := Sys2Proof.Laws.rnd_lt r; omega)
open Sys2Proof in
theorem Sys2Proof.Laws.Encodes.vfsub (d : VReg) (a : VReg) (b : VReg) (t : FLane) (r : Rnd) : Sys2Proof.Laws.Encodes.Statement (.vfsub d a b t r) :=
  Sys2Proof.Laws.encodes_of rfl rfl (by have := Sys2Proof.Laws.fLane_lt t; have := Sys2Proof.Laws.rnd_lt r; omega)
open Sys2Proof in
theorem Sys2Proof.Laws.Encodes.vfmul (d : VReg) (a : VReg) (b : VReg) (t : FLane) (r : Rnd) : Sys2Proof.Laws.Encodes.Statement (.vfmul d a b t r) :=
  Sys2Proof.Laws.encodes_of rfl rfl (by have := Sys2Proof.Laws.fLane_lt t; have := Sys2Proof.Laws.rnd_lt r; omega)
open Sys2Proof in
theorem Sys2Proof.Laws.Encodes.vfma (d : VReg) (a : VReg) (b : VReg) (t : FLane) (r : Rnd) : Sys2Proof.Laws.Encodes.Statement (.vfma d a b t r) :=
  Sys2Proof.Laws.encodes_of rfl rfl (by have := Sys2Proof.Laws.fLane_lt t; have := Sys2Proof.Laws.rnd_lt r; omega)
open Sys2Proof in
theorem Sys2Proof.Laws.Encodes.vfmin (d : VReg) (a : VReg) (b : VReg) (t : FLane) : Sys2Proof.Laws.Encodes.Statement (.vfmin d a b t) :=
  Sys2Proof.Laws.encodes_of rfl rfl (by have := Sys2Proof.Laws.fLane_lt t; omega)
open Sys2Proof in
theorem Sys2Proof.Laws.Encodes.vfmax (d : VReg) (a : VReg) (b : VReg) (t : FLane) : Sys2Proof.Laws.Encodes.Statement (.vfmax d a b t) :=
  Sys2Proof.Laws.encodes_of rfl rfl (by have := Sys2Proof.Laws.fLane_lt t; omega)
open Sys2Proof in
theorem Sys2Proof.Laws.Encodes.vfabs (d : VReg) (a : VReg) (t : FLane) : Sys2Proof.Laws.Encodes.Statement (.vfabs d a t) :=
  Sys2Proof.Laws.encodes_of rfl rfl (by have := Sys2Proof.Laws.fLane_lt t; omega)
open Sys2Proof in
theorem Sys2Proof.Laws.Encodes.vfneg (d : VReg) (a : VReg) (t : FLane) : Sys2Proof.Laws.Encodes.Statement (.vfneg d a t) :=
  Sys2Proof.Laws.encodes_of rfl rfl (by have := Sys2Proof.Laws.fLane_lt t; omega)
open Sys2Proof in
theorem Sys2Proof.Laws.Encodes.vfceq (d : VReg) (a : VReg) (b : VReg) (t : FLane) : Sys2Proof.Laws.Encodes.Statement (.vfceq d a b t) :=
  Sys2Proof.Laws.encodes_of rfl rfl (by have := Sys2Proof.Laws.fLane_lt t; omega)
open Sys2Proof in
theorem Sys2Proof.Laws.Encodes.vfclt (d : VReg) (a : VReg) (b : VReg) (t : FLane) : Sys2Proof.Laws.Encodes.Statement (.vfclt d a b t) :=
  Sys2Proof.Laws.encodes_of rfl rfl (by have := Sys2Proof.Laws.fLane_lt t; omega)
open Sys2Proof in
theorem Sys2Proof.Laws.Encodes.vfcle (d : VReg) (a : VReg) (b : VReg) (t : FLane) : Sys2Proof.Laws.Encodes.Statement (.vfcle d a b t) :=
  Sys2Proof.Laws.encodes_of rfl rfl (by have := Sys2Proof.Laws.fLane_lt t; omega)
open Sys2Proof in
theorem Sys2Proof.Laws.Encodes.vperm (d : VReg) (a : VReg) (b : VReg) (t : Lane) : Sys2Proof.Laws.Encodes.Statement (.vperm d a b t) :=
  Sys2Proof.Laws.encodes_of rfl rfl (by have := Sys2Proof.Laws.lane_lt t; omega)
open Sys2Proof in
theorem Sys2Proof.Laws.Encodes.vdot4 (d : VReg) (a : VReg) (b : VReg) (t : ILane) (s : Sat) : Sys2Proof.Laws.Encodes.Statement (.vdot4 d a b t s) :=
  Sys2Proof.Laws.encodes_of rfl rfl (by have := Sys2Proof.Laws.iLane_lt t; have := Sys2Proof.Laws.sat_lt s; omega)
open Sys2Proof in
theorem Sys2Proof.Laws.Encodes.vredAdd (d : VReg) (a : VReg) (t : Lane) : Sys2Proof.Laws.Encodes.Statement (.vredAdd d a t) :=
  Sys2Proof.Laws.encodes_of rfl rfl (by have := Sys2Proof.Laws.lane_lt t; omega)
open Sys2Proof in
theorem Sys2Proof.Laws.Encodes.vredMin (d : VReg) (a : VReg) (t : Lane) : Sys2Proof.Laws.Encodes.Statement (.vredMin d a t) :=
  Sys2Proof.Laws.encodes_of rfl rfl (by have := Sys2Proof.Laws.lane_lt t; omega)
open Sys2Proof in
theorem Sys2Proof.Laws.Encodes.vredMax (d : VReg) (a : VReg) (t : Lane) : Sys2Proof.Laws.Encodes.Statement (.vredMax d a t) :=
  Sys2Proof.Laws.encodes_of rfl rfl (by have := Sys2Proof.Laws.lane_lt t; omega)
open Sys2Proof in
theorem Sys2Proof.Laws.Encodes.vsplat (d : VReg) (r : Reg) (t : Lane) : Sys2Proof.Laws.Encodes.Statement (.vsplat d r t) :=
  Sys2Proof.Laws.encodes_of rfl rfl (by have := Sys2Proof.Laws.lane_lt t; omega)
open Sys2Proof in
theorem Sys2Proof.Laws.Encodes.vins (d : VReg) (r : Reg) (t : Lane) (i : Fin 16) : Sys2Proof.Laws.Encodes.Statement (.vins d r t i) :=
  Sys2Proof.Laws.encodes_of rfl rfl (by have := Sys2Proof.Laws.lane_lt t; omega)
open Sys2Proof in
theorem Sys2Proof.Laws.Encodes.vext (a : VReg) (r : Reg) (t : Lane) (i : Fin 16) : Sys2Proof.Laws.Encodes.Statement (.vext a r t i) :=
  Sys2Proof.Laws.encodes_of rfl rfl (by have := Sys2Proof.Laws.lane_lt t; omega)
open Sys2Proof in
theorem Sys2Proof.Laws.Encodes.tidx (d : Reg) (a : Reg) (s : Fin 16) : Sys2Proof.Laws.Encodes.Statement (.tidx d a s) :=
  Sys2Proof.Laws.encodes_of rfl rfl (by omega)
open Sys2Proof in
theorem Sys2Proof.Laws.Encodes.tset (e : Fin 16) (a : Reg) (n : Fin 6) : Sys2Proof.Laws.Encodes.Statement (.tset e a n) :=
  Sys2Proof.Laws.encodes_of rfl rfl (by omega)
open Sys2Proof in
theorem Sys2Proof.Laws.Encodes.fadd (d : Reg) (a : Reg) (b : Reg) (r : Rnd) (dbl : Bool) : Sys2Proof.Laws.Encodes.Statement (.fadd d a b r dbl) :=
  Sys2Proof.Laws.encodes_of rfl rfl (by have := Sys2Proof.Laws.rnd_lt r; have := Sys2Proof.Laws.bit_lt dbl; omega)
open Sys2Proof in
theorem Sys2Proof.Laws.Encodes.fsub (d : Reg) (a : Reg) (b : Reg) (r : Rnd) (dbl : Bool) : Sys2Proof.Laws.Encodes.Statement (.fsub d a b r dbl) :=
  Sys2Proof.Laws.encodes_of rfl rfl (by have := Sys2Proof.Laws.rnd_lt r; have := Sys2Proof.Laws.bit_lt dbl; omega)
open Sys2Proof in
theorem Sys2Proof.Laws.Encodes.fmul (d : Reg) (a : Reg) (b : Reg) (r : Rnd) (dbl : Bool) : Sys2Proof.Laws.Encodes.Statement (.fmul d a b r dbl) :=
  Sys2Proof.Laws.encodes_of rfl rfl (by have := Sys2Proof.Laws.rnd_lt r; have := Sys2Proof.Laws.bit_lt dbl; omega)
open Sys2Proof in
theorem Sys2Proof.Laws.Encodes.fma (d : Reg) (a : Reg) (b : Reg) (r : Rnd) (dbl : Bool) : Sys2Proof.Laws.Encodes.Statement (.fma d a b r dbl) :=
  Sys2Proof.Laws.encodes_of rfl rfl (by have := Sys2Proof.Laws.rnd_lt r; have := Sys2Proof.Laws.bit_lt dbl; omega)
open Sys2Proof in
theorem Sys2Proof.Laws.Encodes.fdiv (d : Reg) (a : Reg) (b : Reg) (r : Rnd) (dbl : Bool) : Sys2Proof.Laws.Encodes.Statement (.fdiv d a b r dbl) :=
  Sys2Proof.Laws.encodes_of rfl rfl (by have := Sys2Proof.Laws.rnd_lt r; have := Sys2Proof.Laws.bit_lt dbl; omega)
open Sys2Proof in
theorem Sys2Proof.Laws.Encodes.fsqrt (d : Reg) (a : Reg) (r : Rnd) (dbl : Bool) : Sys2Proof.Laws.Encodes.Statement (.fsqrt d a r dbl) :=
  Sys2Proof.Laws.encodes_of rfl rfl (by have := Sys2Proof.Laws.rnd_lt r; have := Sys2Proof.Laws.bit_lt dbl; omega)
open Sys2Proof in
theorem Sys2Proof.Laws.Encodes.fmin (d : Reg) (a : Reg) (b : Reg) (dbl : Bool) : Sys2Proof.Laws.Encodes.Statement (.fmin d a b dbl) :=
  Sys2Proof.Laws.encodes_of rfl rfl (by have := Sys2Proof.Laws.bit_lt dbl; omega)
open Sys2Proof in
theorem Sys2Proof.Laws.Encodes.fmax (d : Reg) (a : Reg) (b : Reg) (dbl : Bool) : Sys2Proof.Laws.Encodes.Statement (.fmax d a b dbl) :=
  Sys2Proof.Laws.encodes_of rfl rfl (by have := Sys2Proof.Laws.bit_lt dbl; omega)
open Sys2Proof in
theorem Sys2Proof.Laws.Encodes.fcmp (d : Reg) (a : Reg) (b : Reg) (dbl : Bool) : Sys2Proof.Laws.Encodes.Statement (.fcmp d a b dbl) :=
  Sys2Proof.Laws.encodes_of rfl rfl (by have := Sys2Proof.Laws.bit_lt dbl; omega)
open Sys2Proof in
theorem Sys2Proof.Laws.Encodes.cvt (d : Reg) (a : Reg) (f : Fin 8) (r : Rnd) (t : CvType) (c : CvType) : Sys2Proof.Laws.Encodes.Statement (.cvt d a f r t c) :=
  Sys2Proof.Laws.encodes_of rfl rfl (by have := Sys2Proof.Laws.rnd_lt r; have := Sys2Proof.Laws.cvType_lt t; have := Sys2Proof.Laws.cvType_lt c; omega)
open Sys2Proof in
theorem Sys2Proof.Laws.Encodes.fmtw (a : Reg) (n : Fin 8) : Sys2Proof.Laws.Encodes.Statement (.fmtw a n) :=
  Sys2Proof.Laws.encodes_of rfl rfl (by omega)
open Sys2Proof in
theorem Sys2Proof.Laws.Encodes.fmtr (d : Reg) (n : Fin 8) : Sys2Proof.Laws.Encodes.Statement (.fmtr d n) :=
  Sys2Proof.Laws.encodes_of rfl rfl (by omega)
open Sys2Proof in
theorem Sys2Proof.Laws.Encodes.qnt (d : VReg) (a : VReg) (b : VReg) (f : FmtId) (r : Rnd) (m : AmxSel) : Sys2Proof.Laws.Encodes.Statement (.qnt d a b f r m) :=
  Sys2Proof.Laws.encodes_of rfl rfl (by have := Sys2Proof.Laws.rnd_lt r; have := Sys2Proof.Laws.amx_lt m; omega)
open Sys2Proof in
theorem Sys2Proof.Laws.Encodes.dqt (d : VReg) (a : VReg) (b : VReg) (f : FmtId) (r : Rnd) (m : AmxSel) : Sys2Proof.Laws.Encodes.Statement (.dqt d a b f r m) :=
  Sys2Proof.Laws.encodes_of rfl rfl (by have := Sys2Proof.Laws.rnd_lt r; have := Sys2Proof.Laws.amx_lt m; omega)
open Sys2Proof in
theorem Sys2Proof.Laws.Encodes.amxRd (d : Reg) (m : Fin 4) : Sys2Proof.Laws.Encodes.Statement (.amxRd d m) :=
  Sys2Proof.Laws.encodes_of rfl rfl (by omega)
open Sys2Proof in
theorem Sys2Proof.Laws.Encodes.fsin (d : Reg) (a : Reg) (r : Rnd) : Sys2Proof.Laws.Encodes.Statement (.fsin d a r) :=
  Sys2Proof.Laws.encodes_of rfl rfl (by have := Sys2Proof.Laws.rnd_lt r; omega)
open Sys2Proof in
theorem Sys2Proof.Laws.Encodes.fcos (d : Reg) (a : Reg) (r : Rnd) : Sys2Proof.Laws.Encodes.Statement (.fcos d a r) :=
  Sys2Proof.Laws.encodes_of rfl rfl (by have := Sys2Proof.Laws.rnd_lt r; omega)
open Sys2Proof in
theorem Sys2Proof.Laws.Encodes.fexp2 (d : Reg) (a : Reg) (r : Rnd) : Sys2Proof.Laws.Encodes.Statement (.fexp2 d a r) :=
  Sys2Proof.Laws.encodes_of rfl rfl (by have := Sys2Proof.Laws.rnd_lt r; omega)
open Sys2Proof in
theorem Sys2Proof.Laws.Encodes.flog2 (d : Reg) (a : Reg) (r : Rnd) : Sys2Proof.Laws.Encodes.Statement (.flog2 d a r) :=
  Sys2Proof.Laws.encodes_of rfl rfl (by have := Sys2Proof.Laws.rnd_lt r; omega)
open Sys2Proof in
theorem Sys2Proof.Laws.Encodes.frcp (d : Reg) (a : Reg) (r : Rnd) : Sys2Proof.Laws.Encodes.Statement (.frcp d a r) :=
  Sys2Proof.Laws.encodes_of rfl rfl (by have := Sys2Proof.Laws.rnd_lt r; omega)
open Sys2Proof in
theorem Sys2Proof.Laws.Encodes.frsq (d : Reg) (a : Reg) (r : Rnd) : Sys2Proof.Laws.Encodes.Statement (.frsq d a r) :=
  Sys2Proof.Laws.encodes_of rfl rfl (by have := Sys2Proof.Laws.rnd_lt r; omega)
open Sys2Proof in
theorem Sys2Proof.Laws.Encodes.ftanh (d : Reg) (a : Reg) (r : Rnd) : Sys2Proof.Laws.Encodes.Statement (.ftanh d a r) :=
  Sys2Proof.Laws.encodes_of rfl rfl (by have := Sys2Proof.Laws.rnd_lt r; omega)
open Sys2Proof in
theorem Sys2Proof.Laws.Encodes.fmtp (a : Fin 8) (b : Fin 8) (o : Fin 8) (r : Rnd) : Sys2Proof.Laws.Encodes.Statement (.fmtp a b o r) :=
  Sys2Proof.Laws.encodes_of rfl rfl (by have := Sys2Proof.Laws.rnd_lt r; omega)
open Sys2Proof in
theorem Sys2Proof.Laws.Encodes.mma (a : Reg) (b : Reg) (t : TokId) (k : Fin 4) : Sys2Proof.Laws.Encodes.Statement (.mma a b t k) :=
  Sys2Proof.Laws.encodes_of rfl rfl (by omega)
open Sys2Proof in
theorem Sys2Proof.Laws.Encodes.mmaL (a : Reg) (b : Reg) (t : TokId) (k : Fin 4) : Sys2Proof.Laws.Encodes.Statement (.mmaL a b t k) :=
  Sys2Proof.Laws.encodes_of rfl rfl (by omega)
open Sys2Proof in
theorem Sys2Proof.Laws.Encodes.mmaZ (a : Reg) (b : Reg) (t : TokId) (k : Fin 4) : Sys2Proof.Laws.Encodes.Statement (.mmaZ a b t k) :=
  Sys2Proof.Laws.encodes_of rfl rfl (by omega)
open Sys2Proof in
theorem Sys2Proof.Laws.Encodes.mmaZL (a : Reg) (b : Reg) (t : TokId) (k : Fin 4) : Sys2Proof.Laws.Encodes.Statement (.mmaZL a b t k) :=
  Sys2Proof.Laws.encodes_of rfl rfl (by omega)
open Sys2Proof in
theorem Sys2Proof.Laws.Encodes.accz (t : TokId) (k : Fin 4) : Sys2Proof.Laws.Encodes.Statement (.accz t k) :=
  Sys2Proof.Laws.encodes_of rfl rfl (by omega)
open Sys2Proof in
theorem Sys2Proof.Laws.Encodes.accld (a : Reg) (b : Reg) (t : TokId) (k : Fin 4) : Sys2Proof.Laws.Encodes.Statement (.accld a b t k) :=
  Sys2Proof.Laws.encodes_of rfl rfl (by omega)
open Sys2Proof in
theorem Sys2Proof.Laws.Encodes.drn (a : Reg) (b : Reg) (t : TokId) (m : AmxSel) (e : Bool) (k : Fin 4) : Sys2Proof.Laws.Encodes.Statement (.drn a b t m e k) :=
  Sys2Proof.Laws.encodes_of rfl rfl (by have := Sys2Proof.Laws.amx_lt m; have := Sys2Proof.Laws.bit_lt e; omega)
open Sys2Proof in
theorem Sys2Proof.Laws.Encodes.drnT (a : Reg) (b : Reg) (t : TokId) (m : AmxSel) (e : Bool) (k : Fin 4) : Sys2Proof.Laws.Encodes.Statement (.drnT a b t m e k) :=
  Sys2Proof.Laws.encodes_of rfl rfl (by have := Sys2Proof.Laws.amx_lt m; have := Sys2Proof.Laws.bit_lt e; omega)
open Sys2Proof in
theorem Sys2Proof.Laws.Encodes.psumAdd (a : Reg) (b : Reg) (t : TokId) (k : Fin 4) : Sys2Proof.Laws.Encodes.Statement (.psumAdd a b t k) :=
  Sys2Proof.Laws.encodes_of rfl rfl (by omega)
open Sys2Proof in
theorem Sys2Proof.Laws.Encodes.mqStat (d : Reg) : Sys2Proof.Laws.Encodes.Statement (.mqStat d) :=
  Sys2Proof.Laws.encodes_of rfl rfl (by omega)
open Sys2Proof in
theorem Sys2Proof.Laws.Encodes.mqNan (d : Reg) (k : Fin 4) : Sys2Proof.Laws.Encodes.Statement (.mqNan d k) :=
  Sys2Proof.Laws.encodes_of rfl rfl (by omega)
open Sys2Proof in
theorem Sys2Proof.Laws.Encodes.mqCap (d : Reg) : Sys2Proof.Laws.Encodes.Statement (.mqCap d) :=
  Sys2Proof.Laws.encodes_of rfl rfl (by omega)
open Sys2Proof in
theorem Sys2Proof.Laws.Encodes.vxEw (a : Reg) (b : Reg) (t : TokId) (m : AmxSel) (y : Bool) : Sys2Proof.Laws.Encodes.Statement (.vxEw a b t m y) :=
  Sys2Proof.Laws.encodes_of rfl rfl (by have := Sys2Proof.Laws.amx_lt m; have := Sys2Proof.Laws.bit_lt y; omega)
open Sys2Proof in
theorem Sys2Proof.Laws.Encodes.vxRed (a : Reg) (b : Reg) (t : TokId) (m : AmxSel) : Sys2Proof.Laws.Encodes.Statement (.vxRed a b t m) :=
  Sys2Proof.Laws.encodes_of rfl rfl (by have := Sys2Proof.Laws.amx_lt m; omega)
open Sys2Proof in
theorem Sys2Proof.Laws.Encodes.vxCvt (a : Reg) (b : Reg) (t : TokId) (m : AmxSel) : Sys2Proof.Laws.Encodes.Statement (.vxCvt a b t m) :=
  Sys2Proof.Laws.encodes_of rfl rfl (by have := Sys2Proof.Laws.amx_lt m; omega)
open Sys2Proof in
theorem Sys2Proof.Laws.Encodes.vxSfn (a : Reg) (b : Reg) (t : TokId) (m : AmxSel) : Sys2Proof.Laws.Encodes.Statement (.vxSfn a b t m) :=
  Sys2Proof.Laws.encodes_of rfl rfl (by have := Sys2Proof.Laws.amx_lt m; omega)
open Sys2Proof in
theorem Sys2Proof.Laws.Encodes.vxGth (a : Reg) (b : Reg) (t : TokId) : Sys2Proof.Laws.Encodes.Statement (.vxGth a b t) :=
  Sys2Proof.Laws.encodes_of rfl rfl (by omega)
open Sys2Proof in
theorem Sys2Proof.Laws.Encodes.vxSct (a : Reg) (b : Reg) (t : TokId) : Sys2Proof.Laws.Encodes.Statement (.vxSct a b t) :=
  Sys2Proof.Laws.encodes_of rfl rfl (by omega)
open Sys2Proof in
theorem Sys2Proof.Laws.Encodes.cpyGo (a : Reg) (t : TokId) (c : Fin 4) : Sys2Proof.Laws.Encodes.Statement (.cpyGo a t c) :=
  Sys2Proof.Laws.encodes_of rfl rfl (by omega)
open Sys2Proof in
theorem Sys2Proof.Laws.Encodes.taskSpawn (a : Reg) (b : Reg) (t : TokId) : Sys2Proof.Laws.Encodes.Statement (.taskSpawn a b t) :=
  Sys2Proof.Laws.encodes_of rfl rfl (by omega)
open Sys2Proof in
theorem Sys2Proof.Laws.Encodes.taskCard (a : Reg) (b : Reg) (t : TokId) : Sys2Proof.Laws.Encodes.Statement (.taskCard a b t) :=
  Sys2Proof.Laws.encodes_of rfl rfl (by omega)
open Sys2Proof in
theorem Sys2Proof.Laws.Encodes.tokExp (a : Reg) (t : TokId) : Sys2Proof.Laws.Encodes.Statement (.tokExp a t) :=
  Sys2Proof.Laws.encodes_of rfl rfl (by omega)
open Sys2Proof in
theorem Sys2Proof.Laws.Encodes.tokWaitSrc (t : TokId) : Sys2Proof.Laws.Encodes.Statement (.tokWaitSrc t) :=
  Sys2Proof.Laws.encodes_of rfl rfl (by omega)
open Sys2Proof in
theorem Sys2Proof.Laws.Encodes.tokWaitVis (t : TokId) : Sys2Proof.Laws.Encodes.Statement (.tokWaitVis t) :=
  Sys2Proof.Laws.encodes_of rfl rfl (by omega)
open Sys2Proof in
theorem Sys2Proof.Laws.Encodes.tokBind (a : Reg) (t : TokId) : Sys2Proof.Laws.Encodes.Statement (.tokBind a t) :=
  Sys2Proof.Laws.encodes_of rfl rfl (by omega)
open Sys2Proof in
theorem Sys2Proof.Laws.Encodes.tokRd (d : Reg) (t : TokId) : Sys2Proof.Laws.Encodes.Statement (.tokRd d t) :=
  Sys2Proof.Laws.encodes_of rfl rfl (by omega)
open Sys2Proof in
theorem Sys2Proof.Laws.Encodes.efence (e : Fin 8) : Sys2Proof.Laws.Encodes.Statement (.efence e) :=
  Sys2Proof.Laws.encodes_of rfl rfl (by omega)
open Sys2Proof in
theorem Sys2Proof.Laws.Encodes.ebusy (d : Reg) : Sys2Proof.Laws.Encodes.Statement (.ebusy d) :=
  Sys2Proof.Laws.encodes_of rfl rfl (by omega)
open Sys2Proof in
theorem Sys2Proof.Laws.Encodes.taskJoin (d : Reg) (a : Reg) : Sys2Proof.Laws.Encodes.Statement (.taskJoin d a) :=
  Sys2Proof.Laws.encodes_of rfl rfl (by omega)
open Sys2Proof in
theorem Sys2Proof.Laws.Encodes.halt (a : Reg) : Sys2Proof.Laws.Encodes.Statement (.halt a) :=
  Sys2Proof.Laws.encodes_of rfl rfl (by omega)
open Sys2Proof in
theorem Sys2Proof.Laws.Encodes.flockId (d : Reg) : Sys2Proof.Laws.Encodes.Statement (.flockId d) :=
  Sys2Proof.Laws.encodes_of rfl rfl (by omega)
open Sys2Proof in
theorem Sys2Proof.Laws.Encodes.mfc (d : Reg) (c : Fin 64) : Sys2Proof.Laws.Encodes.Statement (.mfc d c) :=
  Sys2Proof.Laws.encodes_of rfl rfl (by omega)
open Sys2Proof in
theorem Sys2Proof.Laws.Encodes.mtc (a : Reg) (c : Fin 64) : Sys2Proof.Laws.Encodes.Statement (.mtc a c) :=
  Sys2Proof.Laws.encodes_of rfl rfl (by omega)
open Sys2Proof in
theorem Sys2Proof.Laws.Encodes.mtcSeed (a : Reg) : Sys2Proof.Laws.Encodes.Statement (.mtcSeed a) :=
  Sys2Proof.Laws.encodes_of rfl rfl (by omega)
open Sys2Proof in
theorem Sys2Proof.Laws.Encodes.mtcPbind (a : Reg) (k : Fin 4) : Sys2Proof.Laws.Encodes.Statement (.mtcPbind a k) :=
  Sys2Proof.Laws.encodes_of rfl rfl (by omega)
open Sys2Proof in
theorem Sys2Proof.Laws.Encodes.mtcChhead (a : Reg) (k : Fin 4) : Sys2Proof.Laws.Encodes.Statement (.mtcChhead a k) :=
  Sys2Proof.Laws.encodes_of rfl rfl (by omega)
open Sys2Proof in
theorem Sys2Proof.Laws.Encodes.mtcSvec (a : Reg) : Sys2Proof.Laws.Encodes.Statement (.mtcSvec a) :=
  Sys2Proof.Laws.encodes_of rfl rfl (by omega)
open Sys2Proof in
theorem Sys2Proof.Laws.Encodes.mtcDbgctl (a : Reg) : Sys2Proof.Laws.Encodes.Statement (.mtcDbgctl a) :=
  Sys2Proof.Laws.encodes_of rfl rfl (by omega)
open Sys2Proof in
theorem Sys2Proof.Laws.Encodes.trap (a : Reg) (k : Fin 4096) : Sys2Proof.Laws.Encodes.Statement (.trap a k) :=
  Sys2Proof.Laws.encodes_of rfl rfl (by omega)
open Sys2Proof in
theorem Sys2Proof.Laws.Encodes.sys (a : Reg) (k : Fin 4096) : Sys2Proof.Laws.Encodes.Statement (.sys a k) :=
  Sys2Proof.Laws.encodes_of rfl rfl (by omega)
open Sys2Proof in
theorem Sys2Proof.Laws.Encodes.ebrk (a : Reg) (k : Fin 4096) : Sys2Proof.Laws.Encodes.Statement (.ebrk a k) :=
  Sys2Proof.Laws.encodes_of rfl rfl (by omega)
open Sys2Proof in
theorem Sys2Proof.Laws.Encodes.budx (a : Reg) (d : Reg) : Sys2Proof.Laws.Encodes.Statement (.budx a d) :=
  Sys2Proof.Laws.encodes_of rfl rfl (by omega)
open Sys2Proof in
theorem Sys2Proof.Laws.Encodes.seal (a : Reg) : Sys2Proof.Laws.Encodes.Statement (.seal a) :=
  Sys2Proof.Laws.encodes_of rfl rfl (by omega)
open Sys2Proof in
theorem Sys2Proof.Laws.Encodes.unseal (a : Reg) : Sys2Proof.Laws.Encodes.Statement (.unseal a) :=
  Sys2Proof.Laws.encodes_of rfl rfl (by omega)
open Sys2Proof in
theorem Sys2Proof.Laws.Encodes.scanGo (a : Reg) : Sys2Proof.Laws.Encodes.Statement (.scanGo a) :=
  Sys2Proof.Laws.encodes_of rfl rfl (by omega)
open Sys2Proof in
theorem Sys2Proof.Laws.Encodes.scanQ (d : Reg) (b : Reg) : Sys2Proof.Laws.Encodes.Statement (.scanQ d b) :=
  Sys2Proof.Laws.encodes_of rfl rfl (by omega)
open Sys2Proof in
theorem Sys2Proof.Laws.Encodes.hcallTranslatorRun (a : Reg) (b : Reg) : Sys2Proof.Laws.Encodes.Statement (.hcallTranslatorRun a b) :=
  Sys2Proof.Laws.encodes_of rfl rfl (by omega)
open Sys2Proof in
theorem Sys2Proof.Laws.Encodes.hcallInvalidate (a : Reg) (b : Reg) : Sys2Proof.Laws.Encodes.Statement (.hcallInvalidate a b) :=
  Sys2Proof.Laws.encodes_of rfl rfl (by omega)
open Sys2Proof in
theorem Sys2Proof.Laws.Encodes.hcallLoaderWrite (a : Reg) (b : Reg) : Sys2Proof.Laws.Encodes.Statement (.hcallLoaderWrite a b) :=
  Sys2Proof.Laws.encodes_of rfl rfl (by omega)
open Sys2Proof in
theorem Sys2Proof.Laws.Encodes.hcallPartitionQuery (a : Reg) (b : Reg) : Sys2Proof.Laws.Encodes.Statement (.hcallPartitionQuery a b) :=
  Sys2Proof.Laws.encodes_of rfl rfl (by omega)
open Sys2Proof in
theorem Sys2Proof.Laws.Encodes.hcallWhistleStop (a : Reg) (b : Reg) : Sys2Proof.Laws.Encodes.Statement (.hcallWhistleStop a b) :=
  Sys2Proof.Laws.encodes_of rfl rfl (by omega)
open Sys2Proof in
theorem Sys2Proof.Laws.Encodes.hcallWhistleRelease (a : Reg) (b : Reg) : Sys2Proof.Laws.Encodes.Statement (.hcallWhistleRelease a b) :=
  Sys2Proof.Laws.encodes_of rfl rfl (by omega)
open Sys2Proof in
theorem Sys2Proof.Laws.Encodes.hcallTransitSettings (a : Reg) (b : Reg) : Sys2Proof.Laws.Encodes.Statement (.hcallTransitSettings a b) :=
  Sys2Proof.Laws.encodes_of rfl rfl (by omega)
open Sys2Proof in
theorem Sys2Proof.Laws.Encodes.hcallTransitCounts (a : Reg) (b : Reg) : Sys2Proof.Laws.Encodes.Statement (.hcallTransitCounts a b) :=
  Sys2Proof.Laws.encodes_of rfl rfl (by omega)
open Sys2Proof in
theorem Sys2Proof.Laws.Encodes.hcallArmFault (a : Reg) (b : Reg) : Sys2Proof.Laws.Encodes.Statement (.hcallArmFault a b) :=
  Sys2Proof.Laws.encodes_of rfl rfl (by omega)
open Sys2Proof in
theorem Sys2Proof.Laws.Encodes.hcallTaintQuery (a : Reg) (b : Reg) : Sys2Proof.Laws.Encodes.Statement (.hcallTaintQuery a b) :=
  Sys2Proof.Laws.encodes_of rfl rfl (by omega)
open Sys2Proof in
theorem Sys2Proof.Laws.Encodes.hcallDirectoryEvict (a : Reg) (b : Reg) : Sys2Proof.Laws.Encodes.Statement (.hcallDirectoryEvict a b) :=
  Sys2Proof.Laws.encodes_of rfl rfl (by omega)
open Sys2Proof in
theorem Sys2Proof.Laws.Encodes.hcallFaultQueueTake (a : Reg) (b : Reg) : Sys2Proof.Laws.Encodes.Statement (.hcallFaultQueueTake a b) :=
  Sys2Proof.Laws.encodes_of rfl rfl (by omega)
open Sys2Proof in
theorem Sys2Proof.Laws.Encodes.hcallPageOut (a : Reg) (b : Reg) : Sys2Proof.Laws.Encodes.Statement (.hcallPageOut a b) :=
  Sys2Proof.Laws.encodes_of rfl rfl (by omega)
open Sys2Proof in
theorem Sys2Proof.Laws.Encodes.hcallPageIn (a : Reg) (b : Reg) : Sys2Proof.Laws.Encodes.Statement (.hcallPageIn a b) :=
  Sys2Proof.Laws.encodes_of rfl rfl (by omega)
open Sys2Proof in
theorem Sys2Proof.Laws.Encodes.hcallIdentity (a : Reg) (b : Reg) : Sys2Proof.Laws.Encodes.Statement (.hcallIdentity a b) :=
  Sys2Proof.Laws.encodes_of rfl rfl (by omega)
open Sys2Proof in
theorem Sys2Proof.Laws.Encodes.hcallContributionPost (a : Reg) (b : Reg) : Sys2Proof.Laws.Encodes.Statement (.hcallContributionPost a b) :=
  Sys2Proof.Laws.encodes_of rfl rfl (by omega)
open Sys2Proof in
theorem Sys2Proof.Laws.Encodes.hcallContributionWait (a : Reg) (b : Reg) : Sys2Proof.Laws.Encodes.Statement (.hcallContributionWait a b) :=
  Sys2Proof.Laws.encodes_of rfl rfl (by omega)
open Sys2Proof in
theorem Sys2Proof.Laws.Encodes.phint (a : Reg) (b : Reg) : Sys2Proof.Laws.Encodes.Statement (.phint a b) :=
  Sys2Proof.Laws.encodes_of rfl rfl (by omega)
open Sys2Proof in
theorem Sys2Proof.Laws.Encodes.apxBeg (v : VReg) (a : Reg) (b : Reg) : Sys2Proof.Laws.Encodes.Statement (.apxBeg v a b) :=
  Sys2Proof.Laws.encodes_of rfl rfl (by omega)
open Sys2Proof in
theorem Sys2Proof.Laws.Encodes.apxInv (a : Reg) : Sys2Proof.Laws.Encodes.Statement (.apxInv a) :=
  Sys2Proof.Laws.encodes_of rfl rfl (by omega)
open Sys2Proof in
theorem Sys2Proof.Laws.Encodes.apxQ (d : Reg) (a : Reg) : Sys2Proof.Laws.Encodes.Statement (.apxQ d a) :=
  Sys2Proof.Laws.encodes_of rfl rfl (by omega)
open Sys2Proof in
theorem Sys2Proof.Laws.Encodes.rplQ (d : Reg) : Sys2Proof.Laws.Encodes.Statement (.rplQ d) :=
  Sys2Proof.Laws.encodes_of rfl rfl (by omega)
open Sys2Proof in
theorem Sys2Proof.Laws.Encodes.kAdd (d : KReg) (a : KReg) (b : KReg) : Sys2Proof.Laws.Encodes.Statement (.kAdd d a b) :=
  Sys2Proof.Laws.encodes_of rfl rfl (by omega)
open Sys2Proof in
theorem Sys2Proof.Laws.Encodes.kSub (d : KReg) (a : KReg) (b : KReg) : Sys2Proof.Laws.Encodes.Statement (.kSub d a b) :=
  Sys2Proof.Laws.encodes_of rfl rfl (by omega)
open Sys2Proof in
theorem Sys2Proof.Laws.Encodes.kAnd (d : KReg) (a : KReg) (b : KReg) : Sys2Proof.Laws.Encodes.Statement (.kAnd d a b) :=
  Sys2Proof.Laws.encodes_of rfl rfl (by omega)
open Sys2Proof in
theorem Sys2Proof.Laws.Encodes.kOr (d : KReg) (a : KReg) (b : KReg) : Sys2Proof.Laws.Encodes.Statement (.kOr d a b) :=
  Sys2Proof.Laws.encodes_of rfl rfl (by omega)
open Sys2Proof in
theorem Sys2Proof.Laws.Encodes.kXor (d : KReg) (a : KReg) (b : KReg) : Sys2Proof.Laws.Encodes.Statement (.kXor d a b) :=
  Sys2Proof.Laws.encodes_of rfl rfl (by omega)
open Sys2Proof in
theorem Sys2Proof.Laws.Encodes.kShl (d : KReg) (a : KReg) (b : KReg) : Sys2Proof.Laws.Encodes.Statement (.kShl d a b) :=
  Sys2Proof.Laws.encodes_of rfl rfl (by omega)
open Sys2Proof in
theorem Sys2Proof.Laws.Encodes.kShr (d : KReg) (a : KReg) (b : KReg) : Sys2Proof.Laws.Encodes.Statement (.kShr d a b) :=
  Sys2Proof.Laws.encodes_of rfl rfl (by omega)
open Sys2Proof in
theorem Sys2Proof.Laws.Encodes.kSar (d : KReg) (a : KReg) (b : KReg) : Sys2Proof.Laws.Encodes.Statement (.kSar d a b) :=
  Sys2Proof.Laws.encodes_of rfl rfl (by omega)
open Sys2Proof in
theorem Sys2Proof.Laws.Encodes.kMul (d : KReg) (a : KReg) (b : KReg) : Sys2Proof.Laws.Encodes.Statement (.kMul d a b) :=
  Sys2Proof.Laws.encodes_of rfl rfl (by omega)
open Sys2Proof in
theorem Sys2Proof.Laws.Encodes.kSlt (d : KReg) (a : KReg) (b : KReg) : Sys2Proof.Laws.Encodes.Statement (.kSlt d a b) :=
  Sys2Proof.Laws.encodes_of rfl rfl (by omega)
open Sys2Proof in
theorem Sys2Proof.Laws.Encodes.kSltu (d : KReg) (a : KReg) (b : KReg) : Sys2Proof.Laws.Encodes.Statement (.kSltu d a b) :=
  Sys2Proof.Laws.encodes_of rfl rfl (by omega)
open Sys2Proof in
theorem Sys2Proof.Laws.Encodes.kSeq (d : KReg) (a : KReg) (b : KReg) : Sys2Proof.Laws.Encodes.Statement (.kSeq d a b) :=
  Sys2Proof.Laws.encodes_of rfl rfl (by omega)
open Sys2Proof in
theorem Sys2Proof.Laws.Encodes.kAddi (d : KReg) (a : KReg) (i : Fin 65536) : Sys2Proof.Laws.Encodes.Statement (.kAddi d a i) :=
  Sys2Proof.Laws.encodes_of rfl rfl (by omega)
open Sys2Proof in
theorem Sys2Proof.Laws.Encodes.kLdk (d : KReg) (k : Fin 4) (c : Fin 65536) : Sys2Proof.Laws.Encodes.Statement (.kLdk d k c) :=
  Sys2Proof.Laws.encodes_of rfl rfl (by omega)
open Sys2Proof in
theorem Sys2Proof.Laws.Encodes.kLdD (d : KReg) (b : KReg) (o : Fin 8192) : Sys2Proof.Laws.Encodes.Statement (.kLdD d b o) :=
  Sys2Proof.Laws.encodes_of rfl rfl (by omega)
open Sys2Proof in
theorem Sys2Proof.Laws.Encodes.kLdW (d : KReg) (b : KReg) (o : Fin 8192) : Sys2Proof.Laws.Encodes.Statement (.kLdW d b o) :=
  Sys2Proof.Laws.encodes_of rfl rfl (by omega)
open Sys2Proof in
theorem Sys2Proof.Laws.Encodes.kStD (s : KReg) (b : KReg) (o : Fin 8192) : Sys2Proof.Laws.Encodes.Statement (.kStD s b o) :=
  Sys2Proof.Laws.encodes_of rfl rfl (by omega)
open Sys2Proof in
theorem Sys2Proof.Laws.Encodes.kStW (s : KReg) (b : KReg) (o : Fin 8192) : Sys2Proof.Laws.Encodes.Statement (.kStW s b o) :=
  Sys2Proof.Laws.encodes_of rfl rfl (by omega)
open Sys2Proof in
theorem Sys2Proof.Laws.Encodes.kBeq (a : KReg) (b : KReg) (i : Fin 65536) : Sys2Proof.Laws.Encodes.Statement (.kBeq a b i) :=
  Sys2Proof.Laws.encodes_of rfl rfl (by omega)
open Sys2Proof in
theorem Sys2Proof.Laws.Encodes.kBne (a : KReg) (b : KReg) (i : Fin 65536) : Sys2Proof.Laws.Encodes.Statement (.kBne a b i) :=
  Sys2Proof.Laws.encodes_of rfl rfl (by omega)
open Sys2Proof in
theorem Sys2Proof.Laws.Encodes.kBlt (a : KReg) (b : KReg) (i : Fin 65536) : Sys2Proof.Laws.Encodes.Statement (.kBlt a b i) :=
  Sys2Proof.Laws.encodes_of rfl rfl (by omega)
open Sys2Proof in
theorem Sys2Proof.Laws.Encodes.kBltu (a : KReg) (b : KReg) (i : Fin 65536) : Sys2Proof.Laws.Encodes.Statement (.kBltu a b i) :=
  Sys2Proof.Laws.encodes_of rfl rfl (by omega)
open Sys2Proof in
theorem Sys2Proof.Laws.Encodes.kJmp (i : Fin 67108864) : Sys2Proof.Laws.Encodes.Statement (.kJmp i) :=
  Sys2Proof.Laws.encodes_of rfl rfl (by omega)
open Sys2Proof in
theorem Sys2Proof.Laws.Encodes.kCall (i : Fin 67108864) : Sys2Proof.Laws.Encodes.Statement (.kCall i) :=
  Sys2Proof.Laws.encodes_of rfl rfl (by omega)
open Sys2Proof in
theorem Sys2Proof.Laws.Encodes.kJr (a : KReg) : Sys2Proof.Laws.Encodes.Statement (.kJr a) :=
  Sys2Proof.Laws.encodes_of rfl rfl (by omega)
open Sys2Proof in
theorem Sys2Proof.Laws.Encodes.kEmit (d : KReg) (a : KReg) : Sys2Proof.Laws.Encodes.Statement (.kEmit d a) :=
  Sys2Proof.Laws.encodes_of rfl rfl (by omega)
open Sys2Proof in
theorem Sys2Proof.Laws.Encodes.kEmap (a : KReg) (b : KReg) : Sys2Proof.Laws.Encodes.Statement (.kEmap a b) :=
  Sys2Proof.Laws.encodes_of rfl rfl (by omega)
open Sys2Proof in
theorem Sys2Proof.Laws.Encodes.kLda (d : KReg) (a : KReg) (b : KReg) : Sys2Proof.Laws.Encodes.Statement (.kLda d a b) :=
  Sys2Proof.Laws.encodes_of rfl rfl (by omega)
open Sys2Proof in
theorem Sys2Proof.Laws.Encodes.kMtr (d : KReg) : Sys2Proof.Laws.Encodes.Statement (.kMtr d) :=
  Sys2Proof.Laws.encodes_of rfl rfl (by omega)
open Sys2Proof in
theorem Sys2Proof.Laws.Encodes.kTfail (a : KReg) : Sys2Proof.Laws.Encodes.Statement (.kTfail a) :=
  Sys2Proof.Laws.encodes_of rfl rfl (by omega)
open Sys2Proof in
theorem Sys2Proof.Laws.Encodes.ret : Sys2Proof.Laws.Encodes.Statement .ret :=
  Sys2Proof.Laws.encodes_of rfl rfl (by decide)
open Sys2Proof in
theorem Sys2Proof.Laws.Encodes.loopx0 : Sys2Proof.Laws.Encodes.Statement .loopx0 :=
  Sys2Proof.Laws.encodes_of rfl rfl (by decide)
open Sys2Proof in
theorem Sys2Proof.Laws.Encodes.loopx1 : Sys2Proof.Laws.Encodes.Statement .loopx1 :=
  Sys2Proof.Laws.encodes_of rfl rfl (by decide)
open Sys2Proof in
theorem Sys2Proof.Laws.Encodes.loopx2 : Sys2Proof.Laws.Encodes.Statement .loopx2 :=
  Sys2Proof.Laws.encodes_of rfl rfl (by decide)
open Sys2Proof in
theorem Sys2Proof.Laws.Encodes.loopx3 : Sys2Proof.Laws.Encodes.Statement .loopx3 :=
  Sys2Proof.Laws.encodes_of rfl rfl (by decide)
theorem Sys2Proof.Laws.Encodes.storePerform : Sys2Proof.Laws.Encodes.Statement .storePerform :=
  Sys2Proof.Laws.encodes_event rfl rfl
theorem Sys2Proof.Laws.Encodes.portWordArrival : Sys2Proof.Laws.Encodes.Statement .portWordArrival :=
  Sys2Proof.Laws.encodes_event rfl rfl
theorem Sys2Proof.Laws.Encodes.deadlockProbe : Sys2Proof.Laws.Encodes.Statement .deadlockProbe :=
  Sys2Proof.Laws.encodes_event rfl rfl
theorem Sys2Proof.Laws.Encodes.deadlockProbeArrival : Sys2Proof.Laws.Encodes.Statement .deadlockProbeArrival :=
  Sys2Proof.Laws.encodes_event rfl rfl
theorem Sys2Proof.Laws.Encodes.deadlockNoticeArrival : Sys2Proof.Laws.Encodes.Statement .deadlockNoticeArrival :=
  Sys2Proof.Laws.encodes_event rfl rfl
theorem Sys2Proof.Laws.Encodes.pushDelivery : Sys2Proof.Laws.Encodes.Statement .pushDelivery :=
  Sys2Proof.Laws.encodes_event rfl rfl
open Sys2Proof in
theorem Sys2Proof.Laws.Encodes.amxClr0 : Sys2Proof.Laws.Encodes.Statement .amxClr0 :=
  Sys2Proof.Laws.encodes_of rfl rfl (by decide)
open Sys2Proof in
theorem Sys2Proof.Laws.Encodes.amxClr1 : Sys2Proof.Laws.Encodes.Statement .amxClr1 :=
  Sys2Proof.Laws.encodes_of rfl rfl (by decide)
open Sys2Proof in
theorem Sys2Proof.Laws.Encodes.amxClr2 : Sys2Proof.Laws.Encodes.Statement .amxClr2 :=
  Sys2Proof.Laws.encodes_of rfl rfl (by decide)
open Sys2Proof in
theorem Sys2Proof.Laws.Encodes.amxClr3 : Sys2Proof.Laws.Encodes.Statement .amxClr3 :=
  Sys2Proof.Laws.encodes_of rfl rfl (by decide)
theorem Sys2Proof.Laws.Encodes.matrixCommandStart : Sys2Proof.Laws.Encodes.Statement .matrixCommandStart :=
  Sys2Proof.Laws.encodes_event rfl rfl
theorem Sys2Proof.Laws.Encodes.matrixCommandComplete : Sys2Proof.Laws.Encodes.Statement .matrixCommandComplete :=
  Sys2Proof.Laws.encodes_event rfl rfl
theorem Sys2Proof.Laws.Encodes.vectorCommandStart : Sys2Proof.Laws.Encodes.Statement .vectorCommandStart :=
  Sys2Proof.Laws.encodes_event rfl rfl
theorem Sys2Proof.Laws.Encodes.vectorCommandComplete : Sys2Proof.Laws.Encodes.Statement .vectorCommandComplete :=
  Sys2Proof.Laws.encodes_event rfl rfl
theorem Sys2Proof.Laws.Encodes.copyChainStart : Sys2Proof.Laws.Encodes.Statement .copyChainStart :=
  Sys2Proof.Laws.encodes_event rfl rfl
theorem Sys2Proof.Laws.Encodes.recordFinishedReading : Sys2Proof.Laws.Encodes.Statement .recordFinishedReading :=
  Sys2Proof.Laws.encodes_event rfl rfl
theorem Sys2Proof.Laws.Encodes.writePointerAdvance : Sys2Proof.Laws.Encodes.Statement .writePointerAdvance :=
  Sys2Proof.Laws.encodes_event rfl rfl
theorem Sys2Proof.Laws.Encodes.transferRecordComplete : Sys2Proof.Laws.Encodes.Statement .transferRecordComplete :=
  Sys2Proof.Laws.encodes_event rfl rfl
theorem Sys2Proof.Laws.Encodes.recordFault : Sys2Proof.Laws.Encodes.Statement .recordFault :=
  Sys2Proof.Laws.encodes_event rfl rfl
theorem Sys2Proof.Laws.Encodes.lineForward : Sys2Proof.Laws.Encodes.Statement .lineForward :=
  Sys2Proof.Laws.encodes_event rfl rfl
theorem Sys2Proof.Laws.Encodes.translationWalk : Sys2Proof.Laws.Encodes.Statement .translationWalk :=
  Sys2Proof.Laws.encodes_event rfl rfl
theorem Sys2Proof.Laws.Encodes.orderAtHead : Sys2Proof.Laws.Encodes.Statement .orderAtHead :=
  Sys2Proof.Laws.encodes_event rfl rfl
theorem Sys2Proof.Laws.Encodes.lineCommit : Sys2Proof.Laws.Encodes.Statement .lineCommit :=
  Sys2Proof.Laws.encodes_event rfl rfl
theorem Sys2Proof.Laws.Encodes.farLineArrival : Sys2Proof.Laws.Encodes.Statement .farLineArrival :=
  Sys2Proof.Laws.encodes_event rfl rfl
theorem Sys2Proof.Laws.Encodes.taskCompletion : Sys2Proof.Laws.Encodes.Statement .taskCompletion :=
  Sys2Proof.Laws.encodes_event rfl rfl
open Sys2Proof in
theorem Sys2Proof.Laws.Encodes.tret : Sys2Proof.Laws.Encodes.Statement .tret :=
  Sys2Proof.Laws.encodes_of rfl rfl (by decide)
theorem Sys2Proof.Laws.Encodes.scanPatternsEnd : Sys2Proof.Laws.Encodes.Statement .scanPatternsEnd :=
  Sys2Proof.Laws.encodes_event rfl rfl
theorem Sys2Proof.Laws.Encodes.hcallReply : Sys2Proof.Laws.Encodes.Statement .hcallReply :=
  Sys2Proof.Laws.encodes_event rfl rfl
open Sys2Proof in
theorem Sys2Proof.Laws.Encodes.apxEnd : Sys2Proof.Laws.Encodes.Statement .apxEnd :=
  Sys2Proof.Laws.encodes_of rfl rfl (by decide)
open Sys2Proof in
theorem Sys2Proof.Laws.Encodes.kTend : Sys2Proof.Laws.Encodes.Statement .kTend :=
  Sys2Proof.Laws.encodes_of rfl rfl (by decide)
theorem Sys2Proof.Laws.Encodes.imagePrepare : Sys2Proof.Laws.Encodes.Statement .imagePrepare :=
  Sys2Proof.Laws.encodes_event rfl rfl
theorem Sys2Proof.Laws.Encodes.translatorRunStart : Sys2Proof.Laws.Encodes.Statement .translatorRunStart :=
  Sys2Proof.Laws.encodes_event rfl rfl
theorem Sys2Proof.Laws.Encodes.meter : Sys2Proof.Laws.Encodes.Statement .meter :=
  Sys2Proof.Laws.encodes_event rfl rfl
theorem Sys2Proof.Laws.Encodes.spawnDecision : Sys2Proof.Laws.Encodes.Statement .spawnDecision :=
  Sys2Proof.Laws.encodes_event rfl rfl
theorem Sys2Proof.Laws.Encodes.cardDecision : Sys2Proof.Laws.Encodes.Statement .cardDecision :=
  Sys2Proof.Laws.encodes_event rfl rfl
theorem Sys2Proof.Laws.Encodes.budgetExtensionDecision : Sys2Proof.Laws.Encodes.Statement .budgetExtensionDecision :=
  Sys2Proof.Laws.encodes_event rfl rfl
theorem Sys2Proof.Laws.Encodes.counterSignal : Sys2Proof.Laws.Encodes.Statement .counterSignal :=
  Sys2Proof.Laws.encodes_event rfl rfl
theorem Sys2Proof.Laws.Encodes.taskPlacement : Sys2Proof.Laws.Encodes.Statement .taskPlacement :=
  Sys2Proof.Laws.encodes_event rfl rfl
theorem Sys2Proof.Laws.Encodes.chunkDeal : Sys2Proof.Laws.Encodes.Statement .chunkDeal :=
  Sys2Proof.Laws.encodes_event rfl rfl
theorem Sys2Proof.Laws.Encodes.argumentPushComplete : Sys2Proof.Laws.Encodes.Statement .argumentPushComplete :=
  Sys2Proof.Laws.encodes_event rfl rfl
theorem Sys2Proof.Laws.Encodes.deadlinePass : Sys2Proof.Laws.Encodes.Statement .deadlinePass :=
  Sys2Proof.Laws.encodes_event rfl rfl
theorem Sys2Proof.Laws.Encodes.dieCounterTick : Sys2Proof.Laws.Encodes.Statement .dieCounterTick :=
  Sys2Proof.Laws.encodes_event rfl rfl
theorem Sys2Proof.Laws.Encodes.revocationTest : Sys2Proof.Laws.Encodes.Statement .revocationTest :=
  Sys2Proof.Laws.encodes_event rfl rfl
theorem Sys2Proof.Laws.Encodes.preemptionRequestArrival : Sys2Proof.Laws.Encodes.Statement .preemptionRequestArrival :=
  Sys2Proof.Laws.encodes_event rfl rfl
theorem Sys2Proof.Laws.Encodes.hintWindowExpiry : Sys2Proof.Laws.Encodes.Statement .hintWindowExpiry :=
  Sys2Proof.Laws.encodes_event rfl rfl
theorem Sys2Proof.Laws.Encodes.drainComplete : Sys2Proof.Laws.Encodes.Statement .drainComplete :=
  Sys2Proof.Laws.encodes_event rfl rfl
theorem Sys2Proof.Laws.Encodes.saveComplete : Sys2Proof.Laws.Encodes.Statement .saveComplete :=
  Sys2Proof.Laws.encodes_event rfl rfl
theorem Sys2Proof.Laws.Encodes.restoreComplete : Sys2Proof.Laws.Encodes.Statement .restoreComplete :=
  Sys2Proof.Laws.encodes_event rfl rfl
theorem Sys2Proof.Laws.Encodes.whistleSettled : Sys2Proof.Laws.Encodes.Statement .whistleSettled :=
  Sys2Proof.Laws.encodes_event rfl rfl
theorem Sys2Proof.Laws.Encodes.programOrderStart : Sys2Proof.Laws.Encodes.Statement .programOrderStart :=
  Sys2Proof.Laws.encodes_event rfl rfl
theorem Sys2Proof.Laws.Encodes.programInstructionLimit : Sys2Proof.Laws.Encodes.Statement .programInstructionLimit :=
  Sys2Proof.Laws.encodes_event rfl rfl
theorem Sys2Proof.Laws.Encodes.retentionLockAge : Sys2Proof.Laws.Encodes.Statement .retentionLockAge :=
  Sys2Proof.Laws.encodes_event rfl rfl
theorem Sys2Proof.Laws.Encodes.replayPlacement : Sys2Proof.Laws.Encodes.Statement .replayPlacement :=
  Sys2Proof.Laws.encodes_event rfl rfl
theorem Sys2Proof.Laws.Encodes.foldScanStart : Sys2Proof.Laws.Encodes.Statement .foldScanStart :=
  Sys2Proof.Laws.encodes_event rfl rfl
theorem Sys2Proof.Laws.Encodes.observationTake : Sys2Proof.Laws.Encodes.Statement .observationTake :=
  Sys2Proof.Laws.encodes_event rfl rfl
theorem Sys2Proof.Laws.Encodes.closedFormFit : Sys2Proof.Laws.Encodes.Statement .closedFormFit :=
  Sys2Proof.Laws.encodes_event rfl rfl
theorem Sys2Proof.Laws.Encodes.sgdStep : Sys2Proof.Laws.Encodes.Statement .sgdStep :=
  Sys2Proof.Laws.encodes_event rfl rfl
theorem Sys2Proof.Laws.Encodes.weightsArrival : Sys2Proof.Laws.Encodes.Statement .weightsArrival :=
  Sys2Proof.Laws.encodes_event rfl rfl
theorem Sys2Proof.Laws.Encodes.regionReset : Sys2Proof.Laws.Encodes.Statement .regionReset :=
  Sys2Proof.Laws.encodes_event rfl rfl
theorem Sys2Proof.Laws.Encodes.cacheRemoval : Sys2Proof.Laws.Encodes.Statement .cacheRemoval :=
  Sys2Proof.Laws.encodes_event rfl rfl
theorem Sys2Proof.Laws.Encodes.rotationClusterStart : Sys2Proof.Laws.Encodes.Statement .rotationClusterStart :=
  Sys2Proof.Laws.encodes_event rfl rfl
theorem Sys2Proof.Laws.Encodes.uncorrectable : Sys2Proof.Laws.Encodes.Statement .uncorrectable :=
  Sys2Proof.Laws.encodes_event rfl rfl
theorem Sys2Proof.Laws.Encodes.parityResend : Sys2Proof.Laws.Encodes.Statement .parityResend :=
  Sys2Proof.Laws.encodes_event rfl rfl
theorem Sys2Proof.Laws.Encodes.laneTest : Sys2Proof.Laws.Encodes.Statement .laneTest :=
  Sys2Proof.Laws.encodes_event rfl rfl
theorem Sys2Proof.Laws.Encodes.flitReceive : Sys2Proof.Laws.Encodes.Statement .flitReceive :=
  Sys2Proof.Laws.encodes_event rfl rfl
theorem Sys2Proof.Laws.Encodes.contributionLand : Sys2Proof.Laws.Encodes.Statement .contributionLand :=
  Sys2Proof.Laws.encodes_event rfl rfl
theorem Sys2Proof.Laws.Encodes.collectiveExpiry : Sys2Proof.Laws.Encodes.Statement .collectiveExpiry :=
  Sys2Proof.Laws.encodes_event rfl rfl
theorem Sys2Proof.Laws.Encodes.doorbellSubmit : Sys2Proof.Laws.Encodes.Statement .doorbellSubmit :=
  Sys2Proof.Laws.encodes_event rfl rfl
theorem Sys2Proof.Laws.Encodes.commandTake : Sys2Proof.Laws.Encodes.Statement .commandTake :=
  Sys2Proof.Laws.encodes_event rfl rfl
theorem Sys2Proof.Laws.Encodes.launchDecision : Sys2Proof.Laws.Encodes.Statement .launchDecision :=
  Sys2Proof.Laws.encodes_event rfl rfl
theorem Sys2Proof.Laws.Encodes.doorbellRelease : Sys2Proof.Laws.Encodes.Statement .doorbellRelease :=
  Sys2Proof.Laws.encodes_event rfl rfl
theorem Sys2Proof.Laws.Encodes.resetDoorbell : Sys2Proof.Laws.Encodes.Statement .resetDoorbell :=
  Sys2Proof.Laws.encodes_event rfl rfl
theorem Sys2Proof.Laws.Encodes.completionWrite : Sys2Proof.Laws.Encodes.Statement .completionWrite :=
  Sys2Proof.Laws.encodes_event rfl rfl
theorem Sys2Proof.Laws.Encodes.ecntStaticShare : Sys2Proof.Laws.Encodes.Statement .ecntStaticShare :=
  Sys2Proof.Laws.encodes_event rfl rfl
theorem Sys2Proof.Laws.Encodes.islandWake : Sys2Proof.Laws.Encodes.Statement .islandWake :=
  Sys2Proof.Laws.encodes_event rfl rfl
theorem Sys2Proof.Laws.Encodes.islandGate : Sys2Proof.Laws.Encodes.Statement .islandGate :=
  Sys2Proof.Laws.encodes_event rfl rfl
theorem Sys2Proof.Laws.Encodes.pageIn : Sys2Proof.Laws.Encodes.Statement .pageIn :=
  Sys2Proof.Laws.encodes_event rfl rfl
theorem Sys2Proof.Laws.Encodes.migrationPrecopyRound : Sys2Proof.Laws.Encodes.Statement .migrationPrecopyRound :=
  Sys2Proof.Laws.encodes_event rfl rfl
theorem Sys2Proof.Laws.Encodes.migrationRelease : Sys2Proof.Laws.Encodes.Statement .migrationRelease :=
  Sys2Proof.Laws.encodes_event rfl rfl
theorem Sys2Proof.Laws.Encodes.supervisorStart : Sys2Proof.Laws.Encodes.Statement .supervisorStart :=
  Sys2Proof.Laws.encodes_event rfl rfl
theorem Sys2Proof.Laws.Encodes.partitionCreate : Sys2Proof.Laws.Encodes.Statement .partitionCreate :=
  Sys2Proof.Laws.encodes_event rfl rfl
theorem Sys2Proof.Laws.Encodes.powerOn : Sys2Proof.Laws.Encodes.Statement .powerOn :=
  Sys2Proof.Laws.encodes_event rfl rfl
theorem Sys2Proof.Laws.Encodes.illegalWord : Sys2Proof.Laws.Encodes.Statement .illegalWord :=
  Sys2Proof.Laws.encodes_event rfl rfl
theorem Sys2Proof.Laws.Encodes.fetchFault : Sys2Proof.Laws.Encodes.Statement .fetchFault :=
  Sys2Proof.Laws.encodes_event rfl rfl
theorem Sys2Proof.Laws.Encodes.hcall : Sys2Proof.Laws.Encodes.Statement .hcall :=
  Sys2Proof.Laws.encodes_event rfl rfl
theorem Sys2Proof.Laws.Encodes.observationArrival : Sys2Proof.Laws.Encodes.Statement .observationArrival :=
  Sys2Proof.Laws.encodes_event rfl rfl
theorem Sys2Proof.Laws.Encodes.hostWrite : Sys2Proof.Laws.Encodes.Statement .hostWrite :=
  Sys2Proof.Laws.encodes_event rfl rfl
theorem Sys2Proof.Laws.Encodes.freeCountReport : Sys2Proof.Laws.Encodes.Statement .freeCountReport :=
  Sys2Proof.Laws.encodes_event rfl rfl
theorem Sys2Proof.Laws.Encodes.partitionRelease : Sys2Proof.Laws.Encodes.Statement .partitionRelease :=
  Sys2Proof.Laws.encodes_event rfl rfl
theorem Sys2Proof.Laws.Encodes.launchQueueCreate : Sys2Proof.Laws.Encodes.Statement .launchQueueCreate :=
  Sys2Proof.Laws.encodes_event rfl rfl
theorem Sys2Proof.Laws.Encodes.recoveryBootImage : Sys2Proof.Laws.Encodes.Statement .recoveryBootImage :=
  Sys2Proof.Laws.encodes_event rfl rfl
end

