-- ==== Sys2Proof/Laws/State.lean ====
section
/-! SUPPORT. What an update of the state leaves in each field: one lemma for each update and field. -/

namespace Sys2Proof.Machine

@[simp] theorem putCtx_cores (s : State) (c : Nat) (x : Ctx) : (putCtx s c x).cores = s.cores := rfl
@[simp] theorem putCtx_clusters (s : State) (c : Nat) (x : Ctx) : (putCtx s c x).clusters = s.clusters := rfl
@[simp] theorem putCtx_dies (s : State) (c : Nat) (x : Ctx) : (putCtx s c x).dies = s.dies := rfl
@[simp] theorem putCtx_chans (s : State) (c : Nat) (x : Ctx) : (putCtx s c x).chans = s.chans := rfl
@[simp] theorem putCtx_parts (s : State) (c : Nat) (x : Ctx) : (putCtx s c x).parts = s.parts := rfl
@[simp] theorem putCtx_queues (s : State) (c : Nat) (x : Ctx) : (putCtx s c x).queues = s.queues := rfl
@[simp] theorem putCtx_mem (s : State) (c : Nat) (x : Ctx) : (putCtx s c x).mem = s.mem := rfl
@[simp] theorem putCtx_poison (s : State) (c : Nat) (x : Ctx) : (putCtx s c x).poison = s.poison := rfl
@[simp] theorem putCtx_past (s : State) (c : Nat) (x : Ctx) : (putCtx s c x).past = s.past := rfl
@[simp] theorem putCtx_stamp (s : State) (c : Nat) (x : Ctx) : (putCtx s c x).stamp = s.stamp := rfl
@[simp] theorem putCtx_released (s : State) (c : Nat) (x : Ctx) : (putCtx s c x).released = s.released := rfl
@[simp] theorem putCtx_marks (s : State) (c : Nat) (x : Ctx) : (putCtx s c x).marks = s.marks := rfl
@[simp] theorem putCtx_wires (s : State) (c : Nat) (x : Ctx) : (putCtx s c x).wires = s.wires := rfl
@[simp] theorem putCtx_freeWires (s : State) (c : Nat) (x : Ctx) : (putCtx s c x).freeWires = s.freeWires := rfl
@[simp] theorem putCtx_probes (s : State) (c : Nat) (x : Ctx) : (putCtx s c x).probes = s.probes := rfl
@[simp] theorem putCtx_hreqs (s : State) (c : Nat) (x : Ctx) : (putCtx s c x).hreqs = s.hreqs := rfl
@[simp] theorem putCtx_sends (s : State) (c : Nat) (x : Ctx) : (putCtx s c x).sends = s.sends := rfl
@[simp] theorem putCtx_links (s : State) (c : Nat) (x : Ctx) : (putCtx s c x).links = s.links := rfl
@[simp] theorem putCtx_reports (s : State) (c : Nat) (x : Ctx) : (putCtx s c x).reports = s.reports := rfl
@[simp] theorem putCtx_departed (s : State) (c : Nat) (x : Ctx) : (putCtx s c x).departed = s.departed := rfl
@[simp] theorem putCtx_power (s : State) (c : Nat) (x : Ctx) : (putCtx s c x).power = s.power := rfl
@[simp] theorem putCtx_hvImage (s : State) (c : Nat) (x : Ctx) : (putCtx s c x).hvImage = s.hvImage := rfl
@[simp] theorem putCtx_nextId (s : State) (c : Nat) (x : Ctx) : (putCtx s c x).nextId = s.nextId := rfl
@[simp] theorem putCtx_cur (s : State) (c : Nat) (x : Ctx) : (putCtx s c x).cur = s.cur := rfl
@[simp] theorem putCtx_arg (s : State) (c : Nat) (x : Ctx) : (putCtx s c x).arg = s.arg := rfl
@[simp] theorem putCtx_sched (s : State) (c : Nat) (x : Ctx) : (putCtx s c x).sched = s.sched := rfl
@[simp] theorem putCtx_agenda (s : State) (c : Nat) (x : Ctx) : (putCtx s c x).agenda = s.agenda := rfl
@[simp] theorem putCtx_phase (s : State) (c : Nat) (x : Ctx) : (putCtx s c x).phase = s.phase := rfl
@[simp] theorem putCtx_choices (s : State) (c : Nat) (x : Ctx) : (putCtx s c x).choices = s.choices := rfl
@[simp] theorem putCtx_freeCtr (s : State) (c : Nat) (x : Ctx) : (putCtx s c x).freeCtr = s.freeCtr := rfl

@[simp] theorem putCore_ctxs (s : State) (c : Nat) (x : CoreSt) : (putCore s c x).ctxs = s.ctxs := rfl
@[simp] theorem putCore_clusters (s : State) (c : Nat) (x : CoreSt) : (putCore s c x).clusters = s.clusters := rfl
@[simp] theorem putCore_dies (s : State) (c : Nat) (x : CoreSt) : (putCore s c x).dies = s.dies := rfl
@[simp] theorem putCore_chans (s : State) (c : Nat) (x : CoreSt) : (putCore s c x).chans = s.chans := rfl
@[simp] theorem putCore_parts (s : State) (c : Nat) (x : CoreSt) : (putCore s c x).parts = s.parts := rfl
@[simp] theorem putCore_queues (s : State) (c : Nat) (x : CoreSt) : (putCore s c x).queues = s.queues := rfl
@[simp] theorem putCore_mem (s : State) (c : Nat) (x : CoreSt) : (putCore s c x).mem = s.mem := rfl
@[simp] theorem putCore_poison (s : State) (c : Nat) (x : CoreSt) : (putCore s c x).poison = s.poison := rfl
@[simp] theorem putCore_past (s : State) (c : Nat) (x : CoreSt) : (putCore s c x).past = s.past := rfl
@[simp] theorem putCore_stamp (s : State) (c : Nat) (x : CoreSt) : (putCore s c x).stamp = s.stamp := rfl
@[simp] theorem putCore_released (s : State) (c : Nat) (x : CoreSt) : (putCore s c x).released = s.released := rfl
@[simp] theorem putCore_marks (s : State) (c : Nat) (x : CoreSt) : (putCore s c x).marks = s.marks := rfl
@[simp] theorem putCore_wires (s : State) (c : Nat) (x : CoreSt) : (putCore s c x).wires = s.wires := rfl
@[simp] theorem putCore_freeWires (s : State) (c : Nat) (x : CoreSt) : (putCore s c x).freeWires = s.freeWires := rfl
@[simp] theorem putCore_probes (s : State) (c : Nat) (x : CoreSt) : (putCore s c x).probes = s.probes := rfl
@[simp] theorem putCore_hreqs (s : State) (c : Nat) (x : CoreSt) : (putCore s c x).hreqs = s.hreqs := rfl
@[simp] theorem putCore_sends (s : State) (c : Nat) (x : CoreSt) : (putCore s c x).sends = s.sends := rfl
@[simp] theorem putCore_links (s : State) (c : Nat) (x : CoreSt) : (putCore s c x).links = s.links := rfl
@[simp] theorem putCore_reports (s : State) (c : Nat) (x : CoreSt) : (putCore s c x).reports = s.reports := rfl
@[simp] theorem putCore_departed (s : State) (c : Nat) (x : CoreSt) : (putCore s c x).departed = s.departed := rfl
@[simp] theorem putCore_power (s : State) (c : Nat) (x : CoreSt) : (putCore s c x).power = s.power := rfl
@[simp] theorem putCore_hvImage (s : State) (c : Nat) (x : CoreSt) : (putCore s c x).hvImage = s.hvImage := rfl
@[simp] theorem putCore_nextId (s : State) (c : Nat) (x : CoreSt) : (putCore s c x).nextId = s.nextId := rfl
@[simp] theorem putCore_cur (s : State) (c : Nat) (x : CoreSt) : (putCore s c x).cur = s.cur := rfl
@[simp] theorem putCore_arg (s : State) (c : Nat) (x : CoreSt) : (putCore s c x).arg = s.arg := rfl
@[simp] theorem putCore_sched (s : State) (c : Nat) (x : CoreSt) : (putCore s c x).sched = s.sched := rfl
@[simp] theorem putCore_agenda (s : State) (c : Nat) (x : CoreSt) : (putCore s c x).agenda = s.agenda := rfl
@[simp] theorem putCore_phase (s : State) (c : Nat) (x : CoreSt) : (putCore s c x).phase = s.phase := rfl
@[simp] theorem putCore_choices (s : State) (c : Nat) (x : CoreSt) : (putCore s c x).choices = s.choices := rfl
@[simp] theorem putCore_freeCtr (s : State) (c : Nat) (x : CoreSt) : (putCore s c x).freeCtr = s.freeCtr := rfl

@[simp] theorem putCluster_ctxs (s : State) (c : Nat) (x : ClusterSt) : (putCluster s c x).ctxs = s.ctxs := rfl
@[simp] theorem putCluster_cores (s : State) (c : Nat) (x : ClusterSt) : (putCluster s c x).cores = s.cores := rfl
@[simp] theorem putCluster_dies (s : State) (c : Nat) (x : ClusterSt) : (putCluster s c x).dies = s.dies := rfl
@[simp] theorem putCluster_chans (s : State) (c : Nat) (x : ClusterSt) : (putCluster s c x).chans = s.chans := rfl
@[simp] theorem putCluster_parts (s : State) (c : Nat) (x : ClusterSt) : (putCluster s c x).parts = s.parts := rfl
@[simp] theorem putCluster_queues (s : State) (c : Nat) (x : ClusterSt) : (putCluster s c x).queues = s.queues := rfl
@[simp] theorem putCluster_mem (s : State) (c : Nat) (x : ClusterSt) : (putCluster s c x).mem = s.mem := rfl
@[simp] theorem putCluster_poison (s : State) (c : Nat) (x : ClusterSt) : (putCluster s c x).poison = s.poison := rfl
@[simp] theorem putCluster_past (s : State) (c : Nat) (x : ClusterSt) : (putCluster s c x).past = s.past := rfl
@[simp] theorem putCluster_stamp (s : State) (c : Nat) (x : ClusterSt) : (putCluster s c x).stamp = s.stamp := rfl
@[simp] theorem putCluster_released (s : State) (c : Nat) (x : ClusterSt) : (putCluster s c x).released = s.released := rfl
@[simp] theorem putCluster_marks (s : State) (c : Nat) (x : ClusterSt) : (putCluster s c x).marks = s.marks := rfl
@[simp] theorem putCluster_wires (s : State) (c : Nat) (x : ClusterSt) : (putCluster s c x).wires = s.wires := rfl
@[simp] theorem putCluster_freeWires (s : State) (c : Nat) (x : ClusterSt) : (putCluster s c x).freeWires = s.freeWires := rfl
@[simp] theorem putCluster_probes (s : State) (c : Nat) (x : ClusterSt) : (putCluster s c x).probes = s.probes := rfl
@[simp] theorem putCluster_hreqs (s : State) (c : Nat) (x : ClusterSt) : (putCluster s c x).hreqs = s.hreqs := rfl
@[simp] theorem putCluster_sends (s : State) (c : Nat) (x : ClusterSt) : (putCluster s c x).sends = s.sends := rfl
@[simp] theorem putCluster_links (s : State) (c : Nat) (x : ClusterSt) : (putCluster s c x).links = s.links := rfl
@[simp] theorem putCluster_reports (s : State) (c : Nat) (x : ClusterSt) : (putCluster s c x).reports = s.reports := rfl
@[simp] theorem putCluster_departed (s : State) (c : Nat) (x : ClusterSt) : (putCluster s c x).departed = s.departed := rfl
@[simp] theorem putCluster_power (s : State) (c : Nat) (x : ClusterSt) : (putCluster s c x).power = s.power := rfl
@[simp] theorem putCluster_hvImage (s : State) (c : Nat) (x : ClusterSt) : (putCluster s c x).hvImage = s.hvImage := rfl
@[simp] theorem putCluster_nextId (s : State) (c : Nat) (x : ClusterSt) : (putCluster s c x).nextId = s.nextId := rfl
@[simp] theorem putCluster_cur (s : State) (c : Nat) (x : ClusterSt) : (putCluster s c x).cur = s.cur := rfl
@[simp] theorem putCluster_arg (s : State) (c : Nat) (x : ClusterSt) : (putCluster s c x).arg = s.arg := rfl
@[simp] theorem putCluster_sched (s : State) (c : Nat) (x : ClusterSt) : (putCluster s c x).sched = s.sched := rfl
@[simp] theorem putCluster_agenda (s : State) (c : Nat) (x : ClusterSt) : (putCluster s c x).agenda = s.agenda := rfl
@[simp] theorem putCluster_phase (s : State) (c : Nat) (x : ClusterSt) : (putCluster s c x).phase = s.phase := rfl
@[simp] theorem putCluster_choices (s : State) (c : Nat) (x : ClusterSt) : (putCluster s c x).choices = s.choices := rfl
@[simp] theorem putCluster_freeCtr (s : State) (c : Nat) (x : ClusterSt) : (putCluster s c x).freeCtr = s.freeCtr := rfl

@[simp] theorem putDie_ctxs (s : State) (c : Nat) (x : DieSt) : (putDie s c x).ctxs = s.ctxs := rfl
@[simp] theorem putDie_cores (s : State) (c : Nat) (x : DieSt) : (putDie s c x).cores = s.cores := rfl
@[simp] theorem putDie_clusters (s : State) (c : Nat) (x : DieSt) : (putDie s c x).clusters = s.clusters := rfl
@[simp] theorem putDie_chans (s : State) (c : Nat) (x : DieSt) : (putDie s c x).chans = s.chans := rfl
@[simp] theorem putDie_parts (s : State) (c : Nat) (x : DieSt) : (putDie s c x).parts = s.parts := rfl
@[simp] theorem putDie_queues (s : State) (c : Nat) (x : DieSt) : (putDie s c x).queues = s.queues := rfl
@[simp] theorem putDie_mem (s : State) (c : Nat) (x : DieSt) : (putDie s c x).mem = s.mem := rfl
@[simp] theorem putDie_poison (s : State) (c : Nat) (x : DieSt) : (putDie s c x).poison = s.poison := rfl
@[simp] theorem putDie_past (s : State) (c : Nat) (x : DieSt) : (putDie s c x).past = s.past := rfl
@[simp] theorem putDie_stamp (s : State) (c : Nat) (x : DieSt) : (putDie s c x).stamp = s.stamp := rfl
@[simp] theorem putDie_released (s : State) (c : Nat) (x : DieSt) : (putDie s c x).released = s.released := rfl
@[simp] theorem putDie_marks (s : State) (c : Nat) (x : DieSt) : (putDie s c x).marks = s.marks := rfl
@[simp] theorem putDie_wires (s : State) (c : Nat) (x : DieSt) : (putDie s c x).wires = s.wires := rfl
@[simp] theorem putDie_freeWires (s : State) (c : Nat) (x : DieSt) : (putDie s c x).freeWires = s.freeWires := rfl
@[simp] theorem putDie_probes (s : State) (c : Nat) (x : DieSt) : (putDie s c x).probes = s.probes := rfl
@[simp] theorem putDie_hreqs (s : State) (c : Nat) (x : DieSt) : (putDie s c x).hreqs = s.hreqs := rfl
@[simp] theorem putDie_sends (s : State) (c : Nat) (x : DieSt) : (putDie s c x).sends = s.sends := rfl
@[simp] theorem putDie_links (s : State) (c : Nat) (x : DieSt) : (putDie s c x).links = s.links := rfl
@[simp] theorem putDie_reports (s : State) (c : Nat) (x : DieSt) : (putDie s c x).reports = s.reports := rfl
@[simp] theorem putDie_departed (s : State) (c : Nat) (x : DieSt) : (putDie s c x).departed = s.departed := rfl
@[simp] theorem putDie_power (s : State) (c : Nat) (x : DieSt) : (putDie s c x).power = s.power := rfl
@[simp] theorem putDie_hvImage (s : State) (c : Nat) (x : DieSt) : (putDie s c x).hvImage = s.hvImage := rfl
@[simp] theorem putDie_nextId (s : State) (c : Nat) (x : DieSt) : (putDie s c x).nextId = s.nextId := rfl
@[simp] theorem putDie_cur (s : State) (c : Nat) (x : DieSt) : (putDie s c x).cur = s.cur := rfl
@[simp] theorem putDie_arg (s : State) (c : Nat) (x : DieSt) : (putDie s c x).arg = s.arg := rfl
@[simp] theorem putDie_sched (s : State) (c : Nat) (x : DieSt) : (putDie s c x).sched = s.sched := rfl
@[simp] theorem putDie_agenda (s : State) (c : Nat) (x : DieSt) : (putDie s c x).agenda = s.agenda := rfl
@[simp] theorem putDie_phase (s : State) (c : Nat) (x : DieSt) : (putDie s c x).phase = s.phase := rfl
@[simp] theorem putDie_choices (s : State) (c : Nat) (x : DieSt) : (putDie s c x).choices = s.choices := rfl
@[simp] theorem putDie_freeCtr (s : State) (c : Nat) (x : DieSt) : (putDie s c x).freeCtr = s.freeCtr := rfl

@[simp] theorem putChan_ctxs (s : State) (c : Nat) (x : ChanSt) : (putChan s c x).ctxs = s.ctxs := rfl
@[simp] theorem putChan_cores (s : State) (c : Nat) (x : ChanSt) : (putChan s c x).cores = s.cores := rfl
@[simp] theorem putChan_clusters (s : State) (c : Nat) (x : ChanSt) : (putChan s c x).clusters = s.clusters := rfl
@[simp] theorem putChan_dies (s : State) (c : Nat) (x : ChanSt) : (putChan s c x).dies = s.dies := rfl
@[simp] theorem putChan_parts (s : State) (c : Nat) (x : ChanSt) : (putChan s c x).parts = s.parts := rfl
@[simp] theorem putChan_queues (s : State) (c : Nat) (x : ChanSt) : (putChan s c x).queues = s.queues := rfl
@[simp] theorem putChan_mem (s : State) (c : Nat) (x : ChanSt) : (putChan s c x).mem = s.mem := rfl
@[simp] theorem putChan_poison (s : State) (c : Nat) (x : ChanSt) : (putChan s c x).poison = s.poison := rfl
@[simp] theorem putChan_past (s : State) (c : Nat) (x : ChanSt) : (putChan s c x).past = s.past := rfl
@[simp] theorem putChan_stamp (s : State) (c : Nat) (x : ChanSt) : (putChan s c x).stamp = s.stamp := rfl
@[simp] theorem putChan_released (s : State) (c : Nat) (x : ChanSt) : (putChan s c x).released = s.released := rfl
@[simp] theorem putChan_marks (s : State) (c : Nat) (x : ChanSt) : (putChan s c x).marks = s.marks := rfl
@[simp] theorem putChan_wires (s : State) (c : Nat) (x : ChanSt) : (putChan s c x).wires = s.wires := rfl
@[simp] theorem putChan_freeWires (s : State) (c : Nat) (x : ChanSt) : (putChan s c x).freeWires = s.freeWires := rfl
@[simp] theorem putChan_probes (s : State) (c : Nat) (x : ChanSt) : (putChan s c x).probes = s.probes := rfl
@[simp] theorem putChan_hreqs (s : State) (c : Nat) (x : ChanSt) : (putChan s c x).hreqs = s.hreqs := rfl
@[simp] theorem putChan_sends (s : State) (c : Nat) (x : ChanSt) : (putChan s c x).sends = s.sends := rfl
@[simp] theorem putChan_links (s : State) (c : Nat) (x : ChanSt) : (putChan s c x).links = s.links := rfl
@[simp] theorem putChan_reports (s : State) (c : Nat) (x : ChanSt) : (putChan s c x).reports = s.reports := rfl
@[simp] theorem putChan_departed (s : State) (c : Nat) (x : ChanSt) : (putChan s c x).departed = s.departed := rfl
@[simp] theorem putChan_power (s : State) (c : Nat) (x : ChanSt) : (putChan s c x).power = s.power := rfl
@[simp] theorem putChan_hvImage (s : State) (c : Nat) (x : ChanSt) : (putChan s c x).hvImage = s.hvImage := rfl
@[simp] theorem putChan_nextId (s : State) (c : Nat) (x : ChanSt) : (putChan s c x).nextId = s.nextId := rfl
@[simp] theorem putChan_cur (s : State) (c : Nat) (x : ChanSt) : (putChan s c x).cur = s.cur := rfl
@[simp] theorem putChan_arg (s : State) (c : Nat) (x : ChanSt) : (putChan s c x).arg = s.arg := rfl
@[simp] theorem putChan_sched (s : State) (c : Nat) (x : ChanSt) : (putChan s c x).sched = s.sched := rfl
@[simp] theorem putChan_agenda (s : State) (c : Nat) (x : ChanSt) : (putChan s c x).agenda = s.agenda := rfl
@[simp] theorem putChan_phase (s : State) (c : Nat) (x : ChanSt) : (putChan s c x).phase = s.phase := rfl
@[simp] theorem putChan_choices (s : State) (c : Nat) (x : ChanSt) : (putChan s c x).choices = s.choices := rfl
@[simp] theorem putChan_freeCtr (s : State) (c : Nat) (x : ChanSt) : (putChan s c x).freeCtr = s.freeCtr := rfl

@[simp] theorem putPart_ctxs (s : State) (c : Nat) (x : PartSt) : (putPart s c x).ctxs = s.ctxs := rfl
@[simp] theorem putPart_cores (s : State) (c : Nat) (x : PartSt) : (putPart s c x).cores = s.cores := rfl
@[simp] theorem putPart_clusters (s : State) (c : Nat) (x : PartSt) : (putPart s c x).clusters = s.clusters := rfl
@[simp] theorem putPart_dies (s : State) (c : Nat) (x : PartSt) : (putPart s c x).dies = s.dies := rfl
@[simp] theorem putPart_chans (s : State) (c : Nat) (x : PartSt) : (putPart s c x).chans = s.chans := rfl
@[simp] theorem putPart_queues (s : State) (c : Nat) (x : PartSt) : (putPart s c x).queues = s.queues := rfl
@[simp] theorem putPart_mem (s : State) (c : Nat) (x : PartSt) : (putPart s c x).mem = s.mem := rfl
@[simp] theorem putPart_poison (s : State) (c : Nat) (x : PartSt) : (putPart s c x).poison = s.poison := rfl
@[simp] theorem putPart_past (s : State) (c : Nat) (x : PartSt) : (putPart s c x).past = s.past := rfl
@[simp] theorem putPart_stamp (s : State) (c : Nat) (x : PartSt) : (putPart s c x).stamp = s.stamp := rfl
@[simp] theorem putPart_released (s : State) (c : Nat) (x : PartSt) : (putPart s c x).released = s.released := rfl
@[simp] theorem putPart_marks (s : State) (c : Nat) (x : PartSt) : (putPart s c x).marks = s.marks := rfl
@[simp] theorem putPart_wires (s : State) (c : Nat) (x : PartSt) : (putPart s c x).wires = s.wires := rfl
@[simp] theorem putPart_freeWires (s : State) (c : Nat) (x : PartSt) : (putPart s c x).freeWires = s.freeWires := rfl
@[simp] theorem putPart_probes (s : State) (c : Nat) (x : PartSt) : (putPart s c x).probes = s.probes := rfl
@[simp] theorem putPart_hreqs (s : State) (c : Nat) (x : PartSt) : (putPart s c x).hreqs = s.hreqs := rfl
@[simp] theorem putPart_sends (s : State) (c : Nat) (x : PartSt) : (putPart s c x).sends = s.sends := rfl
@[simp] theorem putPart_links (s : State) (c : Nat) (x : PartSt) : (putPart s c x).links = s.links := rfl
@[simp] theorem putPart_reports (s : State) (c : Nat) (x : PartSt) : (putPart s c x).reports = s.reports := rfl
@[simp] theorem putPart_departed (s : State) (c : Nat) (x : PartSt) : (putPart s c x).departed = s.departed := rfl
@[simp] theorem putPart_power (s : State) (c : Nat) (x : PartSt) : (putPart s c x).power = s.power := rfl
@[simp] theorem putPart_hvImage (s : State) (c : Nat) (x : PartSt) : (putPart s c x).hvImage = s.hvImage := rfl
@[simp] theorem putPart_nextId (s : State) (c : Nat) (x : PartSt) : (putPart s c x).nextId = s.nextId := rfl
@[simp] theorem putPart_cur (s : State) (c : Nat) (x : PartSt) : (putPart s c x).cur = s.cur := rfl
@[simp] theorem putPart_arg (s : State) (c : Nat) (x : PartSt) : (putPart s c x).arg = s.arg := rfl
@[simp] theorem putPart_sched (s : State) (c : Nat) (x : PartSt) : (putPart s c x).sched = s.sched := rfl
@[simp] theorem putPart_agenda (s : State) (c : Nat) (x : PartSt) : (putPart s c x).agenda = s.agenda := rfl
@[simp] theorem putPart_phase (s : State) (c : Nat) (x : PartSt) : (putPart s c x).phase = s.phase := rfl
@[simp] theorem putPart_choices (s : State) (c : Nat) (x : PartSt) : (putPart s c x).choices = s.choices := rfl
@[simp] theorem putPart_freeCtr (s : State) (c : Nat) (x : PartSt) : (putPart s c x).freeCtr = s.freeCtr := rfl

@[simp] theorem modCtx_cores (s : State) (c : Nat) (f : Ctx → Ctx) : (modCtx s c f).cores = s.cores := rfl
@[simp] theorem modCtx_clusters (s : State) (c : Nat) (f : Ctx → Ctx) : (modCtx s c f).clusters = s.clusters := rfl
@[simp] theorem modCtx_dies (s : State) (c : Nat) (f : Ctx → Ctx) : (modCtx s c f).dies = s.dies := rfl
@[simp] theorem modCtx_chans (s : State) (c : Nat) (f : Ctx → Ctx) : (modCtx s c f).chans = s.chans := rfl
@[simp] theorem modCtx_parts (s : State) (c : Nat) (f : Ctx → Ctx) : (modCtx s c f).parts = s.parts := rfl
@[simp] theorem modCtx_queues (s : State) (c : Nat) (f : Ctx → Ctx) : (modCtx s c f).queues = s.queues := rfl
@[simp] theorem modCtx_mem (s : State) (c : Nat) (f : Ctx → Ctx) : (modCtx s c f).mem = s.mem := rfl
@[simp] theorem modCtx_poison (s : State) (c : Nat) (f : Ctx → Ctx) : (modCtx s c f).poison = s.poison := rfl
@[simp] theorem modCtx_past (s : State) (c : Nat) (f : Ctx → Ctx) : (modCtx s c f).past = s.past := rfl
@[simp] theorem modCtx_stamp (s : State) (c : Nat) (f : Ctx → Ctx) : (modCtx s c f).stamp = s.stamp := rfl
@[simp] theorem modCtx_released (s : State) (c : Nat) (f : Ctx → Ctx) : (modCtx s c f).released = s.released := rfl
@[simp] theorem modCtx_marks (s : State) (c : Nat) (f : Ctx → Ctx) : (modCtx s c f).marks = s.marks := rfl
@[simp] theorem modCtx_wires (s : State) (c : Nat) (f : Ctx → Ctx) : (modCtx s c f).wires = s.wires := rfl
@[simp] theorem modCtx_freeWires (s : State) (c : Nat) (f : Ctx → Ctx) : (modCtx s c f).freeWires = s.freeWires := rfl
@[simp] theorem modCtx_probes (s : State) (c : Nat) (f : Ctx → Ctx) : (modCtx s c f).probes = s.probes := rfl
@[simp] theorem modCtx_hreqs (s : State) (c : Nat) (f : Ctx → Ctx) : (modCtx s c f).hreqs = s.hreqs := rfl
@[simp] theorem modCtx_sends (s : State) (c : Nat) (f : Ctx → Ctx) : (modCtx s c f).sends = s.sends := rfl
@[simp] theorem modCtx_links (s : State) (c : Nat) (f : Ctx → Ctx) : (modCtx s c f).links = s.links := rfl
@[simp] theorem modCtx_reports (s : State) (c : Nat) (f : Ctx → Ctx) : (modCtx s c f).reports = s.reports := rfl
@[simp] theorem modCtx_departed (s : State) (c : Nat) (f : Ctx → Ctx) : (modCtx s c f).departed = s.departed := rfl
@[simp] theorem modCtx_power (s : State) (c : Nat) (f : Ctx → Ctx) : (modCtx s c f).power = s.power := rfl
@[simp] theorem modCtx_hvImage (s : State) (c : Nat) (f : Ctx → Ctx) : (modCtx s c f).hvImage = s.hvImage := rfl
@[simp] theorem modCtx_nextId (s : State) (c : Nat) (f : Ctx → Ctx) : (modCtx s c f).nextId = s.nextId := rfl
@[simp] theorem modCtx_cur (s : State) (c : Nat) (f : Ctx → Ctx) : (modCtx s c f).cur = s.cur := rfl
@[simp] theorem modCtx_arg (s : State) (c : Nat) (f : Ctx → Ctx) : (modCtx s c f).arg = s.arg := rfl
@[simp] theorem modCtx_sched (s : State) (c : Nat) (f : Ctx → Ctx) : (modCtx s c f).sched = s.sched := rfl
@[simp] theorem modCtx_agenda (s : State) (c : Nat) (f : Ctx → Ctx) : (modCtx s c f).agenda = s.agenda := rfl
@[simp] theorem modCtx_phase (s : State) (c : Nat) (f : Ctx → Ctx) : (modCtx s c f).phase = s.phase := rfl
@[simp] theorem modCtx_choices (s : State) (c : Nat) (f : Ctx → Ctx) : (modCtx s c f).choices = s.choices := rfl
@[simp] theorem modCtx_freeCtr (s : State) (c : Nat) (f : Ctx → Ctx) : (modCtx s c f).freeCtr = s.freeCtr := rfl

@[simp] theorem modCore_ctxs (s : State) (c : Nat) (f : CoreSt → CoreSt) : (modCore s c f).ctxs = s.ctxs := rfl
@[simp] theorem modCore_clusters (s : State) (c : Nat) (f : CoreSt → CoreSt) : (modCore s c f).clusters = s.clusters := rfl
@[simp] theorem modCore_dies (s : State) (c : Nat) (f : CoreSt → CoreSt) : (modCore s c f).dies = s.dies := rfl
@[simp] theorem modCore_chans (s : State) (c : Nat) (f : CoreSt → CoreSt) : (modCore s c f).chans = s.chans := rfl
@[simp] theorem modCore_parts (s : State) (c : Nat) (f : CoreSt → CoreSt) : (modCore s c f).parts = s.parts := rfl
@[simp] theorem modCore_queues (s : State) (c : Nat) (f : CoreSt → CoreSt) : (modCore s c f).queues = s.queues := rfl
@[simp] theorem modCore_mem (s : State) (c : Nat) (f : CoreSt → CoreSt) : (modCore s c f).mem = s.mem := rfl
@[simp] theorem modCore_poison (s : State) (c : Nat) (f : CoreSt → CoreSt) : (modCore s c f).poison = s.poison := rfl
@[simp] theorem modCore_past (s : State) (c : Nat) (f : CoreSt → CoreSt) : (modCore s c f).past = s.past := rfl
@[simp] theorem modCore_stamp (s : State) (c : Nat) (f : CoreSt → CoreSt) : (modCore s c f).stamp = s.stamp := rfl
@[simp] theorem modCore_released (s : State) (c : Nat) (f : CoreSt → CoreSt) : (modCore s c f).released = s.released := rfl
@[simp] theorem modCore_marks (s : State) (c : Nat) (f : CoreSt → CoreSt) : (modCore s c f).marks = s.marks := rfl
@[simp] theorem modCore_wires (s : State) (c : Nat) (f : CoreSt → CoreSt) : (modCore s c f).wires = s.wires := rfl
@[simp] theorem modCore_freeWires (s : State) (c : Nat) (f : CoreSt → CoreSt) : (modCore s c f).freeWires = s.freeWires := rfl
@[simp] theorem modCore_probes (s : State) (c : Nat) (f : CoreSt → CoreSt) : (modCore s c f).probes = s.probes := rfl
@[simp] theorem modCore_hreqs (s : State) (c : Nat) (f : CoreSt → CoreSt) : (modCore s c f).hreqs = s.hreqs := rfl
@[simp] theorem modCore_sends (s : State) (c : Nat) (f : CoreSt → CoreSt) : (modCore s c f).sends = s.sends := rfl
@[simp] theorem modCore_links (s : State) (c : Nat) (f : CoreSt → CoreSt) : (modCore s c f).links = s.links := rfl
@[simp] theorem modCore_reports (s : State) (c : Nat) (f : CoreSt → CoreSt) : (modCore s c f).reports = s.reports := rfl
@[simp] theorem modCore_departed (s : State) (c : Nat) (f : CoreSt → CoreSt) : (modCore s c f).departed = s.departed := rfl
@[simp] theorem modCore_power (s : State) (c : Nat) (f : CoreSt → CoreSt) : (modCore s c f).power = s.power := rfl
@[simp] theorem modCore_hvImage (s : State) (c : Nat) (f : CoreSt → CoreSt) : (modCore s c f).hvImage = s.hvImage := rfl
@[simp] theorem modCore_nextId (s : State) (c : Nat) (f : CoreSt → CoreSt) : (modCore s c f).nextId = s.nextId := rfl
@[simp] theorem modCore_cur (s : State) (c : Nat) (f : CoreSt → CoreSt) : (modCore s c f).cur = s.cur := rfl
@[simp] theorem modCore_arg (s : State) (c : Nat) (f : CoreSt → CoreSt) : (modCore s c f).arg = s.arg := rfl
@[simp] theorem modCore_sched (s : State) (c : Nat) (f : CoreSt → CoreSt) : (modCore s c f).sched = s.sched := rfl
@[simp] theorem modCore_agenda (s : State) (c : Nat) (f : CoreSt → CoreSt) : (modCore s c f).agenda = s.agenda := rfl
@[simp] theorem modCore_phase (s : State) (c : Nat) (f : CoreSt → CoreSt) : (modCore s c f).phase = s.phase := rfl
@[simp] theorem modCore_choices (s : State) (c : Nat) (f : CoreSt → CoreSt) : (modCore s c f).choices = s.choices := rfl
@[simp] theorem modCore_freeCtr (s : State) (c : Nat) (f : CoreSt → CoreSt) : (modCore s c f).freeCtr = s.freeCtr := rfl

@[simp] theorem modCluster_ctxs (s : State) (c : Nat) (f : ClusterSt → ClusterSt) : (modCluster s c f).ctxs = s.ctxs := rfl
@[simp] theorem modCluster_cores (s : State) (c : Nat) (f : ClusterSt → ClusterSt) : (modCluster s c f).cores = s.cores := rfl
@[simp] theorem modCluster_dies (s : State) (c : Nat) (f : ClusterSt → ClusterSt) : (modCluster s c f).dies = s.dies := rfl
@[simp] theorem modCluster_chans (s : State) (c : Nat) (f : ClusterSt → ClusterSt) : (modCluster s c f).chans = s.chans := rfl
@[simp] theorem modCluster_parts (s : State) (c : Nat) (f : ClusterSt → ClusterSt) : (modCluster s c f).parts = s.parts := rfl
@[simp] theorem modCluster_queues (s : State) (c : Nat) (f : ClusterSt → ClusterSt) : (modCluster s c f).queues = s.queues := rfl
@[simp] theorem modCluster_mem (s : State) (c : Nat) (f : ClusterSt → ClusterSt) : (modCluster s c f).mem = s.mem := rfl
@[simp] theorem modCluster_poison (s : State) (c : Nat) (f : ClusterSt → ClusterSt) : (modCluster s c f).poison = s.poison := rfl
@[simp] theorem modCluster_past (s : State) (c : Nat) (f : ClusterSt → ClusterSt) : (modCluster s c f).past = s.past := rfl
@[simp] theorem modCluster_stamp (s : State) (c : Nat) (f : ClusterSt → ClusterSt) : (modCluster s c f).stamp = s.stamp := rfl
@[simp] theorem modCluster_released (s : State) (c : Nat) (f : ClusterSt → ClusterSt) : (modCluster s c f).released = s.released := rfl
@[simp] theorem modCluster_marks (s : State) (c : Nat) (f : ClusterSt → ClusterSt) : (modCluster s c f).marks = s.marks := rfl
@[simp] theorem modCluster_wires (s : State) (c : Nat) (f : ClusterSt → ClusterSt) : (modCluster s c f).wires = s.wires := rfl
@[simp] theorem modCluster_freeWires (s : State) (c : Nat) (f : ClusterSt → ClusterSt) : (modCluster s c f).freeWires = s.freeWires := rfl
@[simp] theorem modCluster_probes (s : State) (c : Nat) (f : ClusterSt → ClusterSt) : (modCluster s c f).probes = s.probes := rfl
@[simp] theorem modCluster_hreqs (s : State) (c : Nat) (f : ClusterSt → ClusterSt) : (modCluster s c f).hreqs = s.hreqs := rfl
@[simp] theorem modCluster_sends (s : State) (c : Nat) (f : ClusterSt → ClusterSt) : (modCluster s c f).sends = s.sends := rfl
@[simp] theorem modCluster_links (s : State) (c : Nat) (f : ClusterSt → ClusterSt) : (modCluster s c f).links = s.links := rfl
@[simp] theorem modCluster_reports (s : State) (c : Nat) (f : ClusterSt → ClusterSt) : (modCluster s c f).reports = s.reports := rfl
@[simp] theorem modCluster_departed (s : State) (c : Nat) (f : ClusterSt → ClusterSt) : (modCluster s c f).departed = s.departed := rfl
@[simp] theorem modCluster_power (s : State) (c : Nat) (f : ClusterSt → ClusterSt) : (modCluster s c f).power = s.power := rfl
@[simp] theorem modCluster_hvImage (s : State) (c : Nat) (f : ClusterSt → ClusterSt) : (modCluster s c f).hvImage = s.hvImage := rfl
@[simp] theorem modCluster_nextId (s : State) (c : Nat) (f : ClusterSt → ClusterSt) : (modCluster s c f).nextId = s.nextId := rfl
@[simp] theorem modCluster_cur (s : State) (c : Nat) (f : ClusterSt → ClusterSt) : (modCluster s c f).cur = s.cur := rfl
@[simp] theorem modCluster_arg (s : State) (c : Nat) (f : ClusterSt → ClusterSt) : (modCluster s c f).arg = s.arg := rfl
@[simp] theorem modCluster_sched (s : State) (c : Nat) (f : ClusterSt → ClusterSt) : (modCluster s c f).sched = s.sched := rfl
@[simp] theorem modCluster_agenda (s : State) (c : Nat) (f : ClusterSt → ClusterSt) : (modCluster s c f).agenda = s.agenda := rfl
@[simp] theorem modCluster_phase (s : State) (c : Nat) (f : ClusterSt → ClusterSt) : (modCluster s c f).phase = s.phase := rfl
@[simp] theorem modCluster_choices (s : State) (c : Nat) (f : ClusterSt → ClusterSt) : (modCluster s c f).choices = s.choices := rfl
@[simp] theorem modCluster_freeCtr (s : State) (c : Nat) (f : ClusterSt → ClusterSt) : (modCluster s c f).freeCtr = s.freeCtr := rfl

@[simp] theorem modDie_ctxs (s : State) (c : Nat) (f : DieSt → DieSt) : (modDie s c f).ctxs = s.ctxs := rfl
@[simp] theorem modDie_cores (s : State) (c : Nat) (f : DieSt → DieSt) : (modDie s c f).cores = s.cores := rfl
@[simp] theorem modDie_clusters (s : State) (c : Nat) (f : DieSt → DieSt) : (modDie s c f).clusters = s.clusters := rfl
@[simp] theorem modDie_chans (s : State) (c : Nat) (f : DieSt → DieSt) : (modDie s c f).chans = s.chans := rfl
@[simp] theorem modDie_parts (s : State) (c : Nat) (f : DieSt → DieSt) : (modDie s c f).parts = s.parts := rfl
@[simp] theorem modDie_queues (s : State) (c : Nat) (f : DieSt → DieSt) : (modDie s c f).queues = s.queues := rfl
@[simp] theorem modDie_mem (s : State) (c : Nat) (f : DieSt → DieSt) : (modDie s c f).mem = s.mem := rfl
@[simp] theorem modDie_poison (s : State) (c : Nat) (f : DieSt → DieSt) : (modDie s c f).poison = s.poison := rfl
@[simp] theorem modDie_past (s : State) (c : Nat) (f : DieSt → DieSt) : (modDie s c f).past = s.past := rfl
@[simp] theorem modDie_stamp (s : State) (c : Nat) (f : DieSt → DieSt) : (modDie s c f).stamp = s.stamp := rfl
@[simp] theorem modDie_released (s : State) (c : Nat) (f : DieSt → DieSt) : (modDie s c f).released = s.released := rfl
@[simp] theorem modDie_marks (s : State) (c : Nat) (f : DieSt → DieSt) : (modDie s c f).marks = s.marks := rfl
@[simp] theorem modDie_wires (s : State) (c : Nat) (f : DieSt → DieSt) : (modDie s c f).wires = s.wires := rfl
@[simp] theorem modDie_freeWires (s : State) (c : Nat) (f : DieSt → DieSt) : (modDie s c f).freeWires = s.freeWires := rfl
@[simp] theorem modDie_probes (s : State) (c : Nat) (f : DieSt → DieSt) : (modDie s c f).probes = s.probes := rfl
@[simp] theorem modDie_hreqs (s : State) (c : Nat) (f : DieSt → DieSt) : (modDie s c f).hreqs = s.hreqs := rfl
@[simp] theorem modDie_sends (s : State) (c : Nat) (f : DieSt → DieSt) : (modDie s c f).sends = s.sends := rfl
@[simp] theorem modDie_links (s : State) (c : Nat) (f : DieSt → DieSt) : (modDie s c f).links = s.links := rfl
@[simp] theorem modDie_reports (s : State) (c : Nat) (f : DieSt → DieSt) : (modDie s c f).reports = s.reports := rfl
@[simp] theorem modDie_departed (s : State) (c : Nat) (f : DieSt → DieSt) : (modDie s c f).departed = s.departed := rfl
@[simp] theorem modDie_power (s : State) (c : Nat) (f : DieSt → DieSt) : (modDie s c f).power = s.power := rfl
@[simp] theorem modDie_hvImage (s : State) (c : Nat) (f : DieSt → DieSt) : (modDie s c f).hvImage = s.hvImage := rfl
@[simp] theorem modDie_nextId (s : State) (c : Nat) (f : DieSt → DieSt) : (modDie s c f).nextId = s.nextId := rfl
@[simp] theorem modDie_cur (s : State) (c : Nat) (f : DieSt → DieSt) : (modDie s c f).cur = s.cur := rfl
@[simp] theorem modDie_arg (s : State) (c : Nat) (f : DieSt → DieSt) : (modDie s c f).arg = s.arg := rfl
@[simp] theorem modDie_sched (s : State) (c : Nat) (f : DieSt → DieSt) : (modDie s c f).sched = s.sched := rfl
@[simp] theorem modDie_agenda (s : State) (c : Nat) (f : DieSt → DieSt) : (modDie s c f).agenda = s.agenda := rfl
@[simp] theorem modDie_phase (s : State) (c : Nat) (f : DieSt → DieSt) : (modDie s c f).phase = s.phase := rfl
@[simp] theorem modDie_choices (s : State) (c : Nat) (f : DieSt → DieSt) : (modDie s c f).choices = s.choices := rfl
@[simp] theorem modDie_freeCtr (s : State) (c : Nat) (f : DieSt → DieSt) : (modDie s c f).freeCtr = s.freeCtr := rfl

@[simp] theorem modChan_ctxs (s : State) (c : Nat) (f : ChanSt → ChanSt) : (modChan s c f).ctxs = s.ctxs := rfl
@[simp] theorem modChan_cores (s : State) (c : Nat) (f : ChanSt → ChanSt) : (modChan s c f).cores = s.cores := rfl
@[simp] theorem modChan_clusters (s : State) (c : Nat) (f : ChanSt → ChanSt) : (modChan s c f).clusters = s.clusters := rfl
@[simp] theorem modChan_dies (s : State) (c : Nat) (f : ChanSt → ChanSt) : (modChan s c f).dies = s.dies := rfl
@[simp] theorem modChan_parts (s : State) (c : Nat) (f : ChanSt → ChanSt) : (modChan s c f).parts = s.parts := rfl
@[simp] theorem modChan_queues (s : State) (c : Nat) (f : ChanSt → ChanSt) : (modChan s c f).queues = s.queues := rfl
@[simp] theorem modChan_mem (s : State) (c : Nat) (f : ChanSt → ChanSt) : (modChan s c f).mem = s.mem := rfl
@[simp] theorem modChan_poison (s : State) (c : Nat) (f : ChanSt → ChanSt) : (modChan s c f).poison = s.poison := rfl
@[simp] theorem modChan_past (s : State) (c : Nat) (f : ChanSt → ChanSt) : (modChan s c f).past = s.past := rfl
@[simp] theorem modChan_stamp (s : State) (c : Nat) (f : ChanSt → ChanSt) : (modChan s c f).stamp = s.stamp := rfl
@[simp] theorem modChan_released (s : State) (c : Nat) (f : ChanSt → ChanSt) : (modChan s c f).released = s.released := rfl
@[simp] theorem modChan_marks (s : State) (c : Nat) (f : ChanSt → ChanSt) : (modChan s c f).marks = s.marks := rfl
@[simp] theorem modChan_wires (s : State) (c : Nat) (f : ChanSt → ChanSt) : (modChan s c f).wires = s.wires := rfl
@[simp] theorem modChan_freeWires (s : State) (c : Nat) (f : ChanSt → ChanSt) : (modChan s c f).freeWires = s.freeWires := rfl
@[simp] theorem modChan_probes (s : State) (c : Nat) (f : ChanSt → ChanSt) : (modChan s c f).probes = s.probes := rfl
@[simp] theorem modChan_hreqs (s : State) (c : Nat) (f : ChanSt → ChanSt) : (modChan s c f).hreqs = s.hreqs := rfl
@[simp] theorem modChan_sends (s : State) (c : Nat) (f : ChanSt → ChanSt) : (modChan s c f).sends = s.sends := rfl
@[simp] theorem modChan_links (s : State) (c : Nat) (f : ChanSt → ChanSt) : (modChan s c f).links = s.links := rfl
@[simp] theorem modChan_reports (s : State) (c : Nat) (f : ChanSt → ChanSt) : (modChan s c f).reports = s.reports := rfl
@[simp] theorem modChan_departed (s : State) (c : Nat) (f : ChanSt → ChanSt) : (modChan s c f).departed = s.departed := rfl
@[simp] theorem modChan_power (s : State) (c : Nat) (f : ChanSt → ChanSt) : (modChan s c f).power = s.power := rfl
@[simp] theorem modChan_hvImage (s : State) (c : Nat) (f : ChanSt → ChanSt) : (modChan s c f).hvImage = s.hvImage := rfl
@[simp] theorem modChan_nextId (s : State) (c : Nat) (f : ChanSt → ChanSt) : (modChan s c f).nextId = s.nextId := rfl
@[simp] theorem modChan_cur (s : State) (c : Nat) (f : ChanSt → ChanSt) : (modChan s c f).cur = s.cur := rfl
@[simp] theorem modChan_arg (s : State) (c : Nat) (f : ChanSt → ChanSt) : (modChan s c f).arg = s.arg := rfl
@[simp] theorem modChan_sched (s : State) (c : Nat) (f : ChanSt → ChanSt) : (modChan s c f).sched = s.sched := rfl
@[simp] theorem modChan_agenda (s : State) (c : Nat) (f : ChanSt → ChanSt) : (modChan s c f).agenda = s.agenda := rfl
@[simp] theorem modChan_phase (s : State) (c : Nat) (f : ChanSt → ChanSt) : (modChan s c f).phase = s.phase := rfl
@[simp] theorem modChan_choices (s : State) (c : Nat) (f : ChanSt → ChanSt) : (modChan s c f).choices = s.choices := rfl
@[simp] theorem modChan_freeCtr (s : State) (c : Nat) (f : ChanSt → ChanSt) : (modChan s c f).freeCtr = s.freeCtr := rfl

@[simp] theorem modPart_ctxs (s : State) (p : Nat) (f : PartSt → PartSt) : (modPart s p f).ctxs = s.ctxs := by
  unfold modPart; split <;> rfl
@[simp] theorem modPart_cores (s : State) (p : Nat) (f : PartSt → PartSt) : (modPart s p f).cores = s.cores := by
  unfold modPart; split <;> rfl
@[simp] theorem modPart_clusters (s : State) (p : Nat) (f : PartSt → PartSt) : (modPart s p f).clusters = s.clusters := by
  unfold modPart; split <;> rfl
@[simp] theorem modPart_dies (s : State) (p : Nat) (f : PartSt → PartSt) : (modPart s p f).dies = s.dies := by
  unfold modPart; split <;> rfl
@[simp] theorem modPart_chans (s : State) (p : Nat) (f : PartSt → PartSt) : (modPart s p f).chans = s.chans := by
  unfold modPart; split <;> rfl
@[simp] theorem modPart_queues (s : State) (p : Nat) (f : PartSt → PartSt) : (modPart s p f).queues = s.queues := by
  unfold modPart; split <;> rfl
@[simp] theorem modPart_mem (s : State) (p : Nat) (f : PartSt → PartSt) : (modPart s p f).mem = s.mem := by
  unfold modPart; split <;> rfl
@[simp] theorem modPart_poison (s : State) (p : Nat) (f : PartSt → PartSt) : (modPart s p f).poison = s.poison := by
  unfold modPart; split <;> rfl
@[simp] theorem modPart_past (s : State) (p : Nat) (f : PartSt → PartSt) : (modPart s p f).past = s.past := by
  unfold modPart; split <;> rfl
@[simp] theorem modPart_stamp (s : State) (p : Nat) (f : PartSt → PartSt) : (modPart s p f).stamp = s.stamp := by
  unfold modPart; split <;> rfl
@[simp] theorem modPart_released (s : State) (p : Nat) (f : PartSt → PartSt) : (modPart s p f).released = s.released := by
  unfold modPart; split <;> rfl
@[simp] theorem modPart_marks (s : State) (p : Nat) (f : PartSt → PartSt) : (modPart s p f).marks = s.marks := by
  unfold modPart; split <;> rfl
@[simp] theorem modPart_wires (s : State) (p : Nat) (f : PartSt → PartSt) : (modPart s p f).wires = s.wires := by
  unfold modPart; split <;> rfl
@[simp] theorem modPart_freeWires (s : State) (p : Nat) (f : PartSt → PartSt) : (modPart s p f).freeWires = s.freeWires := by
  unfold modPart; split <;> rfl
@[simp] theorem modPart_probes (s : State) (p : Nat) (f : PartSt → PartSt) : (modPart s p f).probes = s.probes := by
  unfold modPart; split <;> rfl
@[simp] theorem modPart_hreqs (s : State) (p : Nat) (f : PartSt → PartSt) : (modPart s p f).hreqs = s.hreqs := by
  unfold modPart; split <;> rfl
@[simp] theorem modPart_sends (s : State) (p : Nat) (f : PartSt → PartSt) : (modPart s p f).sends = s.sends := by
  unfold modPart; split <;> rfl
@[simp] theorem modPart_links (s : State) (p : Nat) (f : PartSt → PartSt) : (modPart s p f).links = s.links := by
  unfold modPart; split <;> rfl
@[simp] theorem modPart_reports (s : State) (p : Nat) (f : PartSt → PartSt) : (modPart s p f).reports = s.reports := by
  unfold modPart; split <;> rfl
@[simp] theorem modPart_departed (s : State) (p : Nat) (f : PartSt → PartSt) : (modPart s p f).departed = s.departed := by
  unfold modPart; split <;> rfl
@[simp] theorem modPart_power (s : State) (p : Nat) (f : PartSt → PartSt) : (modPart s p f).power = s.power := by
  unfold modPart; split <;> rfl
@[simp] theorem modPart_hvImage (s : State) (p : Nat) (f : PartSt → PartSt) : (modPart s p f).hvImage = s.hvImage := by
  unfold modPart; split <;> rfl
@[simp] theorem modPart_nextId (s : State) (p : Nat) (f : PartSt → PartSt) : (modPart s p f).nextId = s.nextId := by
  unfold modPart; split <;> rfl
@[simp] theorem modPart_cur (s : State) (p : Nat) (f : PartSt → PartSt) : (modPart s p f).cur = s.cur := by
  unfold modPart; split <;> rfl
@[simp] theorem modPart_arg (s : State) (p : Nat) (f : PartSt → PartSt) : (modPart s p f).arg = s.arg := by
  unfold modPart; split <;> rfl
@[simp] theorem modPart_sched (s : State) (p : Nat) (f : PartSt → PartSt) : (modPart s p f).sched = s.sched := by
  unfold modPart; split <;> rfl
@[simp] theorem modPart_agenda (s : State) (p : Nat) (f : PartSt → PartSt) : (modPart s p f).agenda = s.agenda := by
  unfold modPart; split <;> rfl
@[simp] theorem modPart_phase (s : State) (p : Nat) (f : PartSt → PartSt) : (modPart s p f).phase = s.phase := by
  unfold modPart; split <;> rfl
@[simp] theorem modPart_choices (s : State) (p : Nat) (f : PartSt → PartSt) : (modPart s p f).choices = s.choices := by
  unfold modPart; split <;> rfl
@[simp] theorem modPart_freeCtr (s : State) (p : Nat) (f : PartSt → PartSt) : (modPart s p f).freeCtr = s.freeCtr := by
  unfold modPart; split <;> rfl

@[simp] theorem post_ctxs (s : State) (i : Instr) (ns : List Nat) : (post s i ns).ctxs = s.ctxs := rfl
@[simp] theorem post_cores (s : State) (i : Instr) (ns : List Nat) : (post s i ns).cores = s.cores := rfl
@[simp] theorem post_clusters (s : State) (i : Instr) (ns : List Nat) : (post s i ns).clusters = s.clusters := rfl
@[simp] theorem post_dies (s : State) (i : Instr) (ns : List Nat) : (post s i ns).dies = s.dies := rfl
@[simp] theorem post_chans (s : State) (i : Instr) (ns : List Nat) : (post s i ns).chans = s.chans := rfl
@[simp] theorem post_parts (s : State) (i : Instr) (ns : List Nat) : (post s i ns).parts = s.parts := rfl
@[simp] theorem post_queues (s : State) (i : Instr) (ns : List Nat) : (post s i ns).queues = s.queues := rfl
@[simp] theorem post_mem (s : State) (i : Instr) (ns : List Nat) : (post s i ns).mem = s.mem := rfl
@[simp] theorem post_poison (s : State) (i : Instr) (ns : List Nat) : (post s i ns).poison = s.poison := rfl
@[simp] theorem post_past (s : State) (i : Instr) (ns : List Nat) : (post s i ns).past = s.past := rfl
@[simp] theorem post_stamp (s : State) (i : Instr) (ns : List Nat) : (post s i ns).stamp = s.stamp := rfl
@[simp] theorem post_released (s : State) (i : Instr) (ns : List Nat) : (post s i ns).released = s.released := rfl
@[simp] theorem post_marks (s : State) (i : Instr) (ns : List Nat) : (post s i ns).marks = s.marks := rfl
@[simp] theorem post_wires (s : State) (i : Instr) (ns : List Nat) : (post s i ns).wires = s.wires := rfl
@[simp] theorem post_freeWires (s : State) (i : Instr) (ns : List Nat) : (post s i ns).freeWires = s.freeWires := rfl
@[simp] theorem post_probes (s : State) (i : Instr) (ns : List Nat) : (post s i ns).probes = s.probes := rfl
@[simp] theorem post_hreqs (s : State) (i : Instr) (ns : List Nat) : (post s i ns).hreqs = s.hreqs := rfl
@[simp] theorem post_sends (s : State) (i : Instr) (ns : List Nat) : (post s i ns).sends = s.sends := rfl
@[simp] theorem post_links (s : State) (i : Instr) (ns : List Nat) : (post s i ns).links = s.links := rfl
@[simp] theorem post_reports (s : State) (i : Instr) (ns : List Nat) : (post s i ns).reports = s.reports := rfl
@[simp] theorem post_departed (s : State) (i : Instr) (ns : List Nat) : (post s i ns).departed = s.departed := rfl
@[simp] theorem post_power (s : State) (i : Instr) (ns : List Nat) : (post s i ns).power = s.power := rfl
@[simp] theorem post_hvImage (s : State) (i : Instr) (ns : List Nat) : (post s i ns).hvImage = s.hvImage := rfl
@[simp] theorem post_nextId (s : State) (i : Instr) (ns : List Nat) : (post s i ns).nextId = s.nextId := rfl
@[simp] theorem post_cur (s : State) (i : Instr) (ns : List Nat) : (post s i ns).cur = s.cur := rfl
@[simp] theorem post_arg (s : State) (i : Instr) (ns : List Nat) : (post s i ns).arg = s.arg := rfl
@[simp] theorem post_sched (s : State) (i : Instr) (ns : List Nat) : (post s i ns).sched = s.sched := rfl
@[simp] theorem post_phase (s : State) (i : Instr) (ns : List Nat) : (post s i ns).phase = s.phase := rfl
@[simp] theorem post_choices (s : State) (i : Instr) (ns : List Nat) : (post s i ns).choices = s.choices := rfl
@[simp] theorem post_freeCtr (s : State) (i : Instr) (ns : List Nat) : (post s i ns).freeCtr = s.freeCtr := rfl
@[simp] theorem post_agenda (s : State) (i : Instr) (ns : List Nat) : (post s i ns).agenda = s.agenda ++ [(i, EvArg.of ns)] := rfl

@[simp] theorem rawWrite_ctxs (s : State) (a : Nat) (bs : List Byte) : (rawWrite s a bs).ctxs = s.ctxs := rfl
@[simp] theorem rawWrite_cores (s : State) (a : Nat) (bs : List Byte) : (rawWrite s a bs).cores = s.cores := rfl
@[simp] theorem rawWrite_clusters (s : State) (a : Nat) (bs : List Byte) : (rawWrite s a bs).clusters = s.clusters := rfl
@[simp] theorem rawWrite_dies (s : State) (a : Nat) (bs : List Byte) : (rawWrite s a bs).dies = s.dies := rfl
@[simp] theorem rawWrite_chans (s : State) (a : Nat) (bs : List Byte) : (rawWrite s a bs).chans = s.chans := rfl
@[simp] theorem rawWrite_parts (s : State) (a : Nat) (bs : List Byte) : (rawWrite s a bs).parts = s.parts := rfl
@[simp] theorem rawWrite_queues (s : State) (a : Nat) (bs : List Byte) : (rawWrite s a bs).queues = s.queues := rfl
@[simp] theorem rawWrite_poison (s : State) (a : Nat) (bs : List Byte) : (rawWrite s a bs).poison = s.poison := rfl
@[simp] theorem rawWrite_past (s : State) (a : Nat) (bs : List Byte) : (rawWrite s a bs).past = s.past := rfl
@[simp] theorem rawWrite_stamp (s : State) (a : Nat) (bs : List Byte) : (rawWrite s a bs).stamp = s.stamp := rfl
@[simp] theorem rawWrite_released (s : State) (a : Nat) (bs : List Byte) : (rawWrite s a bs).released = s.released := rfl
@[simp] theorem rawWrite_marks (s : State) (a : Nat) (bs : List Byte) : (rawWrite s a bs).marks = s.marks := rfl
@[simp] theorem rawWrite_wires (s : State) (a : Nat) (bs : List Byte) : (rawWrite s a bs).wires = s.wires := rfl
@[simp] theorem rawWrite_freeWires (s : State) (a : Nat) (bs : List Byte) : (rawWrite s a bs).freeWires = s.freeWires := rfl
@[simp] theorem rawWrite_probes (s : State) (a : Nat) (bs : List Byte) : (rawWrite s a bs).probes = s.probes := rfl
@[simp] theorem rawWrite_hreqs (s : State) (a : Nat) (bs : List Byte) : (rawWrite s a bs).hreqs = s.hreqs := rfl
@[simp] theorem rawWrite_sends (s : State) (a : Nat) (bs : List Byte) : (rawWrite s a bs).sends = s.sends := rfl
@[simp] theorem rawWrite_links (s : State) (a : Nat) (bs : List Byte) : (rawWrite s a bs).links = s.links := rfl
@[simp] theorem rawWrite_reports (s : State) (a : Nat) (bs : List Byte) : (rawWrite s a bs).reports = s.reports := rfl
@[simp] theorem rawWrite_departed (s : State) (a : Nat) (bs : List Byte) : (rawWrite s a bs).departed = s.departed := rfl
@[simp] theorem rawWrite_power (s : State) (a : Nat) (bs : List Byte) : (rawWrite s a bs).power = s.power := rfl
@[simp] theorem rawWrite_hvImage (s : State) (a : Nat) (bs : List Byte) : (rawWrite s a bs).hvImage = s.hvImage := rfl
@[simp] theorem rawWrite_nextId (s : State) (a : Nat) (bs : List Byte) : (rawWrite s a bs).nextId = s.nextId := rfl
@[simp] theorem rawWrite_cur (s : State) (a : Nat) (bs : List Byte) : (rawWrite s a bs).cur = s.cur := rfl
@[simp] theorem rawWrite_arg (s : State) (a : Nat) (bs : List Byte) : (rawWrite s a bs).arg = s.arg := rfl
@[simp] theorem rawWrite_sched (s : State) (a : Nat) (bs : List Byte) : (rawWrite s a bs).sched = s.sched := rfl
@[simp] theorem rawWrite_agenda (s : State) (a : Nat) (bs : List Byte) : (rawWrite s a bs).agenda = s.agenda := rfl
@[simp] theorem rawWrite_phase (s : State) (a : Nat) (bs : List Byte) : (rawWrite s a bs).phase = s.phase := rfl
@[simp] theorem rawWrite_choices (s : State) (a : Nat) (bs : List Byte) : (rawWrite s a bs).choices = s.choices := rfl
@[simp] theorem rawWrite_freeCtr (s : State) (a : Nat) (bs : List Byte) : (rawWrite s a bs).freeCtr = s.freeCtr := rfl
@[simp] theorem rawWrite_mem (s : State) (a : Nat) (bs : List Byte) : (rawWrite s a bs).mem = memWrite s.mem a bs := rfl

@[simp] theorem getCore_putCtx (s : State) (c k : Nat) (x : Ctx) : getCore (putCtx s c x) k = getCore s k := rfl
@[simp] theorem getCluster_putCtx (s : State) (c k : Nat) (x : Ctx) : getCluster (putCtx s c x) k = getCluster s k := rfl
@[simp] theorem getDie_putCtx (s : State) (c k : Nat) (x : Ctx) : getDie (putCtx s c x) k = getDie s k := rfl
@[simp] theorem getChan_putCtx (s : State) (c k : Nat) (x : Ctx) : getChan (putCtx s c x) k = getChan s k := rfl
@[simp] theorem getPart_putCtx (s : State) (c k : Nat) (x : Ctx) : getPart? (putCtx s c x) k = getPart? s k := rfl
@[simp] theorem getCtx_putCore (s : State) (c k : Nat) (x : CoreSt) : getCtx (putCore s c x) k = getCtx s k := rfl
@[simp] theorem getCluster_putCore (s : State) (c k : Nat) (x : CoreSt) : getCluster (putCore s c x) k = getCluster s k := rfl
@[simp] theorem getDie_putCore (s : State) (c k : Nat) (x : CoreSt) : getDie (putCore s c x) k = getDie s k := rfl
@[simp] theorem getChan_putCore (s : State) (c k : Nat) (x : CoreSt) : getChan (putCore s c x) k = getChan s k := rfl
@[simp] theorem getPart_putCore (s : State) (c k : Nat) (x : CoreSt) : getPart? (putCore s c x) k = getPart? s k := rfl
@[simp] theorem getCtx_putCluster (s : State) (c k : Nat) (x : ClusterSt) : getCtx (putCluster s c x) k = getCtx s k := rfl
@[simp] theorem getCore_putCluster (s : State) (c k : Nat) (x : ClusterSt) : getCore (putCluster s c x) k = getCore s k := rfl
@[simp] theorem getDie_putCluster (s : State) (c k : Nat) (x : ClusterSt) : getDie (putCluster s c x) k = getDie s k := rfl
@[simp] theorem getChan_putCluster (s : State) (c k : Nat) (x : ClusterSt) : getChan (putCluster s c x) k = getChan s k := rfl
@[simp] theorem getPart_putCluster (s : State) (c k : Nat) (x : ClusterSt) : getPart? (putCluster s c x) k = getPart? s k := rfl
@[simp] theorem getCtx_putDie (s : State) (c k : Nat) (x : DieSt) : getCtx (putDie s c x) k = getCtx s k := rfl
@[simp] theorem getCore_putDie (s : State) (c k : Nat) (x : DieSt) : getCore (putDie s c x) k = getCore s k := rfl
@[simp] theorem getCluster_putDie (s : State) (c k : Nat) (x : DieSt) : getCluster (putDie s c x) k = getCluster s k := rfl
@[simp] theorem getChan_putDie (s : State) (c k : Nat) (x : DieSt) : getChan (putDie s c x) k = getChan s k := rfl
@[simp] theorem getPart_putDie (s : State) (c k : Nat) (x : DieSt) : getPart? (putDie s c x) k = getPart? s k := rfl
@[simp] theorem getCtx_putChan (s : State) (c k : Nat) (x : ChanSt) : getCtx (putChan s c x) k = getCtx s k := rfl
@[simp] theorem getCore_putChan (s : State) (c k : Nat) (x : ChanSt) : getCore (putChan s c x) k = getCore s k := rfl
@[simp] theorem getCluster_putChan (s : State) (c k : Nat) (x : ChanSt) : getCluster (putChan s c x) k = getCluster s k := rfl
@[simp] theorem getDie_putChan (s : State) (c k : Nat) (x : ChanSt) : getDie (putChan s c x) k = getDie s k := rfl
@[simp] theorem getPart_putChan (s : State) (c k : Nat) (x : ChanSt) : getPart? (putChan s c x) k = getPart? s k := rfl
@[simp] theorem getCtx_putPart (s : State) (c k : Nat) (x : PartSt) : getCtx (putPart s c x) k = getCtx s k := rfl
@[simp] theorem getCore_putPart (s : State) (c k : Nat) (x : PartSt) : getCore (putPart s c x) k = getCore s k := rfl
@[simp] theorem getCluster_putPart (s : State) (c k : Nat) (x : PartSt) : getCluster (putPart s c x) k = getCluster s k := rfl
@[simp] theorem getDie_putPart (s : State) (c k : Nat) (x : PartSt) : getDie (putPart s c x) k = getDie s k := rfl
@[simp] theorem getChan_putPart (s : State) (c k : Nat) (x : PartSt) : getChan (putPart s c x) k = getChan s k := rfl
@[simp] theorem getCore_modCtx (s : State) (c k : Nat) (f : Ctx → Ctx) : getCore (modCtx s c f) k = getCore s k := rfl
@[simp] theorem getCluster_modCtx (s : State) (c k : Nat) (f : Ctx → Ctx) : getCluster (modCtx s c f) k = getCluster s k := rfl
@[simp] theorem getDie_modCtx (s : State) (c k : Nat) (f : Ctx → Ctx) : getDie (modCtx s c f) k = getDie s k := rfl
@[simp] theorem getChan_modCtx (s : State) (c k : Nat) (f : Ctx → Ctx) : getChan (modCtx s c f) k = getChan s k := rfl
@[simp] theorem getPart_modCtx (s : State) (c k : Nat) (f : Ctx → Ctx) : getPart? (modCtx s c f) k = getPart? s k := rfl
@[simp] theorem getCtx_modCore (s : State) (c k : Nat) (f : CoreSt → CoreSt) : getCtx (modCore s c f) k = getCtx s k := rfl
@[simp] theorem getCluster_modCore (s : State) (c k : Nat) (f : CoreSt → CoreSt) : getCluster (modCore s c f) k = getCluster s k := rfl
@[simp] theorem getDie_modCore (s : State) (c k : Nat) (f : CoreSt → CoreSt) : getDie (modCore s c f) k = getDie s k := rfl
@[simp] theorem getChan_modCore (s : State) (c k : Nat) (f : CoreSt → CoreSt) : getChan (modCore s c f) k = getChan s k := rfl
@[simp] theorem getPart_modCore (s : State) (c k : Nat) (f : CoreSt → CoreSt) : getPart? (modCore s c f) k = getPart? s k := rfl
@[simp] theorem getCtx_modCluster (s : State) (c k : Nat) (f : ClusterSt → ClusterSt) : getCtx (modCluster s c f) k = getCtx s k := rfl
@[simp] theorem getCore_modCluster (s : State) (c k : Nat) (f : ClusterSt → ClusterSt) : getCore (modCluster s c f) k = getCore s k := rfl
@[simp] theorem getDie_modCluster (s : State) (c k : Nat) (f : ClusterSt → ClusterSt) : getDie (modCluster s c f) k = getDie s k := rfl
@[simp] theorem getChan_modCluster (s : State) (c k : Nat) (f : ClusterSt → ClusterSt) : getChan (modCluster s c f) k = getChan s k := rfl
@[simp] theorem getPart_modCluster (s : State) (c k : Nat) (f : ClusterSt → ClusterSt) : getPart? (modCluster s c f) k = getPart? s k := rfl
@[simp] theorem getCtx_modDie (s : State) (c k : Nat) (f : DieSt → DieSt) : getCtx (modDie s c f) k = getCtx s k := rfl
@[simp] theorem getCore_modDie (s : State) (c k : Nat) (f : DieSt → DieSt) : getCore (modDie s c f) k = getCore s k := rfl
@[simp] theorem getCluster_modDie (s : State) (c k : Nat) (f : DieSt → DieSt) : getCluster (modDie s c f) k = getCluster s k := rfl
@[simp] theorem getChan_modDie (s : State) (c k : Nat) (f : DieSt → DieSt) : getChan (modDie s c f) k = getChan s k := rfl
@[simp] theorem getPart_modDie (s : State) (c k : Nat) (f : DieSt → DieSt) : getPart? (modDie s c f) k = getPart? s k := rfl
@[simp] theorem getCtx_modChan (s : State) (c k : Nat) (f : ChanSt → ChanSt) : getCtx (modChan s c f) k = getCtx s k := rfl
@[simp] theorem getCore_modChan (s : State) (c k : Nat) (f : ChanSt → ChanSt) : getCore (modChan s c f) k = getCore s k := rfl
@[simp] theorem getCluster_modChan (s : State) (c k : Nat) (f : ChanSt → ChanSt) : getCluster (modChan s c f) k = getCluster s k := rfl
@[simp] theorem getDie_modChan (s : State) (c k : Nat) (f : ChanSt → ChanSt) : getDie (modChan s c f) k = getDie s k := rfl
@[simp] theorem getPart_modChan (s : State) (c k : Nat) (f : ChanSt → ChanSt) : getPart? (modChan s c f) k = getPart? s k := rfl

@[simp] theorem setReg_v (x : Ctx) (r : Reg) (v : Word) : (setReg x r v).v = x.v := by
  unfold setReg; split
  · split <;> rfl
  · rfl
@[simp] theorem setReg_acc (x : Ctx) (r : Reg) (v : Word) : (setReg x r v).acc = x.acc := by
  unfold setReg; split
  · split <;> rfl
  · rfl
@[simp] theorem setReg_ks (x : Ctx) (r : Reg) (v : Word) : (setReg x r v).ks = x.ks := by
  unfold setReg; split
  · split <;> rfl
  · rfl
@[simp] theorem setReg_tok (x : Ctx) (r : Reg) (v : Word) : (setReg x r v).tok = x.tok := by
  unfold setReg; split
  · split <;> rfl
  · rfl
@[simp] theorem setReg_fmt (x : Ctx) (r : Reg) (v : Word) : (setReg x r v).fmt = x.fmt := by
  unfold setReg; split
  · split <;> rfl
  · rfl
@[simp] theorem setReg_amx (x : Ctx) (r : Reg) (v : Word) : (setReg x r v).amx = x.amx := by
  unfold setReg; split
  · split <;> rfl
  · rfl
@[simp] theorem setReg_shp (x : Ctx) (r : Reg) (v : Word) : (setReg x r v).shp = x.shp := by
  unfold setReg; split
  · split <;> rfl
  · rfl
@[simp] theorem setReg_ls (x : Ctx) (r : Reg) (v : Word) : (setReg x r v).ls = x.ls := by
  unfold setReg; split
  · split <;> rfl
  · rfl
@[simp] theorem setReg_le (x : Ctx) (r : Reg) (v : Word) : (setReg x r v).le = x.le := by
  unfold setReg; split
  · split <;> rfl
  · rfl
@[simp] theorem setReg_lc (x : Ctx) (r : Reg) (v : Word) : (setReg x r v).lc = x.lc := by
  unfold setReg; split
  · split <;> rfl
  · rfl
@[simp] theorem setReg_pc (x : Ctx) (r : Reg) (v : Word) : (setReg x r v).pc = x.pc := by
  unfold setReg; split
  · split <;> rfl
  · rfl
@[simp] theorem setReg_st (x : Ctx) (r : Reg) (v : Word) : (setReg x r v).st = x.st := by
  unfold setReg; split
  · split <;> rfl
  · rfl
@[simp] theorem setReg_tvec (x : Ctx) (r : Reg) (v : Word) : (setReg x r v).tvec = x.tvec := by
  unfold setReg; split
  · split <;> rfl
  · rfl
@[simp] theorem setReg_tframe (x : Ctx) (r : Reg) (v : Word) : (setReg x r v).tframe = x.tframe := by
  unfold setReg; split
  · split <;> rfl
  · rfl
@[simp] theorem setReg_tag (x : Ctx) (r : Reg) (v : Word) : (setReg x r v).tag = x.tag := by
  unfold setReg; split
  · split <;> rfl
  · rfl
@[simp] theorem setReg_pid (x : Ctx) (r : Reg) (v : Word) : (setReg x r v).pid = x.pid := by
  unfold setReg; split
  · split <;> rfl
  · rfl
@[simp] theorem setReg_budget (x : Ctx) (r : Reg) (v : Word) : (setReg x r v).budget = x.budget := by
  unfold setReg; split
  · split <;> rfl
  · rfl
@[simp] theorem setReg_charge (x : Ctx) (r : Reg) (v : Word) : (setReg x r v).charge = x.charge := by
  unfold setReg; split
  · split <;> rfl
  · rfl
@[simp] theorem setReg_deadline (x : Ctx) (r : Reg) (v : Word) : (setReg x r v).deadline = x.deadline := by
  unfold setReg; split
  · split <;> rfl
  · rfl
@[simp] theorem setReg_lwin (x : Ctx) (r : Reg) (v : Word) : (setReg x r v).lwin = x.lwin := by
  unfold setReg; split
  · split <;> rfl
  · rfl
@[simp] theorem setReg_flock (x : Ctx) (r : Reg) (v : Word) : (setReg x r v).flock = x.flock := by
  unfold setReg; split
  · split <;> rfl
  · rfl
@[simp] theorem setReg_hintgap (x : Ctx) (r : Reg) (v : Word) : (setReg x r v).hintgap = x.hintgap := by
  unfold setReg; split
  · split <;> rfl
  · rfl
@[simp] theorem setReg_ecnt (x : Ctx) (r : Reg) (v : Word) : (setReg x r v).ecnt = x.ecnt := by
  unfold setReg; split
  · split <;> rfl
  · rfl
@[simp] theorem setReg_apxctl (x : Ctx) (r : Reg) (v : Word) : (setReg x r v).apxctl = x.apxctl := by
  unfold setReg; split
  · split <;> rfl
  · rfl
@[simp] theorem setReg_seed (x : Ctx) (r : Reg) (v : Word) : (setReg x r v).seed = x.seed := by
  unfold setReg; split
  · split <;> rfl
  · rfl
@[simp] theorem setReg_pfx (x : Ctx) (r : Reg) (v : Word) : (setReg x r v).pfx = x.pfx := by
  unfold setReg; split
  · split <;> rfl
  · rfl
@[simp] theorem setReg_pbind (x : Ctx) (r : Reg) (v : Word) : (setReg x r v).pbind = x.pbind := by
  unfold setReg; split
  · split <;> rfl
  · rfl
@[simp] theorem setReg_chhead (x : Ctx) (r : Reg) (v : Word) : (setReg x r v).chhead = x.chhead := by
  unfold setReg; split
  · split <;> rfl
  · rfl
@[simp] theorem setReg_wp (x : Ctx) (r : Reg) (v : Word) : (setReg x r v).wp = x.wp := by
  unfold setReg; split
  · split <;> rfl
  · rfl
@[simp] theorem setReg_chcause (x : Ctx) (r : Reg) (v : Word) : (setReg x r v).chcause = x.chcause := by
  unfold setReg; split
  · split <;> rfl
  · rfl
@[simp] theorem setReg_chrec (x : Ctx) (r : Reg) (v : Word) : (setReg x r v).chrec = x.chrec := by
  unfold setReg; split
  · split <;> rfl
  · rfl
@[simp] theorem setReg_chfault (x : Ctx) (r : Reg) (v : Word) : (setReg x r v).chfault = x.chfault := by
  unfold setReg; split
  · split <;> rfl
  · rfl
@[simp] theorem setReg_sepc (x : Ctx) (r : Reg) (v : Word) : (setReg x r v).sepc = x.sepc := by
  unfold setReg; split
  · split <;> rfl
  · rfl
@[simp] theorem setReg_sest (x : Ctx) (r : Reg) (v : Word) : (setReg x r v).sest = x.sest := by
  unfold setReg; split
  · split <;> rfl
  · rfl
@[simp] theorem setReg_scode (x : Ctx) (r : Reg) (v : Word) : (setReg x r v).scode = x.scode := by
  unfold setReg; split
  · split <;> rfl
  · rfl
@[simp] theorem setReg_sarg (x : Ctx) (r : Reg) (v : Word) : (setReg x r v).sarg = x.sarg := by
  unfold setReg; split
  · split <;> rfl
  · rfl
@[simp] theorem setReg_hepc (x : Ctx) (r : Reg) (v : Word) : (setReg x r v).hepc = x.hepc := by
  unfold setReg; split
  · split <;> rfl
  · rfl
@[simp] theorem setReg_hest (x : Ctx) (r : Reg) (v : Word) : (setReg x r v).hest = x.hest := by
  unfold setReg; split
  · split <;> rfl
  · rfl
@[simp] theorem setReg_lfsr (x : Ctx) (r : Reg) (v : Word) : (setReg x r v).lfsr = x.lfsr := by
  unfold setReg; split
  · split <;> rfl
  · rfl
@[simp] theorem setReg_shadow (x : Ctx) (r : Reg) (v : Word) : (setReg x r v).shadow = x.shadow := by
  unfold setReg; split
  · split <;> rfl
  · rfl
@[simp] theorem setReg_latch (x : Ctx) (r : Reg) (v : Word) : (setReg x r v).latch = x.latch := by
  unfold setReg; split
  · split <;> rfl
  · rfl
@[simp] theorem setReg_apx (x : Ctx) (r : Reg) (v : Word) : (setReg x r v).apx = x.apx := by
  unfold setReg; split
  · split <;> rfl
  · rfl
@[simp] theorem setReg_barIdx (x : Ctx) (r : Reg) (v : Word) : (setReg x r v).barIdx = x.barIdx := by
  unfold setReg; split
  · split <;> rfl
  · rfl
@[simp] theorem setReg_sent (x : Ctx) (r : Reg) (v : Word) : (setReg x r v).sent = x.sent := by
  unfold setReg; split
  · split <;> rfl
  · rfl
@[simp] theorem setReg_recv (x : Ctx) (r : Reg) (v : Word) : (setReg x r v).recv = x.recv := by
  unfold setReg; split
  · split <;> rfl
  · rfl
@[simp] theorem setReg_hcallOut (x : Ctx) (r : Reg) (v : Word) : (setReg x r v).hcallOut = x.hcallOut := by
  unfold setReg; split
  · split <;> rfl
  · rfl
@[simp] theorem setReg_root (x : Ctx) (r : Reg) (v : Word) : (setReg x r v).root = x.root := by
  unfold setReg; split
  · split <;> rfl
  · rfl
@[simp] theorem setReg_serving (x : Ctx) (r : Reg) (v : Word) : (setReg x r v).serving = x.serving := by
  unfold setReg; split
  · split <;> rfl
  · rfl
@[simp] theorem setReg_stq (x : Ctx) (r : Reg) (v : Word) : (setReg x r v).stq = x.stq := by
  unfold setReg; split
  · split <;> rfl
  · rfl
@[simp] theorem setReg_fence (x : Ctx) (r : Reg) (v : Word) : (setReg x r v).fence = x.fence := by
  unfold setReg; split
  · split <;> rfl
  · rfl
@[simp] theorem setReg_acqPend (x : Ctx) (r : Reg) (v : Word) : (setReg x r v).acqPend = x.acqPend := by
  unfold setReg; split
  · split <;> rfl
  · rfl
@[simp] theorem setReg_view (x : Ctx) (r : Reg) (v : Word) : (setReg x r v).view = x.view := by
  unfold setReg; split
  · split <;> rfl
  · rfl
@[simp] theorem setReg_threads (x : Ctx) (r : Reg) (v : Word) : (setReg x r v).threads = x.threads := by
  unfold setReg; split
  · split <;> rfl
  · rfl
@[simp] theorem setReg_region (x : Ctx) (r : Reg) (v : Word) : (setReg x r v).region = x.region := by
  unfold setReg; split
  · split <;> rfl
  · rfl
@[simp] theorem setReg_mode (x : Ctx) (r : Reg) (v : Word) : (setReg x r v).mode = x.mode := by
  unfold setReg; split
  · split <;> rfl
  · rfl
@[simp] theorem setReg_waiting (x : Ctx) (r : Reg) (v : Word) : (setReg x r v).waiting = x.waiting := by
  unfold setReg; split
  · split <;> rfl
  · rfl
@[simp] theorem setReg_waitSince (x : Ctx) (r : Reg) (v : Word) : (setReg x r v).waitSince = x.waitSince := by
  unfold setReg; split
  · split <;> rfl
  · rfl
@[simp] theorem setReg_stall (x : Ctx) (r : Reg) (v : Word) : (setReg x r v).stall = x.stall := by
  unfold setReg; split
  · split <;> rfl
  · rfl
@[simp] theorem setReg_probeAt (x : Ctx) (r : Reg) (v : Word) : (setReg x r v).probeAt = x.probeAt := by
  unfold setReg; split
  · split <;> rfl
  · rfl
@[simp] theorem setReg_notice (x : Ctx) (r : Reg) (v : Word) : (setReg x r v).notice = x.notice := by
  unfold setReg; split
  · split <;> rfl
  · rfl
@[simp] theorem setReg_window (x : Ctx) (r : Reg) (v : Word) : (setReg x r v).window = x.window := by
  unfold setReg; split
  · split <;> rfl
  · rfl
@[simp] theorem setReg_hint (x : Ctx) (r : Reg) (v : Word) : (setReg x r v).hint = x.hint := by
  unfold setReg; split
  · split <;> rfl
  · rfl
@[simp] theorem setReg_budx (x : Ctx) (r : Reg) (v : Word) : (setReg x r v).budx = x.budx := by
  unfold setReg; split
  · split <;> rfl
  · rfl
@[simp] theorem setReg_refused (x : Ctx) (r : Reg) (v : Word) : (setReg x r v).refused = x.refused := by
  unfold setReg; split
  · split <;> rfl
  · rfl
@[simp] theorem setReg_successor (x : Ctx) (r : Reg) (v : Word) : (setReg x r v).successor = x.successor := by
  unfold setReg; split
  · split <;> rfl
  · rfl
@[simp] theorem setReg_halted (x : Ctx) (r : Reg) (v : Word) : (setReg x r v).halted = x.halted := by
  unfold setReg; split
  · split <;> rfl
  · rfl
@[simp] theorem setReg_follower (x : Ctx) (r : Reg) (v : Word) : (setReg x r v).follower = x.follower := by
  unfold setReg; split
  · split <;> rfl
  · rfl
@[simp] theorem setReg_run (x : Ctx) (r : Reg) (v : Word) : (setReg x r v).run = x.run := by
  unfold setReg; split
  · split <;> rfl
  · rfl
@[simp] theorem setReg_bound (x : Ctx) (r : Reg) (v : Word) : (setReg x r v).bound = x.bound := by
  unfold setReg; split
  · split <;> rfl
  · rfl
@[simp] theorem setReg_settledAt (x : Ctx) (r : Reg) (v : Word) : (setReg x r v).settledAt = x.settledAt := by
  unfold setReg; split
  · split <;> rfl
  · rfl

/-- Register 0 reads as zero (R15). -/
@[simp] theorem getReg_zero (x : Ctx) : getReg x 0 = 0 := by simp [getReg]

/-- Register 0 discards what is written (R15). -/
@[simp] theorem setReg_zero (x : Ctx) (v : Word) : setReg x 0 v = x := by simp [setReg]

/-- A register of its own reads what was written (R15). -/
theorem getReg_setReg (x : Ctx) (r : Reg) (v : Word) (h0 : r.val ≠ 0) (h : r.val < 28) : getReg (setReg x r v) r = v := by
  simp [getReg, setReg, h, h0]

/-- Writing one register leaves the others (R15). -/
theorem getReg_setReg_ne (x : Ctx) (r q : Reg) (v : Word) (h : q ≠ r) : getReg (setReg x r v) q = getReg x q := by
  have hv : r.val ≠ q.val := fun e => h (Fin.ext e.symm)
  unfold setReg
  split
  · split
    · rfl
    · unfold getReg
      split
      · split
        · rfl
        · simp [hv]
      · rfl
  · rfl

end Sys2Proof.Machine
end

