-- ==== Sys2Proof/Safety.lean ====
section
/-! DEFINITION. What a safe state is: memory in its canonical form. -/

namespace Sys2Proof.Machine

/-- A state that claims may be made about: memory is in canonical form, so equal memories are equal lists. -/
def State.Safe (s : State) : Prop := Memory.wf s.mem = true

/-- A run of steps that never stops with a fault or a refusal. -/
def SafeRun : Nat → State → Prop
  | 0, s => s.Safe
  | n + 1, s => s.Safe ∧ ∃ t, step s = .next t ∧ SafeRun n t

end Sys2Proof.Machine
end

