-- ==== Sys2Proof/Tests/Base.lean ====
section
/-! SUPPORT. Small states for the tests and witnesses: a part with one partition, and contexts of it that run. -/

namespace Sys2Proof.Tests

open Sys2Proof.Machine Sys2Proof.Claims

/-- A partition of clusters 0 and 1 whose process 1 has its tables at 0x10000. -/
def part0 : PartSt :=
  newPart ⟨[0, 1], 7, 8, 1, 16, 16, [(1, 0x10000)], 0x8000000, 0, true, 4096, [], [], [], (0, 0), (0, 0)⟩ 0

/-- General registers from g1 on. -/
def regs (l : List Nat) : Vector Word 28 := Vector.ofFn (fun i : Fin 28 => if i.val = 0 then 0 else w64 (l.getD (i.val - 1) 0))

/-- A task-mode context that runs at 0x1000 with the whole of local memory as its window. -/
def ctx0 : Ctx :=
  { Ctx.reset with
    mode := .running, pc := 0x1000, pid := 1, tag := 5, budget := 1000000, lwin := 0x0003000000000000
    g := regs [0x100, 0x200, 3, 0xFFFFFFFFFFFFFFFB, 0x80000000] }

/-- A part in which context 0 runs. -/
def base : State :=
  { State.reset with
    power := .running, parts := [(0, part0)], ctxs := [(0, ctx0)]
    clusters := [(0, { ClusterSt.reset with part := some 0, gated := false }),
      (1, { ClusterSt.reset with part := some 0, gated := false })] }

/-- The base with its context changed. -/
def baseC (f : Ctx → Ctx) : State := modCtx base 0 f

/-- The base with other registers from g1 on. -/
def baseR (l : List Nat) : State := baseC (fun x => { x with g := regs l })

/-- The base with the context in supervisor mode. -/
def baseS (l : List Nat) : State := baseC (fun x => { x with g := regs l, st := 1 })

/-- A memory-core context that serves an order of core 0, channel 0. -/
def serving0 : Serving := ⟨0, 0, 0, 1, 5, false, 0, 0x400, 4096, 0, [], [], false, none⟩

/-- The base with memory-core context 0 of memory core 0 running. -/
def baseM (l : List Nat) : State :=
  { base with cur := memBase, ctxs := [(0, ctx0), (memBase, { ctx0 with g := regs l, serving := some serving0 })] }

/-- A translator run. -/
def run0 : RootRun := ⟨9, 1000, 0, 0x40000000, 4096, 0x8000, 4096, 1024, 0x9000, 4096, 0xA000, [], []⟩

/-- The base with its context in a translator run. -/
def baseK (l : List Nat) : State := baseC (fun x => { x with g := regs l, st := 4, root := some run0, pc := 0x40000000 })

/-- The conditions of Ready as one Bool. -/
def readyB (s : State) (wu : Nat) : Bool :=
  let x := me s
  decide (flockOf s s.cur = [] ∧ meterFull x = false ∧ (isMem s.cur = true ∨ x.charge.toNat + wu ≤ x.budget.toNat) ∧ owes x = false ∧ wBits x.st 3 1 = 0) &&
    x.serving.all (fun v => decide (v.retired + 1 < programLimit v))

theorem ready_of {s : State} {wu : Nat} (h : readyB s wu) : Ready s wu := by
  have ⟨p, q⟩ := Bool.and_eq_true _ _ ▸ h
  have ⟨alone, meter, budget, paid, plain⟩ := of_decide_eq_true p
  exact { alone, meter, budget, paid, plain, limit := fun v e => by simpa [e] using q }

theorem readyC_of {s : State} {wu : Nat} (h : readyB s wu) (compute : isMem s.cur = false) : ReadyCompute s wu :=
  { ready_of h with compute }

theorem freeC_of {s : State} {wu : Nat} (h : readyB s wu) (compute : isMem s.cur = false) : FreeCompute s wu :=
  { (ready_of h).toFree with compute }

/-- Nothing is held, so whatever is held has a property. -/
theorem no_of {α : Type} {o : Option α} {P : α → Prop} (none : o = none) (r : α) (e : o = some r) : P r :=
  nomatch none.symm.trans e

/-- One thing is held, and it has the property. -/
theorem some_of {α : Type} {o : Option α} {P : α → Prop} {a : α} (one : o = some a) (hp : P a) (r : α) (e : o = some r) : P r :=
  Option.some.inj (one.symm.trans e) ▸ hp

end Sys2Proof.Tests
end

