-- ==== Sys2Proof/Tests/Slice0.lean ====
section
/-! SUPPORT. Tests: ill-formed instructions, words written out from the encodings of the spec, and single steps whose results
the spec's own worked examples give. -/

namespace Sys2Proof.Tests

open Sys2Proof.Machine Sys2Proof.Claims

set_option maxRecDepth 100000
set_option Elab.async false

/-- A word decodes to an instruction, and the instruction encodes to the word. -/
def means (w : Nat) (i : Instr) : Bool :=
  decodeTableWord 32 w == some i && encode i == some (BitVec.ofNat 32 w) && wellFormed i

/-! ## Well-formedness: one ill-formed term for each check of WellFormed -/

theorem test_ill_formed :
    wellFormed (.ext 3 4 true .d) = false ∧ wellFormed (.bfx 3 4 60 true 4) = false ∧ wellFormed (.bfi 3 4 0 63) = true ∧
    wellFormed (.bfi 3 4 1 63) = false ∧ wellFormed (.ldScoped 3 4 0 .d .core .rel) = false ∧
    wellFormed (.stScoped 3 4 0 .d .core .acq) = false ∧ wellFormed (.fence .core .plain) = false ∧
    wellFormed (.vdot4 1 2 3 .ws .wrap) = false ∧ wellFormed (.vins 1 2 (.int .ds) 2) = false ∧
    wellFormed (.vext 1 2 (.flt .f16) 8) = false ∧ wellFormed (.tset 1 2 0) = false ∧ wellFormed (.tset 1 0 0) = true ∧
    wellFormed (.cvt 3 4 0 .rne .f32 .f32) = false ∧ wellFormed (.cvt 3 4 0 .rne .ds .wz) = false ∧
    wellFormed (.cvt 3 4 1 .rne .f32 .ds) = false ∧ wellFormed (.efence 0) = false ∧ wellFormed (.mtc 3 14) = false ∧
    wellFormed (.mtc 3 16) = false ∧ wellFormed (.mtc 3 32) = false ∧ wellFormed (.mtc 3 37) = false := by decide

/-! ## Words -/

/-- R91 and the list of R92. -/
theorem test_integer_words :
    -- add g10, g10, g20
    means 0b000001_01010_01010_10100_00000000000 (.add 10 10 20 .wrap .d) = true ∧
    -- sub.w.satu g5, g6, g7
    means 0b000001_00101_00110_00111_10010000001 (.sub 5 6 7 .satu .w) = true ∧
    -- sltu.b g5, g6, g7
    means 0b000001_00101_00110_00111_00110011000 (.sltu 5 6 7 .b) = true ∧
    -- addi g8, g8, 4
    means 0b000010_01000_01000_0000000000000100 (.addi 8 8 4) = true ∧
    -- li g8, 0x100
    means 0b000010_01000_00000_0000000100000000 (.addi 8 0 256) = true ∧
    -- ldk g7, 0x0001, 1
    means 0b000111_00111_00001_0000000000000001 (.ldk 7 1 1) = true ∧
    -- nop
    means 0b000100_00000_00000_0000000000000000 (.ori 0 0 0) = true := by decide +kernel

/-- R111, R109, R91. -/
theorem test_control_words :
    -- loopx 0
    means 0b010010_00000_00000_00000_00000000011 (.loopx0) = true ∧
    -- loopx 1
    means 0b010010_00000_00000_00000_00000000111 (.loopx1) = true ∧
    -- loop 1, g11, 3
    means 0b010011_01_01011_000000000010_0000000 (.loop 1 11 2) = true ∧
    -- bne g5, g0, -3
    means 0b001011_00101_00000_1111111111111101 (.bne 5 0 65533) = true := by decide +kernel

/-- R113, R120. -/
theorem test_memory_words :
    -- ld.w g20, [g8+0]
    means 0b010100_10100_01000_001_0000000000000 (.ld 20 8 .ws 0) = true ∧
    -- st.d g12, [g3-8]
    means 0b010101_01100_00011_000_1111111111111 (.st 12 3 .d 8191) = true ∧
    -- ld.v v3, [g8+32]
    means 0b010110_00011_01000_000_0000000000010 (.ldV 3 8 2) = true ∧
    -- st.v v3, [g8+48]
    means 0b010110_00011_01000_001_0000000000011 (.stV 3 8 3) = true ∧
    -- ld.w.cluster.acq g5, [g8+0]
    means 0b011000_00101_01000_00000_00100101000 (.ldScoped 5 8 0 .ws .cluster .acq) = true ∧
    -- st.w.cluster.rel g6, [g8+0]
    means 0b011000_00110_01000_00000_00100110001 (.stScoped 6 8 0 .w .cluster .rel) = true ∧
    -- fence.cluster
    means 0b011000_00000_00000_00000_00000111010 (.fence .cluster .sc) = true := by decide +kernel

/-- R122, R126, R131. -/
theorem test_synchronisation_words :
    -- amo.add.w.cluster g5, [g6], g7
    means 0b010111_00101_00110_00111_00010010000 (.amoAdd 5 6 7 true .cluster .plain) = true ∧
    -- bar.arr g20, g8
    means 0b011001_10100_01000_00000_00000000001 (.barArr 20 8) = true ∧
    -- bar.wait g21, g8, g20
    means 0b011001_10101_01000_10100_00000000011 (.barWait 21 8 20) = true ∧
    -- rng.rsv g20, g9, g10
    means 0b011001_10100_01001_01010_00000000110 (.rngRsv 20 9 10) = true ∧
    -- rng.pub g9, g20
    means 0b011001_00000_01001_10100_00000000111 (.rngPub 9 20) = true ∧
    -- ppoll g20, 1
    means 0b011010_10100_00000_00000_00000000010 (.ppoll 20 1) = true ∧
    -- pdrain g21, 3
    means 0b011010_10101_00000_00000_00000000111 (.pdrain 21 3) = true := by decide +kernel

/-- R137. -/
theorem test_far_words :
    -- fld.w g5, [g6+8]
    means 0b011011_00101_00110_001_0000000000010 (.fld 5 6 .ws 2) = true ∧
    -- fst.d g7, [g6+16]
    means 0b011011_00111_00110_000_1000000000010 (.fst 7 6 .d 2) = true := by decide +kernel

/-- R144, R154 to R160. -/
theorem test_simd_words :
    -- vadd.w v1, v2, v3
    means 0b011101_0001_0010_0011_0010_0000000000 (.vadd 1 2 3 .ws .wrap) = true ∧
    -- vadd.b.z.satu v4, v5, v6
    means 0b011101_0100_0101_0110_0100_0000001000 (.vadd 4 5 6 .bz .satu) = true ∧
    -- vsel v1, v4, v2, v3
    means 0b011101_0001_0010_0011_0100_0100010000 (.vsel 1 2 3 4) = true ∧
    -- vdot4 v7, v8, v9
    means 0b011111_0111_1000_1001_0000_0000100000 (.vdot4 7 8 9 .bs .wrap) = true ∧
    -- vred.add.w v5, v6
    means 0b011111_0101_0110_0000_0010_0001000000 (.vredAdd 5 6 (.int .ws)) = true ∧
    -- vsplat.w v2, g21
    means 0b011111_0010_0000_0101_0010_0010110000 (.vsplat 2 21 (.int .ws)) = true ∧
    -- vext.h.z g20, v3, 5
    means 0b011111_0000_0011_0100_0101_0011110101 (.vext 3 20 (.int .hz) 5) = true := by decide +kernel

/-- R155. -/
theorem test_tensor_words :
    -- tset shp2, g8, 3
    means 0b100000_00010_01000_00000_00000000111 (.tset 2 8 3) = true ∧
    -- tidx g20, g9, shp2
    means 0b100000_10100_01001_00010_00000000000 (.tidx 20 9 2) = true := by decide +kernel

/-- R161 to R175. -/
theorem test_float_words :
    -- fadd g20, g4, g5
    means 0b100001_10100_00100_00101_10100000000 (.fadd 20 4 5 .dyn false) = true ∧
    -- fma.d.rne g10, g11, g12
    means 0b100001_01010_01011_01100_00001000011 (.fma 10 11 12 .rne true) = true ∧
    -- fcmp g20, g4, g5
    means 0b100001_10100_00100_00101_00000001000 (.fcmp 20 4 5 false) = true ∧
    -- cvt.f32.w.s g5, g6
    means 0b100010_00101_00110_00000_10101010010 (.cvt 5 6 0 .dyn .f32 .ws) = true ∧
    -- cvt.n.f32.rne g7, g8, fmt3
    means 0b100010_00111_01000_00011_00010000101 (.cvt 7 8 3 .rne .narrow .f32) = true ∧
    -- fmtw fmt3, g9
    means 0b100010_00000_01001_00011_00011110000 (.fmtw 9 3) = true ∧
    -- fmtp fmt1, fmt1, fmt0, own
    means 0b100101_001_001_000_101_00000000000000 (.fmtp 1 1 0 .dyn) = true := by decide +kernel

/-- R168 to R174. -/
theorem test_block_words :
    -- qnt.rne v4, v1, v2, fmt3, amx0
    means 0b100011_0100_0001_0010_0011_0000000100 (.qnt 4 1 2 3 .rne (some 0)) = true ∧
    -- dqt.rne v5, v6, v4, fmt3
    means 0b100011_0101_0100_0110_0011_0001000000 (.dqt 5 4 6 3 .rne none) = true ∧
    -- amx.rd g20, amx0
    means 0b100011_0100_0000_0000_0000_0010000100 (.amxRd 20 0) = true ∧
    -- amx.clr amx0
    means 0b100011_0000_0000_0000_0000_0011000000 (.amxClr0) = true := by decide +kernel

/-- R178. -/
theorem test_matrix_words :
    -- mma acc1, g20, g21, t1
    means 0b100110_00_00000_10100_10101_001_000001 (.mma 20 21 1 1) = true ∧
    -- accz acc2, t3
    means 0b100110_00_00100_00000_00000_011_000010 (.accz 3 2) = true ∧
    -- accld acc0, g22, g0, t0
    means 0b100110_00_00101_10110_00000_000_000000 (.accld 22 0 0 0) = true ∧
    -- drn.t acc3, g22, g23, t2
    means 0b100110_00_00111_10110_10111_010_000011 (.drnT 22 23 2 none false 3) = true ∧
    -- psum.add acc1, g24, g0, t1
    means 0b100110_00_01000_11000_00000_001_000001 (.psumAdd 24 0 1 1) = true ∧
    -- mq.nan g23, acc0
    means 0b100110_00_01010_10111_00000_000_000000 (.mqNan 23 0) = true := by decide +kernel

/-- R207, R215, R227, R235. -/
theorem test_command_words :
    -- vx.ew g20, g21, t2
    means 0b100110_01_00000_10100_10101_010_000000 (.vxEw 20 21 2 none false) = true ∧
    -- vx.cvt g20, g21, amx0, t1
    means 0b100110_01_00010_10100_10101_001_001000 (.vxCvt 20 21 1 (some 0)) = true ∧
    -- cpy.go 0, g9, t2
    means 0b100110_10_00000_01001_00000_010_000000 (.cpyGo 9 2 0) = true ∧
    -- task.card g20, g21, t3
    means 0b100110_11_00001_10100_10101_011_000000 (.taskCard 20 21 3) = true ∧
    -- tok.bind t3, g10
    means 0b100111_00000_01010_00000_00000011011 (.tokBind 10 3) = true ∧
    -- efence.mvc
    means 0b100111_00000_00000_00000_00111000101 (.efence 7) = true ∧
    -- task.join g20, g9
    means 0b101000_10100_01001_00000_00000000000 (.taskJoin 20 9) = true ∧
    -- halt g9
    means 0b101000_00000_01001_00000_00000000001 (.halt 9) = true := by decide +kernel

/-- R236, R245, R247, R382. -/
theorem test_system_words :
    -- mfc g21, DCLK
    means 0b101001_10101_01000_0000_000000000000 (.mfc 21 8) = true ∧
    -- mtc SVEC, g20
    means 0b101001_10100_00000_0001_000100000000 (.mtcSvec 20) = true ∧
    -- trap 7, g4
    means 0b101001_00100_00000_0010_000000000111 (.trap 4 7) = true ∧
    -- tret
    means 0b101001_00000_00000_0011_000000000000 (.tret) = true ∧
    -- sys 1, g4
    means 0b101001_00100_00000_0100_000000000001 (.sys 4 1) = true ∧
    -- hcall 21, g0, g20
    means 0b101001_00000_10100_0101_000000010101 (.hcallWhistleRelease 0 20) = true ∧
    -- budx g21, g20
    means 0b101001_10100_10101_0111_000000000000 (.budx 20 21) = true ∧
    -- scan.q g20, g4
    means 0b101001_10100_00100_1011_000000000000 (.scanQ 20 4) = true ∧
    -- phint g20, g21
    means 0b101010_10100_10101_0000_000000000000 (.phint 20 21) = true ∧
    -- apx.beg v0, g20, g21
    means 0b101011_00000_10100_10101_00000000000 (.apxBeg 0 20 21) = true ∧
    -- rpl.q g22
    means 0b101011_10110_00000_00000_00000000100 (.rplQ 22) = true := by decide +kernel

/-- R91, R249. -/
theorem test_root_words :
    -- k.add g1, g2, g3
    means 0b110000_00001_00010_00011_00000000000 (.kAdd 1 2 3) = true ∧
    -- k.tend
    means 0b111110_00000_00000_00000_00000000000 (.kTend) = true := by decide +kernel

/-! ## Single steps -/

/-- What a step leaves, read from its next state. -/
def after {α : Type} (r : Host.Outcome State Fault Refusal) (f : State → α) : Option α :=
  match r with
  | .next t => some (f t)
  | _ => none

/-- Register r of context 0 after an instruction. -/
def regAfter (i : Instr) (s : State) (r : Reg) : Option Word := after (exec i s) (fun t => getReg (getCtx t 0) r)

/-- A base whose SIMD registers v1 and v2, and v4, are given. -/
def baseV (a b d : BitVec 128) : State := baseC (fun x => { x with v := ((x.v.set 1 a).set 2 b).set 4 d })

/-- R95's examples at width b with a = 0x7F and b = 0x02. -/
theorem test_saturation :
    regAfter (.add 3 1 2 .wrap .b) (baseR [0x7F, 2]) 3 = some 0xFFFFFFFFFFFFFF81 ∧
    regAfter (.add 3 1 2 .sats .b) (baseR [0x7F, 2]) 3 = some 0x7F ∧
    regAfter (.sub 3 1 2 .satu .b) (baseR [0x7F, 2]) 3 = some 0x7D ∧
    regAfter (.sub 3 2 1 .satu .b) (baseR [0x7F, 2]) 3 = some 0 := by decide +kernel

/-- R96: division by zero, and of the most negative number by -1. -/
theorem test_division :
    regAfter (.divu 3 1 2 .w) (baseR [5, 0]) 3 = some 0xFFFFFFFFFFFFFFFF ∧
    regAfter (.rem 3 1 2 .w) (baseR [0x80000001, 0]) 3 = some 0xFFFFFFFF80000001 ∧
    regAfter (.div 3 1 2 .b) (baseR [0x80, 0xFF]) 3 = some 0xFFFFFFFFFFFFFF80 := by decide +kernel

/-- R97: sel tests c, here g3. -/
theorem test_sel : regAfter (.sel 4 1 2 3) (baseR [7, 9, 0]) 4 = some 9 ∧ regAfter (.sel 4 1 2 3) (baseR [7, 9, 1]) 4 = some 7 := by
  decide +kernel

/-- R98: addi sign-extends and ori does not. -/
theorem test_immediates :
    regAfter (.addi 3 0 0xFFFF) (baseR []) 3 = some 0xFFFFFFFFFFFFFFFF ∧ regAfter (.ori 3 0 0xFFFF) (baseR []) 3 = some 0xFFFF := by
  decide +kernel

/-- R15: register 0 discards; R89: the pc moves by 4 and the charge by 1. -/
theorem test_zero_register :
    after (exec (.addi 0 0 5) base) (fun t => (getReg (getCtx t 0) 0, (getCtx t 0).pc, (getCtx t 0).charge)) =
      some (0, 0x1004, 1) := by decide +kernel

/-- The example of chapter 6: vdot4 of the two vectors from a zero v4. -/
theorem test_vdot4 :
    after (exec (.vdot4 4 1 2 .bs .wrap) (baseV 0x281E140AFCFDFEFF0807060504030201 0xFFFFFFFF030303030202020201010101 0))
      (fun t => (getCtx t 0).v[4]) = some 0xFFFFFF9CFFFFFFE2000000340000000A := by decide +kernel

/-- The same example's reduction and its lane 0 in a register. -/
theorem test_reduction :
    after (exec (.vredAdd 4 1 (.int .ws)) (baseV 0xFFFFFF9CFFFFFFE2000000340000000A 0 1)) (fun t => (getCtx t 0).v[4]) =
      some 0x000000000000000000000000FFFFFFBC ∧
    regAfter (.vext 4 10 (.int .ws) 0) (baseV 0 0 0x000000000000000000000000FFFFFFBC) 10 = some 0xFFFFFFFFFFFFFFBC := by
  decide +kernel

/-- R144: an unsigned lane saturates; the general registers stay. -/
theorem test_vadd_saturates :
    after (exec (.vadd 4 1 2 .bz .satu) (baseV 0xFF 0x01 0)) (fun t => ((getCtx t 0).v[4], getReg (getCtx t 0) 1)) =
      some (0xFF, 0x100) := by decide +kernel

/-- R156, R157: the shape 5, 3, 7 and the coordinates 2, 0, 3 of index 47 in it. -/
def shapeBase : State := baseR (List.replicate 19 0 ++ [5, 3, 7])

theorem test_tset :
    after (exec (.tset 2 20 3) shapeBase) (fun t => ((getCtx t 0).shp[2].ndim, (getCtx t 0).shp[2].dims.take 3,
      (getCtx t 0).shp[2].muls.take 3, (getCtx t 0).shp[2].shfs.take 3)) =
      some (3, [5, 3, 7], [0x01999999999A, 0x015555555556, 0x012492492493], [43, 42, 43]) := by decide +kernel

/-- The state after test_tset's step with the index in g9. -/
def indexBase : State :=
  match exec (.tset 2 20 3) shapeBase with
  | .next t => modCtx t 0 (fun x => setReg x 9 47)
  | _ => shapeBase

theorem test_tidx :
    after (exec (.tidx 11 9 2) indexBase)
      (fun t => [getReg (getCtx t 0) 11, getReg (getCtx t 0) 12, getReg (getCtx t 0) 13]) = some [2, 0, 3] := by decide +kernel

/-- R168's examples. -/
theorem test_cvt :
    regAfter (.cvt 3 1 0 .rz .ws .f32) (baseR [0xC2F70000]) 3 = some 0xFFFFFFFFFFFFFF85 ∧
    regAfter (.cvt 3 1 0 .rz .ws .f32) (baseR [0x4F800000]) 3 = some 0x7FFFFFFF := by decide +kernel

/-- R164, R47: 1.0 + 1.0, and the default NaN of infinity minus infinity. -/
theorem test_fadd :
    regAfter (.fadd 3 1 2 .rne false) (baseR [0x3F800000, 0x3F800000]) 3 = some 0x40000000 ∧
    regAfter (.fsub 3 1 2 .rne true) (baseR [0x7FF0000000000000, 0x7FF0000000000000]) 3 = some 0x7FF8000000000000 := by
  decide +kernel

/-- R59: the draws of the LFSR from SEED 1. -/
theorem test_lfsr :
    lfsrStep 1 = 0x80200003 ∧ lfsrStep 0x80200003 = 0xC0300002 ∧ lfsrStep 0xC0300002 = 0x60180001 ∧ lfsrStep 0x60180001 = 0xB02C0003 := by
  decide +kernel

/-- R64, R65: a NaN word of core 3.17.5 at k-step 3, and which of two NaN words wins. -/
theorem test_nan_words :
    nanLess 0x7FD88C41 0x7FD88D03 = true ∧ nanLess 0x7FD88D01 0x7FD88D03 = true ∧ nanLess 0x7FD88D03 0x7FD88D01 = false := by
  decide +kernel

/-- R113 to R115, R329: a load of the word that the context's own store holds, in both extensions. -/
def stored : State :=
  match exec (.st 5 1 .w 1) base with
  | .next t => t
  | _ => base

theorem test_store_load :
    regAfter (.ld 6 1 .ws 1) stored 6 = some 0xFFFFFFFF80000000 ∧ regAfter (.ld 6 1 .wz 1) stored 6 = some 0x80000000 := by
  decide +kernel

/-- R91, R102: a branch taken to 12 bytes before itself, and one not taken. -/
theorem test_branch :
    after (exec (.beq 0 0 0xFFFD) base) (fun t => (getCtx t 0).pc) = some 0xFF4 ∧
    after (exec (.bne 0 0 0xFFFD) base) (fun t => (getCtx t 0).pc) = some 0x1004 := by decide +kernel

/-- R109: a loop with a count of zero passes over its body of 4. -/
theorem test_loop :
    after (exec (.loop 0 0 3) base) (fun t => ((getCtx t 0).pc, (getCtx t 0).lc[0])) = some (0x1014, 0) ∧
    after (exec (.loop 0 3 3) base) (fun t => ((getCtx t 0).pc, (getCtx t 0).lc[0], (getCtx t 0).ls[0])) =
      some (0x1004, 3, 0x1004) := by decide +kernel

/-- R366: in task mode with no handler an mtc of SVEC is a privilege trap that ends the task; it changes no SVEC. -/
theorem test_privilege :
    after (exec (.mtcSvec 1) base) (fun t => (getPart? t 0).map PartSt.svec) = some (some 0) := by decide +kernel

/-- R460: at reset nothing is powered, and a step changes nothing in memory. -/
theorem test_reset_step : after (step State.reset) (fun t => t.mem) = some [] := by decide +kernel

/-- A step of the state in which a word is placed runs it. -/
theorem test_step_runs :
    after (step (State.reset.withFetchWord 32 0b000010_00011_00000_1111111111111111)) (fun t => getReg (getCtx t t.cur) 3) =
      some 0xFFFFFFFFFFFFFFFF := by decide +kernel

end Sys2Proof.Tests
end

