-- ==== Sys2Proof/Tests/WitnessA.lean ====
section
/-! SUPPORT. For each statement about integers, control flow and near memory, a state and operands that meet its hypotheses. -/

namespace Sys2Proof.Tests

open Sys2Proof.Machine Sys2Proof.Claims

set_option maxRecDepth 100000
set_option Elab.async false

/-- The base with an armed fault in core 0. -/
def armedBase : State := modCore base 0 (fun q => { q with armed := some 7 })

theorem witness_IntegerResults :
    (∃ f, twoRegisters (.add 3 4 5 .sats .w) = some (3, 4, 5, 1, f) ∧ wellFormed (.add 3 4 5 .sats .w) = true ∧ notPort 3 ∧
      notPort 4 ∧ notPort 5 ∧ Ready base 1 ∧ ∀ sat wd, Instr.add 3 4 5 .sats .w = .add 3 4 5 sat wd → armedBit base = none) ∧
    (∃ f, oneRegister (.bfx 3 4 63 true 0) = some (3, 4, f) ∧ wellFormed (.bfx 3 4 63 true 0) = true ∧ Ready base 1) ∧
    (notPort 3 ∧ notPort 0 ∧ Ready base 1) ∧ (Ready armedBase 1 ∧ armedBit armedBase = some 7) ∧
    (∃ f, rootTwoRegisters (.kAdd 15 0 5) = some (15, 0, 5, f) ∧ Ready base 1 ∧ Ready (baseK []) 1) :=
  ⟨⟨_, rfl, by decide, by decide, by decide, by decide, ready_of (by decide +kernel), fun _ _ _ => by decide +kernel⟩,
    ⟨_, rfl, by decide, ready_of (by decide +kernel)⟩, ⟨by decide, by decide, ready_of (by decide +kernel)⟩,
    ⟨ready_of (by decide +kernel), by decide +kernel⟩,
    ⟨_, rfl, ready_of (by decide +kernel), ready_of (by decide +kernel)⟩⟩

/-- The base with a target in g1 and g2. -/
def jumpBase : State := baseR [0x2000, 0xFFFFFFFFFFFC]

theorem witness_BranchesAndCalls :
    (∃ p, branches (.blt 4 5 0xFFFF) = some (4, 5, 0xFFFF, p) ∧ Ready base 1 ∧ bodyEnds (me base) (me base).pc.toNat = false ∧
      inReach base (target16 (me base).pc 0xFFFF)) ∧
    (∃ p, branches (.kBne 4 5 8) = some (4, 5, 8, p) ∧ Ready (baseK []) 1 ∧
      bodyEnds (me (baseK [])) (me (baseK [])).pc.toNat = false ∧ inReach (baseK []) (target16 (me (baseK [])).pc 8)) ∧
    inReach (baseK []) (target26 (me (baseK [])).pc 1023) ∧
    (notPort 2 ∧ Ready jumpBase 1 ∧ bodyEnds (me jumpBase) (me jumpBase).pc.toNat = false ∧ goodTarget (val jumpBase 2) ∧
      inReach jumpBase (pc48 (val jumpBase 2).toNat) ∧ (me jumpBase).follower = false ∧ goodTarget (val jumpBase 1) ∧
      inReach jumpBase (pc48 (val jumpBase 1).toNat)) ∧
    (goodTarget (val (baseK [0x40000FFC]) (kreg 1)) ∧ inReach (baseK [0x40000FFC]) (pc48 (val (baseK [0x40000FFC]) (kreg 1)).toNat)) :=
  ⟨⟨_, rfl, ready_of (by decide +kernel), by decide +kernel, no_of (by decide +kernel)⟩,
    ⟨_, rfl, ready_of (by decide +kernel), by decide +kernel, some_of (a := run0) (by decide +kernel) (by decide +kernel)⟩,
    some_of (a := run0) (by decide +kernel) (by decide +kernel),
    ⟨by decide, ready_of (by decide +kernel), by decide +kernel, by unfold goodTarget; decide +kernel, no_of (by decide +kernel),
      by decide +kernel, by unfold goodTarget; decide +kernel, no_of (by decide +kernel)⟩,
    by unfold goodTarget; decide +kernel, some_of (a := run0) (by decide +kernel) (by decide +kernel)⟩

/-- The base with a loop of level 0 round the pc, and one of level 1 that ends at it. -/
def loopBase (l : Fin 4) (n : Word) : State := baseC (fun x => { x with
  ls := x.ls.set l 0xF00, le := x.le.set l 0x1000, lc := x.lc.set l n })

theorem witness_HardwareLoops :
    (notPort 3 ∧ Ready (baseC (fun x => { x with ls := x.ls.set 0 0x1000, le := x.le.set 0 0x1010, lc := x.lc.set 0 2 })) 1 ∧
      (let s := baseC (fun x => { x with ls := x.ls.set 0 0x1000, le := x.le.set 0 0x1010, lc := x.lc.set 0 2 })
       (∀ j : Fin 4, (1 : Fin 4) ≤ j → (me s).lc[j] = 0) ∧
       (∀ j : Fin 4, j < 1 → (me s).lc[j] = 0 ∨
        ((me s).ls[j].toNat ≤ (me s).pc.toNat + 4 ∧ (me s).pc.toNat + 4 * (3 + 1) ≤ (me s).le[j].toNat)) ∧
       (me s).pc.toNat + 4 * (3 + 1) < 2 ^ 48 ∧ val s 3 ≠ 0 ∧ val s 0 = 0)) ∧
    (loopxLevel .loopx2 = some 2 ∧ Ready (loopBase 3 5) 1) ∧
    (∃ t, Ready (loopBase 2 5) 1 ∧ (me (loopBase 2 5)).lc[(2 : Fin 4)] ≠ 0 ∧
      (me (loopBase 2 5)).le[(2 : Fin 4)].toNat = (me (loopBase 2 5)).pc.toNat ∧
      (∀ j : Fin 4, j ≠ 2 → (me (loopBase 2 5)).lc[j] = 0) ∧ exec (.addi 3 4 5) (loopBase 2 5) = .next t) ∧
    (me (loopBase 2 1)).lc[(2 : Fin 4)] = 1 :=
  ⟨⟨by decide, ready_of (by decide +kernel), by decide +kernel⟩, ⟨rfl, ready_of (by decide +kernel)⟩,
    ⟨_, ready_of (by decide +kernel), by decide +kernel, by decide +kernel, by decide +kernel, rfl⟩, by decide +kernel⟩

/-- Near addresses in g1 and up: local memory, cluster memory, the weight stack. -/
def nearBase : State := baseR [0x100, 0x100010, 0x200000, 0xFFFFFFFF, 7, 0x2FFF8]

theorem witness_NearLoads :
    (loads (.ld 9 1 .hs 8191) = some (9, 1, .hs, wordOff 8191 2) ∧ Ready nearBase 1 ∧
      nearCheck nearBase nearBase.cur (val nearBase 1 + wordOff 8191 2).toNat 2 .load = none) ∧
    (loads (.ldScoped 9 2 31 .d .die .plain) = some (9, 2, .d, w64 (31 * 8)) ∧
      nearCheck nearBase nearBase.cur (val nearBase 2 + w64 (31 * 8)).toNat 8 .load = none) ∧
    (ReadyCompute nearBase 1 ∧ nearCheck nearBase nearBase.cur (val nearBase 2 + wordOff 1 16).toNat 16 .load = none) ∧
    (shared 0 0x100010 = true ∧ nearBase.choices = [] ∧ ∀ p ∈ nearBase.past, p.stamp ≤ nearBase.stamp) :=
  ⟨⟨rfl, ready_of (by decide +kernel), by decide +kernel⟩, ⟨rfl, by decide +kernel⟩,
    ⟨readyC_of (by decide +kernel) (by decide +kernel), by decide +kernel⟩, by decide +kernel⟩

theorem witness_NearStores :
    (stores (.st 4 6 .d 0) = some (6, 4, .d, wordOff 0 8) ∧ Ready nearBase 1 ∧
      nearCheck nearBase nearBase.cur (val nearBase 6 + wordOff 0 8).toNat 8 .store = none) ∧
    (ReadyCompute nearBase 1 ∧ nearCheck nearBase nearBase.cur (val nearBase 2 + wordOff 1 16).toNat 16 .store = none) ∧
    (nearCheck nearBase 0 0x100010 8 .store = none ∧ shared 0 0x100010 = true) ∧
    (nearCheck (baseM []) memBase 0x100 8 .store = none ∧ shared memBase 0x100 = false) :=
  ⟨⟨rfl, ready_of (by decide +kernel), by decide +kernel⟩,
    ⟨readyC_of (by decide +kernel) (by decide +kernel), by decide +kernel⟩, by decide +kernel⟩

/-- The near base with a queued store and a view of it. -/
def queuedBase : State := modCtx nearBase 0 (fun x => { x with stq := [⟨clusterBase 0 + 0x20, [1, 2, 3, 4], []⟩] })

theorem witness_OrderedAccesses :
    (Ready nearBase 1 ∧ Order.acq ≠ .plain ∧ nearCheck nearBase nearBase.cur (val nearBase 2 + w64 (3 * 4)).toNat 4 .load = none ∧
      nearCheck nearBase nearBase.cur (val nearBase 2 + w64 (3 * 4)).toNat 4 .store = none) ∧
    (shared 0 0x100010 = true ∧ [(1 : Byte), 2] ≠ []) ∧
    (argN queuedBase 0 = 0 ∧ (getCtx queuedBase 0).stq = ⟨clusterBase 0 + 0x20, [1, 2, 3, 4], []⟩ :: [] ∧
      [(1 : Byte), 2, 3, 4] ≠ []) :=
  ⟨⟨ready_of (by decide +kernel), by decide +kernel⟩, by decide +kernel⟩

theorem witness_OrderedAccesses_atomics :
    atomics (.amoCas 9 2 5 true .cluster .acq) = some (.cas, 9, 2, 5, true, .cluster, .acq) ∧ notPort 9 ∧ ReadyCompute nearBase 2 ∧
    nearCheck nearBase nearBase.cur (val nearBase 2).toNat (if true then 4 else 8) .atomic = none ∧
    nearCheck nearBase nearBase.cur (val nearBase 1).toNat (if false then 4 else 8) .atomic = none :=
  ⟨rfl, by decide, readyC_of (by decide +kernel) (by decide +kernel), by decide +kernel⟩

end Sys2Proof.Tests
end

