-- ==== Sys2Proof/Tests/WitnessB.lean ====
section
/-! SUPPORT. For each statement about objects, ports and probes, a state and operands that meet its hypotheses. -/

namespace Sys2Proof.Tests

open Sys2Proof.Machine Sys2Proof.Claims

set_option maxRecDepth 100000
set_option Elab.async false

/-- A barrier of three members in its sixth phase, two of them here, of which the last two have arrived. -/
def bar0 : Obj := ⟨barWords 5 0 3 7 6, [], []⟩

/-- The same before any has arrived. -/
def bar1 : Obj := ⟨barWords 5 0 3 7 0, [], []⟩

/-- A ring of four slots with one slot free, one taken, one published and one reserved. -/
def ring0 : Obj := ⟨ringWords { base := 0x140000, slotsz := 64, cap := 4, rsv := 8, pub := 6, take := 5, free := 4, pbmap := 0 }, [], []⟩

/-- An empty ring. -/
def ring1 : Obj := ⟨ringWords { base := 0x140000, slotsz := 64, cap := 4, rsv := 5, pub := 5, take := 5, free := 4, pbmap := 0 }, [], []⟩

/-- The base with these objects in slots 3 to 6 of its cluster, and registers that hold the slots' addresses. -/
def objBase (r7 : Nat) : State :=
  modCluster (baseR [0xF0000C0, 0xF000100, 0xF000140, 0xF000180, 0xF000000, 5, r7]) 0
    (fun k => { k with objs := [(3, bar0), (4, bar1), (5, ring0), (6, ring1)] })

theorem witness_Barriers :
    (ReadyCompute (objBase 0) 2 ∧ slotAt (objBase 0) (val (objBase 0) 5) 0 0 ∧
      (val (objBase 0x700000003) 7).toNat = 7 * 2 ^ 32 + 3 ∧ 3 ≤ popCount 32 7 ∧ (objAt (objBase 0) 0).waiters = []) ∧
    (arrivals (.barDrop 9 1) = some (9, 1, true) ∧ slotAt (objBase 0) (val (objBase 0) 1) 3 1 ∧
      bitAt (barMember (objAt (objBase 0) 3)) (me (objBase 0)).barIdx = true ∧
      bitAt (barArrived (objAt (objBase 0) 3)) (me (objBase 0)).barIdx = false) ∧
    (arrivals (.barArr 9 2) = some (9, 2, false) ∧ slotAt (objBase 0) (val (objBase 0) 2) 4 1 ∧
      bitAt (barMember (objAt (objBase 0) 4)) (me (objBase 0)).barIdx = true ∧
      bitAt (barArrived (objAt (objBase 0) 4)) (me (objBase 0)).barIdx = false) ∧
    (barPhase (objAt (objBase 4) 3) ≠ (val (objBase 4) 7).toNat % 2 ^ 16 ∧ ReadyCompute (objBase 4) 2) ∧
    (barPhase (objAt (objBase 5) 3) = (val (objBase 5) 6).toNat % 2 ^ 16 ∧ (me (objBase 5)).mode = .running) ∧
    (slotAt (objBase 0x102) (val (objBase 0x102) 4) 6 2 ∧ ReadyCompute (objBase 0x102) 2 ∧
      (ringOf (objAt (objBase 0x102) 6)).pub = (ringOf (objAt (objBase 0x102) 6)).take ∧
      (val (objBase 0x102) 7).toNat = 1 * 2 ^ 8 + 2 ∧ 2 ≤ (ringOf (objAt (objBase 0x102) 6)).cap ∧
      1 ≤ idxDiff (ringOf (objAt (objBase 0x102) 6)).take (ringOf (objAt (objBase 0x102) 6)).free) :=
  ⟨⟨readyC_of (by decide +kernel) (by decide +kernel), by unfold slotAt; decide +kernel, by decide +kernel⟩,
    ⟨rfl, by unfold slotAt; decide +kernel, by decide +kernel⟩,
    ⟨rfl, by unfold slotAt; decide +kernel, by decide +kernel⟩,
    ⟨by decide +kernel, readyC_of (by decide +kernel) (by decide +kernel)⟩, by decide +kernel,
    ⟨by unfold slotAt; decide +kernel, readyC_of (by decide +kernel) (by decide +kernel), by decide +kernel⟩⟩

theorem witness_Rings :
    (slotAt (objBase 0) (val (objBase 0) 5) 0 0 ∧ ReadyCompute (objBase 0) 2 ∧ (objAt (objBase 0) 0).waiters = [] ∧
      (val (objBase 0x14000000400400) 7).toNat = 0x140000 * 2 ^ 32 + 64 * 2 ^ 16 + 4 * 2 ^ 8 ∧ 8 ∣ 64 ∧ 8 ∣ 0x140000 ∧
      0x140000 + 4 * 64 ≤ 0x200000) ∧
    (slotAt (objBase 1) (val (objBase 1) 3) 5 2 ∧ ReadyCompute (objBase 1) 2 ∧
      (val (objBase 1) 7).toNat ≤ (ringOf (objAt (objBase 1) 5)).cap ∧
      ¬ idxDiff (ringOf (objAt (objBase 1) 5)).rsv (ringOf (objAt (objBase 1) 5)).free + 1 ≤ (ringOf (objAt (objBase 1) 5)).cap ∧
      idxDiff (ringOf (objAt (objBase 1) 6)).rsv (ringOf (objAt (objBase 1) 6)).free + 1 ≤ (ringOf (objAt (objBase 1) 6)).cap) ∧
    ((val (objBase 0x200000006) 7).toNat = 2 * 2 ^ 32 + 6 ∧ ReadyCompute (objBase 0x200000006) 2 ∧
      0 < (ringOf (objAt (objBase 0x200000006) 5)).cap ∧
      ∀ j < 2, idxDiff ((6 + j) % 2 ^ 32) (ringOf (objAt (objBase 0x200000006) 5)).pub <
        idxDiff (ringOf (objAt (objBase 0x200000006) 5)).rsv (ringOf (objAt (objBase 0x200000006) 5)).pub ∧
        bitAt (ringOf (objAt (objBase 0x200000006) 5)).pbmap
          ((6 + j) % 2 ^ 32 % (ringOf (objAt (objBase 0x200000006) 5)).cap) = false) ∧
    ((val (objBase 0x103) 7).toNat = 1 * 2 ^ 8 + 3 ∧ 3 ≤ (ringOf (objAt (objBase 0x103) 5)).cap ∧
      1 ≤ idxDiff (ringOf (objAt (objBase 0x103) 5)).take (ringOf (objAt (objBase 0x103) 5)).free ∧
      (ringOf (objAt (objBase 0x103) 5)).pub ≠ (ringOf (objAt (objBase 0x103) 5)).take ∧
      (objAt (objBase 0x103) 5).waiters.headD (objBase 0x103).cur = (objBase 0x103).cur) :=
  ⟨⟨by unfold slotAt; decide +kernel, readyC_of (by decide +kernel) (by decide +kernel), by decide +kernel⟩,
    ⟨by unfold slotAt; decide +kernel, readyC_of (by decide +kernel) (by decide +kernel), by decide +kernel⟩,
    ⟨by decide +kernel, readyC_of (by decide +kernel) (by decide +kernel), by decide +kernel⟩, by decide +kernel⟩

/-- The base with a word in receive queue 1 of core 0 from core 1, port 2 bound to queue 3 of core 1, and words and free counts on
their way. -/
def portBase : State :=
  { modCore (baseC (fun x => { x with pbind := x.pbind.set 2 0x800000000000C001 })) 0
      (fun k => { k with rq := k.rq.set 1 [⟨77, 4, []⟩, ⟨78, 4, []⟩] }) with
    wires := [(0, 1, 3, ⟨5, 0, []⟩), (1, 0, 1, ⟨6, 4, []⟩)], freeWires := [(1, 0, 2), (1, 0, 3)] }

theorem witness_Ports :
    (∃ d rs wu f ws q, operands (.sub 9 29 29 .wrap .d) = some (d, rs, wu, f) ∧ wellFormed (.sub 9 29 29 .wrap .d) = true ∧ notPort d ∧
      served (me portBase) rs (getCore portBase (coreOf portBase.cur)).rq = some (ws, q) ∧ ws = [77, 78]) ∧
    (ReadyCompute portBase 1 ∧ wordsInService portBase ∧ inOriginal portBase) ∧
    (∃ d rs wu f, operands (.sel 9 29 29 29) = some (d, rs, wu, f) ∧ wellFormed (.sel 9 29 29 29) = true ∧
      served (me portBase) rs (getCore portBase (coreOf portBase.cur)).rq = none) ∧
    (∃ rs wu f ws q, operands (.mov 30 4) = some (portReg 2, rs, wu, f) ∧ wellFormed (.mov 30 4) = true ∧
      served (me portBase) rs (getCore portBase (coreOf portBase.cur)).rq = some (ws, q) ∧ sendable portBase 2 ∧
      (me portBase).stq = []) ∧
    (∃ p q, branches (.beq 29 29 4) = some (29, 29, 4, p) ∧ bodyEnds (me portBase) (me portBase).pc.toNat = false ∧
      inReach portBase (target16 (me portBase).pc 4) ∧
      served (me portBase) [29, 29] (getCore portBase (coreOf portBase.cur)).rq = some ([77, 78], q)) ∧
    ReadyCompute portBase 2 ∧
    (argN { portBase with arg := EvArg.of [1, 0, 1] } 0 = 1 ∧
      portBase.wires = [(0, 1, 3, ⟨5, 0, []⟩)] ++ (1, 0, 1, ⟨6, 4, []⟩) :: [] ∧
      ∀ e ∈ [((0 : Nat), (1 : Nat), (3 : Nat), (⟨5, 0, []⟩ : PortWord))], ¬(e.1 = 1 ∧ e.2.1 = 0 ∧ e.2.2.1 = 1)) ∧
    (portBase.freeWires = [(1, 0, 2)] ++ (1, 0, 3) :: [] ∧ (1, 0, 3) ∉ [((1 : Nat), (0 : Nat), (2 : Nat))]) :=
  ⟨⟨_, _, _, _, _, _, rfl, by decide +kernel, by decide +kernel, rfl, by decide +kernel⟩,
    ⟨readyC_of (by decide +kernel) (by decide +kernel), by unfold wordsInService; decide +kernel, no_of (by decide +kernel)⟩,
    ⟨_, _, _, _, rfl, by decide +kernel⟩,
    ⟨_, _, _, _, _, rfl, by decide +kernel, rfl, by unfold sendable; decide +kernel, by decide +kernel⟩,
    ⟨_, _, rfl, by decide +kernel, no_of (by decide +kernel), rfl⟩, readyC_of (by decide +kernel) (by decide +kernel),
    by decide +kernel⟩

/-- The port base with a full queue at the bound core, a write stalled whose probe time has come, and a probe at a core. -/
def stallBase (p : Probe) : State :=
  let s := modCore portBase 1 (fun k => { k with rq := k.rq.set 3 (List.replicate 8 ⟨1, 0, []⟩) })
  let s1 := modDie (modCtx s 0 (fun x => { x with waiting := true, stall := some 2, probeAt := 65636, notice := some (0, 2) })) 0
    (fun d => { d with counter := 65636 })
  { s1 with probes := [p], arg := EvArg.of [p.id] }

/-- The same before the write is tried. -/
def fullQueueBase : State := modCtx (stallBase ⟨7, true, 0, [0, 4], 0⟩) 0 (fun x => { x with waiting := false, stall := none, notice := none })

/-- Port 2 of the context that has the turn is bound to a queue that is full, of a core that is there. -/
abbrev fullQueue (s : State) : Prop :=
  wBits ((me s).pbind[(2 : Fin 4)]) 63 1 = 1 ∧ permitted s (coreOf s.cur) (bindCore (me s).pbind[(2 : Fin 4)]) = true ∧
    coreSealed s (bindCore (me s).pbind[(2 : Fin 4)]) = false ∧
    freeIn s (bindCore (me s).pbind[(2 : Fin 4)]) (bindQueue (me s).pbind[(2 : Fin 4)]) = 0

theorem witness_Ports_deadlockProbes :
    (ReadyCompute fullQueueBase 1 ∧ fullQueue fullQueueBase ∧ (me fullQueueBase).notice = none ∧ (me fullQueueBase).stall = none ∧
      issuing (me fullQueueBase).mode = true) ∧
    (let s := { stallBase ⟨7, false, 1, [0], 0⟩ with arg := EvArg.of [0] }
     (getCtx s (argN s 0)).stall = some 2 ∧ issuing (getCtx s (argN s 0)).mode = true ∧
      (getCtx s (argN s 0)).probeAt ≤ dieCounter s (argN s 0)) ∧
    (let s := stallBase ⟨7, false, 0, [0, 4], 0⟩
     s.probes = ⟨7, false, 0, [0, 4], 0⟩ :: [] ∧ argN s 0 = 7) ∧
    stalledAt (stallBase ⟨7, false, 5, [4], 1⟩) 5 = none ∧
    (stalledAt (stallBase ⟨7, false, 0, [4], 1⟩) 0 = some 0 ∧ (getCtx (stallBase ⟨7, false, 0, [4], 1⟩) 0).stall = some 2 ∧ 0 ∉ [4]) ∧
    (getCtx (stallBase ⟨7, true, 0, [0, 4], 0⟩) 0).stall ≠ none ∧
    (let s := stallBase ⟨7, true, 0, [0, 4], 0⟩
     ReadyCompute s 1 ∧ fullQueue s ∧ (me s).notice = some (0, 2)) :=
  ⟨⟨readyC_of (by decide +kernel) (by decide +kernel), by decide +kernel⟩, by decide +kernel, by decide +kernel, by decide +kernel,
    by decide +kernel, by decide +kernel, readyC_of (by decide +kernel) (by decide +kernel), by decide +kernel⟩

end Sys2Proof.Tests
end

