-- ==== Sys2Proof/Tests/WitnessC.lean ====
section
/-! SUPPORT. For each statement about SIMD, shapes, floats and formats, a state and operands that meet its hypotheses. -/

namespace Sys2Proof.Tests

open Sys2Proof.Machine Sys2Proof.Claims

set_option maxRecDepth 100000
set_option Elab.async false

/-- The base with f32 lanes in its SIMD registers: 1, 2, -1 and 0.5, a NaN among others in v2, and shapes of sizes 3 and 4. -/
def simdBase (st : Word) (pfx : BitVec 32) : State := baseC (fun x => { x with
  v := (x.v.set 0 0x3F000000BF800000400000003F800000).set 2 0x7FC00000BF8000004000000000000001
  st := st, pfx := pfx, shp := x.shp.set 5 (shapeOf [3, 4])
  g := regs [3, 4, 11, 0x3F800000, 0x40000000, 0x4000000000000000] })

theorem witness_LaneArithmetic :
    (∃ op, laneOps (.vmla 1 0 2 .hs .sats) = some op ∧ ReadyCompute (simdBase 0 0) op.wu) ∧
    wellFormed (.vdot4 1 0 2 .bz .satu) = true ∧ ReadyCompute (simdBase 0 0) 2 ∧ ReadyCompute (simdBase 0 0) 1 ∧
    (15 : Fin 16).val < 128 / (Lane.int .bs).bits ∧ (1 : Fin 16).val < 128 / (Lane.flt .f64).bits :=
  ⟨⟨_, rfl, readyC_of (by decide +kernel) (by decide +kernel)⟩, by decide, readyC_of (by decide +kernel) (by decide +kernel),
    readyC_of (by decide +kernel) (by decide +kernel), by decide⟩

theorem witness_FloatLanes :
    (∃ f fa fb fo, floatLanes (.vfadd 1 0 2 .f32 .rz) = some (1, 0, 2, .f32, .rz, f) ∧
      laneFmts (me (simdBase 0x7E000 0)) .f32 = some (fa, fb, fo) ∧
      (let out := eachF (fun j => f fa fb fo (rounding (me (simdBase 0x7E000 0)) .rz) (laneAt (vec (simdBase 0x7E000 0) 0) 32 j).toNat
        (laneAt (vec (simdBase 0x7E000 0) 2) 32 j).toNat (laneAt (vec (simdBase 0x7E000 0) 1) 32 j).toNat) (List.range (128 / 32))
        (me (simdBase 0x7E000 0)).lfsr
       mayTrap (simdBase 0x7E000 0) (orFlags out.2.1))) ∧
    ReadyCompute (simdBase 0x7E000 0) 2 ∧
    (∃ fi ff, reductions (.vredMax 1 0 (.flt .f32)) = some (1, 0, .flt .f32, fi, ff) ∧
      (let out := redTree (ff (flaneFmt .f32) (stRnd (me (simdBase 0x7E000 0)))) 3
        ((List.range (128 / 32)).map (fun j => ((laneAt (vec (simdBase 0x7E000 0) 0) 32 j).toNat, 2 ^ j))) (me (simdBase 0x7E000 0)).lfsr 0 0
       mayTrap (simdBase 0x7E000 0) out.2.2.1)) :=
  ⟨⟨_, _, _, _, rfl, rfl, fun _ => by decide +kernel⟩, readyC_of (by decide +kernel) (by decide +kernel), ⟨_, _, rfl, fun _ => by decide +kernel⟩⟩

theorem witness_LaneArithmetic_shapes :
    (0 < (2 : Fin 6).val ∧ (1 : Reg).val + 2 ≤ 28 ∧ ReadyCompute (simdBase 0 0) 16 ∧
      (let d := (List.range 2).map (fun i => (val (simdBase 0 0) (regPlus 1 i)).toNat)
       (∀ x ∈ d, 0 < x ∧ x ≤ 2 ^ 40) ∧ d.prod ≤ 2 ^ 40)) ∧
    (ReadyCompute (simdBase 0 0) 4 ∧ (me (simdBase 0 0)).shp[(5 : Fin 16)] = shapeOf [3, 4] ∧ [3, 4].prod ≤ 2 ^ 40 ∧
      (9 : Reg).val + [3, 4].length ≤ 28 ∧ (val (simdBase 0 0) 3).toNat < [3, 4].prod) :=
  ⟨⟨by decide, by decide, readyC_of (by decide +kernel) (by decide +kernel), by decide +kernel⟩,
    readyC_of (by decide +kernel) (by decide +kernel), by decide +kernel⟩

theorem witness_ScalarFloat :
    (∃ op fa fb fo, scalarOps (.fma 9 4 5 .ru false) = some op ∧ FreeCompute (simdBase 0 0) op.wu ∧
      scalarFmts (me (simdBase 0 0)) op.dbl op.useB op.useOut = some (fa, fb, fo) ∧ (∀ r ∈ op.srcs, notPort r) ∧
      (let out := op.f fa fb fo (rounding (me (simdBase 0 0)) op.r) ⟨(me (simdBase 0 0)).lfsr, 0⟩
        (op.srcs.map (fun r => (val (simdBase 0 0) r).toNat))
       mayTrap (simdBase 0 0) out.2.flags)) ∧
    (FreeCompute (simdBase 8 0x96DA8000) 1 ∧
      mayTrap (simdBase 8 0x96DA8000) (cvtVal (me (simdBase 8 0x96DA8000)) 3 .rne .narrow .f32 (val (simdBase 8 0x96DA8000) 4)).2.flags) :=
  ⟨⟨_, _, _, _, rfl, freeC_of (by decide +kernel) (by decide +kernel), rfl, by decide +kernel, fun _ => by decide +kernel⟩,
    ⟨⟨by decide +kernel, by decide +kernel, by decide +kernel, by decide +kernel, no_of (by decide +kernel)⟩, by decide +kernel⟩, fun _ => by decide +kernel⟩

theorem witness_RoundingIsCorrect :
    f32Fmt ∈ [f16Fmt, bf16Fmt, f32Fmt, f64Fmt] ∧ (finiteCode f32Fmt (encodeF f32Fmt 2 ⟨1, 0⟩ (.fin true 0x3FFFFFF 2)).1).isSome = true ∧
    (encodeF f32Fmt 2 ⟨1, 0⟩ (.fin true 0x3FFFFFF 2)).2.flags &&& fOF = 0 ∧ (decodeF f16Fmt 0x7C00).isNan = false ∧ 0x7C00 < 2 ^ f16Fmt.w :=
  ⟨by decide, by unfold finiteCode; decide +kernel, by decide +kernel, by decide +kernel, by decide⟩

theorem witness_FormatsAndBlocks :
    ReadyCompute (baseR [0x00507480]) 1 ∧ fmtLegal (val (baseR [0x00507480]) 1).toNat = true ∧
    clears .amxClr2 = some 2 ∧
    (∃ f, FreeCompute (simdBase 0 0) 4 ∧ narrowReg (me (simdBase 0 0)) (match prefixOf (me (simdBase 0 0)) with | some p => p.out | none => 3) = some f ∧
      (let q0 := quantBlock f (rounding (me (simdBase 0 0)) .rne) (me (simdBase 0 0)).lfsr (lanes (vec (simdBase 0 0) 0) 32)
       let q1 := quantBlock f (rounding (me (simdBase 0 0)) .rne) q0.2.2.2 (lanes (vec (simdBase 0 0) 2) 32)
       mayTrap (simdBase 0 0) (orFlags (q0.2.2.1 ++ q1.2.2.1)))) ∧
    (∃ f, narrowReg (me (simdBase 0 0)) (match prefixOf (me (simdBase 0 0)) with | some p => p.a | none => 4) = some f ∧
      (let q := eachF (fun i rs => encodeF f32Fmt (rounding (me (simdBase 0 0)) .rne) rs (packedElem f (vec (simdBase 0 0) 0) i)) (List.range 8)
        (me (simdBase 0 0)).lfsr
       mayTrap (simdBase 0 0) (orFlags q.2.1))) ∧
    (wBits (0x3F800000 : Word) 63 1 = 0 ∧ ∀ v ∈ [0xBF800000, 0x40000000], v < 2 ^ 32 ∧ (decodeF f32Fmt v).isNan = false) :=
  ⟨readyC_of (by decide +kernel) (by decide +kernel), by decide +kernel, rfl,
    ⟨_, freeC_of (by decide +kernel) (by decide +kernel), rfl, fun _ => by decide +kernel⟩, ⟨_, rfl, fun _ => by decide +kernel⟩, by decide +kernel⟩

/-- 3/2 is the root of 9/4, and 2/3 its reciprocal root. -/
theorem root_of_nine_quarters : (0 : ℝ) ≤ 3 / 2 ∧ (3 / 2 : ℝ) * (3 / 2) = (ratV (.fin false 9 (-2)) : ℝ) ∧
    (0 : ℝ) < 2 / 3 ∧ (2 / 3 : ℝ) * (2 / 3) * (ratV (.fin false 9 (-2)) : ℝ) = 1 := by
  norm_num [ratV, ratOf]

theorem witness_ArithmeticIsExact :
    (finiteV (.fin true 3 5) = true ∧ finiteV (.fin false 0 0) = true) ∧
    (f16Fmt ∈ [f16Fmt, bf16Fmt, f32Fmt, f64Fmt] ∧ ratV (.fin true 3 5) ≠ 0 ∧ ratV (.fin false 0 0) = 0 ∧ ratV (.fin true 3 5) < 0) ∧
    (finiteCode f32Fmt 0x3F800000).isSome = true ∧ FVal.isNan (decodeF f32Fmt 0x7FC00000) = true ∧
    (CvType.isInt .ws = true ∧ CvType.isInt .narrow = false) ∧
    ((0 : ℝ) ≤ 3 / 2 ∧ (3 / 2 : ℝ) * (3 / 2) = (ratV (.fin false 9 (-2)) : ℝ) ∧ (0 : ℝ) < 2 / 3 ∧
      (2 / 3 : ℝ) * (2 / 3) * (ratV (.fin false 9 (-2)) : ℝ) = 1) :=
  ⟨by decide, ⟨by decide, by norm_num [ratV, ratOf], by norm_num [ratV, ratOf], by norm_num [ratV, ratOf]⟩,
    by unfold finiteCode; decide +kernel, by decide +kernel, by decide, root_of_nine_quarters⟩

theorem decode_one : decodeF f32Fmt 0x3F800000 = .fin false (2 ^ 23) (-23) := by decide +kernel
theorem decode_large : decodeF f32Fmt 0x7F000000 = .fin false (2 ^ 23) 104 := by decide +kernel

theorem witness_SpecialFunctionsAreExact :
    f16Fmt ∈ [f16Fmt, bf16Fmt, f32Fmt] ∧ (0x3F800000 < 2 ^ 32 ∧ finiteCode f32Fmt 0x3F800000 = some 1 ∧ |(1 : ℚ)| ≤ 2 ^ 24 ∧ (0 : ℚ) < 1) ∧
    (finiteCode f32Fmt 0x7F000000 = some (2 ^ 127) ∧ (2 : ℚ) ^ 24 < |2 ^ 127|) := by
  rw [finiteCode, finiteCode, decode_one, decode_large]
  norm_num [ratOf]

end Sys2Proof.Tests
end

