-- ==== Sys2Proof/Tests/WitnessD.lean ====
section
/-! SUPPORT. For each statement about control registers, checks, traps and tokens, a state and operands that meet its hypotheses. -/

namespace Sys2Proof.Tests

open Sys2Proof.Machine Sys2Proof.Claims

set_option maxRecDepth 100000
set_option Elab.async false

theorem witness_ControlRegisters :
    (∃ v, plainCr (me (baseS [])) (33 : Fin 64).val = some v ∧ Ready (baseS []) 1 ∧ crLevel 33 ≤ privOf (me (baseS []))) ∧
    ReadyCompute base 1 ∧
    (1 ≤ privOf (me (baseS [])) ∧ partOf (baseS []) (baseS []).cur = some 0 ∧ getPart? (baseS []) 0 = some part0) ∧
    (∃ w, crWrites (0 : Fin 64).val = some w ∧ w.takes (me (baseR [0x40])) (val (baseR [0x40]) 1)) ∧
    (∃ w, crWrites (9 : Fin 64).val = some w ∧ Ready (baseS [0x3000000000000]) 1 ∧ crLevel 9 ≤ privOf (me (baseS [0x3000000000000])) ∧
      w.takes (me (baseS [0x3000000000000])) (val (baseS [0x3000000000000]) 1)) ∧
    (Ready (baseR [7]) 1 ∧ (val (baseR [7]) 1).toNat < 2 ^ 32) ∧
    (let s := baseR [0x800000000000C001]
     Ready s 1 ∧ wBits (val s 1) 16 47 = 0 ∧
      (if wBits (val s 1) 63 1 = 0 then val s 1 = 0 else permitted s (coreOf s.cur) (bindCore (val s 1)) = true)) ∧
    ((val (baseS [0x40000000]) 1).toNat < 2 ^ 48 ∧ (val (baseS [0x40000000]) 1).toNat % 4 = 0 ∧ val (baseS [1]) 1 = 1) ∧
    (Ready (baseM [64]) 1 ∧ isMem (baseM [64]).cur = true ∧ (val (baseM [64]) 1).toNat < 2 ^ 32) :=
  ⟨⟨_, rfl, ready_of (by decide +kernel), by decide +kernel⟩, readyC_of (by decide +kernel) (by decide +kernel), by decide +kernel,
    ⟨_, rfl, by decide +kernel⟩, ⟨_, rfl, ready_of (by decide +kernel), by decide +kernel⟩,
    ⟨ready_of (by decide +kernel), by decide +kernel⟩, ⟨ready_of (by decide +kernel), by decide +kernel⟩, by decide +kernel,
    ready_of (by decide +kernel), by decide +kernel⟩

/-- A part in which context 0 runs at a far address that its process maps, with a handler there, and the word `w` at its pc. -/
def codeBase (w : Nat) (f : Ctx → Ctx) : State :=
  modCtx { base with mem := memWrite (placeTables []) 0x20000 (leBytes 4 w ++ leBytes 4 0x10000000) } 0
    (fun x => f { x with pc := 0x40000000, tvec := 0x40000004, tframe := 0x400 })

theorem witness_ChecksBeforeEffect :
    (flockOf base base.cur = [] ∧ isRoot (me base) = false ∧ isMem base.cur = false) ∧
    (flockOf (baseM []) (baseM []).cur = [] ∧ isMem (baseM []).cur = true) ∧
    (∃ f, twoRegisters (.mul 3 4 5 .wrap .d) = some (3, 4, 5, 2, f) ∧
      wBits (me (baseC (fun x => { x with st := 8 }))).st 3 1 = 1 ∧ flockOf (baseC (fun x => { x with st := 8 })) 0 = []) ∧
    (needs (.mtc 1 33) = some 1 ∧ wBits (me base).st 3 1 = 0 ∧ privOf (me base) < 1) ∧
    (let s := baseC (fun x => { x with budget := 5, charge := 4 })
     wBits (me s).st 3 1 = 0 ∧ (me s).budget.toNat < (me s).charge.toNat + 2) ∧
    (∃ s1, fetchWord (codeBase 0x06842E00 id) 0 (me (codeBase 0x06842E00 id)).pc.toNat = .ok (s1, 0x06842E00) ∧
      decodeWord 0x06842E00 (isRoot (me (codeBase 0x06842E00 id))) = .error 5) ∧
    (fetchWord base base.cur (me base).pc.toNat = .error cFAR_TRANSLATE ∧ cFAR_TRANSLATE ≠ cILLEGAL ∧ cFAR_TRANSLATE ≠ cPRIVILEGE) :=
  ⟨by decide +kernel, by decide +kernel, ⟨_, rfl, by decide +kernel⟩, ⟨rfl, by decide +kernel⟩, by decide +kernel,
    ⟨_, rfl, by decide +kernel⟩, rfl, by decide⟩

/-- The base with a line of cluster memory that core 1 has marked for writing. -/
def markedBase : State := { baseR [0x100010, 0x100013, 0x200000] with marks := [⟨(clusterBase 0 + 0x10) / 128, 7, true, 0, 4, 0⟩] }

theorem witness_ChecksBeforeEffect_nearAccesses :
    mappedOk (getCtx markedBase 0) 0 0x30000 4 .load = false ∧
    (mappedOk (getCtx markedBase 0) 0 0x100013 4 .load = true ∧ 0x100013 % 4 ≠ 0) ∧
    (mappedOk (getCtx markedBase 0) 0 0x200000 4 .store = true ∧ inSlice 0 0x200000 = true ∧ privOf (getCtx markedBase 0) = 0) ∧
    (mappedOk (getCtx markedBase 0) 0 0x100010 8 .load = true ∧ isMem 0 = false ∧ inSlice 0 0x100010 = false ∧
      lostPeer markedBase 0 0x100010 = none ∧ (⟨(clusterBase 0 + 0x10) / 128, 7, true, 0, 4, 0⟩ : Mark) ∈ markedBase.marks ∧
      7 ≠ partyOf 0 ∧ (clusterBase 0 + 0x10) / 128 = phys 0 0x100010 / 128 ∧ lineOf (phys 0 0x100010) ≠ none) ∧
    (∃ t, loads (.ld 9 1 .d 0) = some (9, 1, .d, wordOff 0 8) ∧ Ready markedBase 1 ∧
      nearCheck markedBase markedBase.cur (val markedBase 1 + wordOff 0 8).toNat 8 .load = some t ∧ t.cause ≠ cILLEGAL ∧
      t.cause ≠ cPRIVILEGE) ∧
    (∃ t, stores (.st 9 3 .d 0) = some (3, 9, .d, wordOff 0 8) ∧
      nearCheck markedBase markedBase.cur (val markedBase 3 + wordOff 0 8).toNat 8 .store = some t ∧ t.cause ≠ cILLEGAL ∧
      t.cause ≠ cPRIVILEGE) :=
  ⟨by decide +kernel, by decide +kernel, by decide +kernel, by decide +kernel,
    ⟨_, rfl, ready_of (by decide +kernel), rfl, by decide +kernel⟩,
    ⟨_, rfl, rfl, by decide +kernel⟩⟩

/-- A trap that a load raises. -/
def trap0 : Trap := ⟨cALIGN, 0x100013, false, 0, 0, none⟩

/-- The context at its code with a handler, loops and a prefix pending. -/
def handlerBase : State := codeBase 0x06842A00 (fun x => { x with
  st := 0x1048, pfx := 0x95B34000, ls := x.ls.set 1 0x40000000, le := x.le.set 1 0x40000010, lc := x.lc.set 1 3 })

theorem witness_TrapEntry : ∃ u, isMem 0 = false ∧ (getCtx handlerBase 0).root = none ∧ (getCtx handlerBase 0).run = 0 ∧
    trap0.cause ≠ cUNCORRECTABLE ∧ trap0.cause ≠ cBUDGET ∧ trap0.opc = none ∧
    handles handlerBase 0 (mkRec handlerBase 0 trap0 0x40000000) u :=
  ⟨_, by decide, by decide +kernel, by decide +kernel, by decide, by decide, by decide, by decide +kernel, by decide +kernel,
    by decide +kernel, by decide +kernel, ⟨_, rfl⟩⟩

theorem witness_TrapEntry_roundTrip : ∃ u, isMem 0 = false ∧ (getCtx handlerBase 0).root = none ∧ (getCtx handlerBase 0).run = 0 ∧
    trap0.cause ≠ cUNCORRECTABLE ∧ trap0.cause ≠ cBUDGET ∧ trap0.opc = none ∧ wBits (getCtx handlerBase 0).st 4 3 ≤ 4 ∧
    (wBits (getCtx handlerBase 0).st 3 1 = 0 → (getCtx handlerBase 0).pfx = 0) ∧
    (wBits (getCtx handlerBase 0).st 3 1 = 1 → bitsAt (getCtx handlerBase 0).pfx.toNat 26 6 = 0x25 ∧
      bitsAt (getCtx handlerBase 0).pfx.toNat 14 3 ≤ 5 ∧ (getCtx handlerBase 0).pfx.toNat % 2 ^ 14 = 0) ∧
    handles handlerBase 0 (mkRec handlerBase 0 trap0 0x40000000) u ∧
    memRead u.mem (phys 0 (getCtx handlerBase 0).tframe.toNat) 64 = (mkRec handlerBase 0 trap0 0x40000000).bytes :=
  ⟨_, by decide, by decide +kernel, by decide +kernel, by decide, by decide, by decide, by decide +kernel, by decide +kernel,
    by decide +kernel, ⟨by decide +kernel, by decide +kernel, by decide +kernel, by decide +kernel, ⟨_, rfl⟩⟩, by decide +kernel⟩

/-- The base with DBGCTL.EBS set and SVEC at a supervisor's entry. -/
def ebsBase : State := modPart base 0 (fun q => { q with dbgctl := 1, svec := 0x40000100 })

theorem witness_SoftwareTraps :
    (Ready base 1 ∧ bodyEnds (me base) (me base).pc.toNat = false ∧ issuing (me base).mode = true ∧ ebsOf base base.cur = none) ∧
    (Ready ebsBase 1 ∧ bodyEnds (me ebsBase) (me ebsBase).pc.toNat = false ∧ ebsOf ebsBase ebsBase.cur = some 0) ∧
    (∃ q, privOf (me ebsBase) = 0 ∧ partOf ebsBase ebsBase.cur = some 0 ∧ getPart? ebsBase 0 = some q ∧ q.svec ≠ 0) ∧
    (let s := baseC (fun x => { x with le := x.le.set 1 0x1000, lc := x.lc.set 1 3 })
     endsTask (.halt 0) = true ∧ flockOf s s.cur = [] ∧ wBits (me s).st 3 1 = 0 ∧ bodyEnds (me s) (me s).pc.toNat = true) :=
  ⟨⟨ready_of (by decide +kernel), by decide +kernel⟩, ⟨ready_of (by decide +kernel), by decide +kernel⟩,
    ⟨_, by decide +kernel, by decide +kernel, rfl, by decide +kernel⟩, by decide +kernel⟩

/-- A supervisor about to return to the pc in SEPC with the status in SEST. -/
def superBase (pc : BitVec 48) (st : Word) : State := baseC (fun x => { x with st := 1, sepc := pc, sest := st })

theorem witness_ModeReturn :
    (let s := superBase 0x2000 0x20
     Ready s 1 ∧ bodyEnds (me s) (me s).pc.toNat = false ∧ wBits (me s).st 23 1 = 0 ∧ 1 ≤ privOf (me s) ∧
      (me s).sest.toNat % 4 < privOf (me s) ∧ (me s).sepc.toNat % 4 = 0) ∧
    (let s := superBase 0x2002 0x20
     Ready s 1 ∧ bodyEnds (me s) (me s).pc.toNat = false ∧ wBits (me s).st 23 1 = 0 ∧ 1 ≤ privOf (me s) ∧ (me s).sepc.toNat % 4 ≠ 0) ∧
    (let s := superBase 0x2000 1
     Ready s 1 ∧ wBits (me s).st 23 1 = 0 ∧ 1 ≤ privOf (me s) ∧ privOf (me s) ≤ (me s).sest.toNat % 4) ∧
    (Ready base 1 ∧ bodyEnds (me base) (me base).pc.toNat = false ∧ wBits (me base).st 23 1 = 0 ∧ privOf (me base) = 0) :=
  ⟨⟨ready_of (by decide +kernel), by decide +kernel⟩, ⟨ready_of (by decide +kernel), by decide +kernel⟩,
    ⟨ready_of (by decide +kernel), by decide +kernel⟩, ready_of (by decide +kernel), by decide +kernel⟩

/-- The state in which the handler of handlerBase starts. -/
def inHandler : State := takeTrap handlerBase 0 trap0 0x40000000

/-- The conditions of a return from the handler at a record. -/
abbrev returns (s : State) : Prop :=
  let r := (me s).tframe.toNat
  let npc := recNat s s.cur (r + if recNat s s.cur (r + 2) 2 % 2 = 1 then 0x28 else 0x10) 8
  let sv := recNat s s.cur (r + 0x20) 8
  let pf := recNat s s.cur (r + 0x38) 4
  mappedOk (me s) s.cur r 64 .load = true ∧ r % 64 = 0 ∧ npc < 2 ^ 48 ∧ npc % 4 = 0 ∧ bitsAt sv 4 3 ≤ 4 ∧
    (bitsAt sv 3 1 = 1 → bitsAt pf 26 6 = 0x25 ∧ bitsAt pf 14 3 ≤ 5 ∧ pf % 2 ^ 14 = 0) ∧ (me s).shadow.length = 12

theorem witness_HandlerReturn :
    Ready inHandler 1 ∧ bodyEnds (me inHandler) (me inHandler).pc.toNat = false ∧ wBits (me inHandler).st 23 1 = 1 ∧ returns inHandler :=
  ⟨ready_of (by decide +kernel), by decide +kernel⟩

/-- The base with counts and a fault held on its tokens. -/
def tokBase : State := baseC (fun x => { x with
  g := regs [5, 10], tok := (x.tok.set 2 ⟨1, 2, 0, none⟩).set 3 ⟨0, 0, 0, some ⟨cENGINE, 0x40, 0, false, 0, 0, 1, 0⟩⟩ })

theorem witness_TokensAndHalts :
    (ReadyCompute tokBase 1 ∧ (me tokBase).tok[(2 : Fin 8)].sfree + (val tokBase 1).toNat < 2 ^ 20 ∧
      (me tokBase).tok[(2 : Fin 8)].vis + (val tokBase 1).toNat < 2 ^ 20 ∧ (me tokBase).tok[(2 : Fin 8)].fault = none) ∧
    (∃ h, (me tokBase).tok[(3 : Fin 8)].fault = some h ∧ h.cause ≠ cILLEGAL ∧ h.cause ≠ cPRIVILEGE) ∧
    ((me tokBase).tok[(2 : Fin 8)].bind = 0 ∧ (val tokBase 2).toNat < 2 ^ 16 ∧ counterOk tokBase (val tokBase 2).toNat = true) ∧
    (ReadyCompute base 1 ∧ bodyEnds (me base) (me base).pc.toNat = false ∧ (∀ t : TokId, (me base).tok[t].fault = none) ∧ (∀ k : Fin 4, (me base).chfault[k] = none) ∧
      ∀ e, entOfCtx base base.cur = some e → e.members.headD base.cur = base.cur) ∧
    (getCtr tokBase (dieOf tokBase.cur) (val tokBase 2).toNat = Counter.reset) ∧
    (Ready (baseM []) 1 ∧ bodyEnds (me (baseM [])) (me (baseM [])).pc.toNat = false ∧ isMem (baseM []).cur = true ∧ (me (baseM [])).serving = some serving0) :=
  ⟨⟨readyC_of (by decide +kernel) (by decide +kernel), by decide +kernel⟩, ⟨_, rfl, by decide⟩, by decide +kernel,
    ⟨readyC_of (by decide +kernel) (by decide +kernel), by decide +kernel, by decide +kernel, by decide +kernel, no_of (by decide +kernel)⟩, by decide +kernel,
    ready_of (by decide +kernel), by decide +kernel⟩

end Sys2Proof.Tests
end

