-- ==== Sys2Proof/Tests/WitnessE.lean ====
section
/-! SUPPORT. For each statement about root mode and the matrix and vector engines, a state and operands that meet its hypotheses. -/

namespace Sys2Proof.Tests

open Sys2Proof.Machine Sys2Proof.Claims

set_option maxRecDepth 100000
set_option Elab.async false

/-- A translator run whose image, output and provenance areas lie on the page at 0x40000000. -/
def run1 : RootRun := ⟨9, 1000, 7, 0x40000000, 1024, 0x40000000, 1024, 1024, 0x40000400, 1024, 0x40000800, [0x10000000], [(0, 0)]⟩

/-- The request that the run serves. -/
def req1 : HReq := { bareHReq 9 16 0x1000 0x2000 1 with key := [1], outArea := 0x40000400, provArea := 0x40000800, stage := 6 }

/-- A part in which context 0 is in that run, on a page that it may read, write and run. -/
def rootBase (l : List Nat) : State :=
  modCtx { base with mem := memWrite (placeTables []) 0x13000 (leBytes 8 0x2011F), hreqs := [req1] } 0
    (fun x => { x with g := regs l, st := 4, root := some run1, pc := 0x40000000 })

theorem witness_RootMode :
    (rootLoads (.kLdD 2 1 0) = some (2, 1, .d, 0) ∧ Ready (baseR [0x100]) 1 ∧
      nearCheck (baseR [0x100]) (baseR [0x100]).cur (val (baseR [0x100]) (kreg 1) + wordOff 0 8).toNat 8 .load = none ∧
      (me (baseR [0x100])).root = none) ∧
    (let s := rootBase [0x500003F8]
     let ea := (val s (kreg 1) + wordOff 0 8).toNat
     Ready s 1 ∧ (me s).root = some run1 ∧ 0x50000000 ≤ ea ∧ ea + 8 ≤ 0x50000000 + run1.scrLen ∧ ea % 8 = 0 ∧
      poisonTrap s s.cur (winBase (me s) + (ea - 0x50000000)) 8 = none) ∧
    (∃ u bs, (let s := rootBase [0x400003F8]
     let ea := (val s (kreg 1) + wordOff 0 8).toNat
     0x40000000 ≤ ea ∧ ea + 8 ≤ 0x40000000 + run1.plen ∧ ea % 8 = 0) ∧
     fetchBytes (rootBase [0x400003F8]) 0 (run1.inBase + 0x3F8) 8 = .ok (u, bs)) ∧
    (let s := rootBase [0x60000000]
     let ea := (val s (kreg 1) + wordOff 0 8).toNat
     ∀ j, j < 8 → ¬(0x50000000 ≤ ea + j ∧ ea + j < 0x50000000 + run1.scrLen) ∧
        ¬(0x40000000 ≤ ea + j ∧ ea + j < 0x40000000 + run1.plen)) ∧
    rootStores (.kStW 2 1 0) = some (2, 1, .w, 0) ∧
    (∃ u, inRun (rootBase [0x12345]) run1 ∧ Ready (rootBase [0x12345]) 1 ∧ (val (rootBase [0x12345]) (kreg 1)).toNat < 2 ^ 32 ∧
      4 * run1.out.length + 4 ≤ run1.outLim ∧
      runWrite (rootBase [0x12345]) (run1.outArea + 4 * run1.out.length) (leBytes 4 (val (rootBase [0x12345]) (kreg 1)).toNat) = .ok u) ∧
    (∃ u, (let s := rootBase [4, 0x3FF]
      (val s (kreg 1)).toNat % 4 = 0 ∧ (val s (kreg 1)).toNat ≤ 4 * run1.out.length ∧
       (run1.prov.headD (0, 0)).1 ≤ (val s (kreg 1)).toNat ∧ (val s (kreg 2)).toNat < run1.plen ∧ run1.prov.length + 1 ≤ run1.outLim / 4) ∧
      runWrite (rootBase [4, 0x3FF]) (run1.provArea + 8 * run1.prov.length) (leBytes 4 (val (rootBase [4, 0x3FF]) (kreg 1)).toNat ++
        leBytes 4 (val (rootBase [4, 0x3FF]) (kreg 2)).toNat) = .ok u) :=
  ⟨⟨rfl, ready_of (by decide +kernel), by decide +kernel⟩, ⟨ready_of (by decide +kernel), by decide +kernel⟩,
    ⟨_, _, by decide +kernel, rfl⟩, by decide +kernel, rfl,
    ⟨_, by unfold inRun; decide +kernel, ready_of (by decide +kernel), by decide +kernel, by decide +kernel, rfl⟩,
    ⟨_, by decide +kernel, rfl⟩⟩

/-- The same run with an output that branches out of its translation. -/
def badRun : RootRun := { run1 with out := [0x2CA0FFFD] }

theorem witness_RunEnds :
    (∃ a, inRun (modCtx (rootBase []) 0 (fun x => { x with root := some badRun })) badRun ∧ findReq (rootBase []) badRun.req = some req1 ∧
      outputCheck badRun.out.reverse badRun.prov.reverse req1.entries = some a) ∧
    (inRun (rootBase []) run1 ∧ Ready (rootBase []) 1 ∧ findReq (rootBase []) run1.req = some req1 ∧
      outputCheck run1.out.reverse run1.prov.reverse req1.entries = none ∧ dirFind (rootBase []) req1.part req1.key = none ∧
      (getPart? (rootBase []) req1.part).isSome = true) ∧
    (isMem 0 = false ∧ (getCtx (rootBase []) 0).root = some run1 ∧ cCONFINE ≠ cUNCORRECTABLE) ∧
    (let s := modCtx (rootBase []) 0 (fun x => { x with root := some { run1 with count := 1000 }, waiting := true })
     (getCtx s (argN s 0)).root = some { run1 with count := 1000 } ∧ (getCtx s (argN s 0)).waiting = true ∧
      (getCtx s (argN s 0)).mode = .running ∧ run1.limit ≤ 1000) ∧
    ([0x10000000] ≠ [] ∧ outputCheck [0x10000000] [(0, 0)] [0] = none) ∧
    (0 < [0x2CA0FFFD].length ∧ (∀ j, j < 1 → wordFails ([0x2CA0FFFD].getD j 0) false = none) ∧ targetIn 1 0 ([0x2CA0FFFD].getD 0 0) = false) ∧
    (∃ d, wordFails 0x06842E00 false = some d) :=
  ⟨⟨_, by unfold inRun; decide +kernel, by decide +kernel, rfl⟩,
    ⟨by unfold inRun; decide +kernel, ready_of (by decide +kernel), by decide +kernel⟩, by decide +kernel, by decide +kernel,
    by decide +kernel, by decide +kernel, ⟨_, rfl⟩⟩

theorem issuable_of {s : State} {eng : Nat} {t : TokId} {rs : List ERange}
    (h : rangeTrap s s.cur rs = none ∧ issueConflict s s.cur (engParty (coreOf s.cur) eng) rs = none ∧ (me s).tok[t].vis + 1 < 2 ^ 20) :
    Issuable s eng t rs :=
  { ranges := h.1, lines := h.2.1, room := h.2.2 }

/-- The base with the words of a matrix command in g1 and g2. -/
def matBase (lo hi : Nat) : State := baseR [lo, hi]

/-- An A operand of format 3 at 0x1000 and a B operand of format 3 in the weight stack. -/
def mmaLo : Nat := 0x1000 + 64 * 2 ^ 32 + 3 * 2 ^ 48 + 3 * 2 ^ 51
def mmaHi : Nat := 0x200000 + 64 * 2 ^ 32

theorem witness_MatrixIssue :
    (let s := matBase mmaLo mmaHi
     let lo := (val s 1).toNat
     let hi := (val s 2).toNat
     let ra := regA (me s) (bitsAt lo 48 3)
     let rb := regB (me s) (bitsAt lo 51 3)
     let rs := mmaRanges (fmtOf ra) (fmtOf rb) lo hi true
     mmaForms (.mma 1 2 0 1) = some (0, 1, 2, 0, 1, true, false) ∧ FreeCompute s 16 ∧ Issuable s 0 0 rs ∧
      waitingCmds (getCore s (coreOf s.cur)).mat < 2 ∧ bitsAt lo 54 10 = 0 ∧ bitsAt hi 48 16 = 0 ∧ fmtKind ra ≠ 3 ∧ fmtKind rb ≠ 3 ∧
      strideOk (bitsAt lo 32 16) (4 * (fmtOf ra).w) = true ∧ strideOk (bitsAt hi 32 16) (4 * (fmtOf rb).w) = true) ∧
    (ReadyCompute base 1 ∧ Issuable base 0 0 []) ∧
    (let s := matBase (0x1000 + 64 * 2 ^ 32) 0
     let lo := (val s 1).toNat
     let rs := rowRanges (bitsAt lo 0 32) (bitsAt lo 32 16) 64 false .near
     accLoads (.psumAdd 1 2 0 1) = some (8, 1, 2, 0, 1) ∧ ReadyCompute s 4 ∧ Issuable s 0 0 rs ∧ val s 2 = 0 ∧ bitsAt lo 48 16 = 0 ∧
      strideOk (bitsAt lo 32 16) 64 = true) ∧
    (let s := matBase (0x1000 + 64 * 2 ^ 32) (0x2000 + 64 * 2 ^ 32 + 3 * 2 ^ 48)
     let lo := (val s 1).toNat
     let hi := (val s 2).toNat
     let ro := regO (me s) (bitsAt lo 48 3)
     let rt := (me s).fmt[fmtIx (bitsAt hi 48 3)]
     drains (.drnT 1 2 0 none false 1) = some (7, 1, 2, 0, none, false, 1) ∧ FreeCompute s 8 ∧
      Issuable s 0 0 (copyRanges (fmtOf ro) lo ++ copyRanges (fmtOf rt) hi) ∧ bitsAt lo 54 10 = 0 ∧ bitsAt lo 51 3 ≤ 5 ∧
      bitsAt hi 51 13 = 0 ∧ strideOk (bitsAt lo 32 16) (2 * (fmtOf ro).w) = true ∧ strideOk (bitsAt hi 32 16) (2 * (fmtOf rt).w) = true) :=
  ⟨⟨rfl, freeC_of (by decide +kernel) (by decide +kernel), issuable_of (by decide +kernel), by decide +kernel⟩,
    ⟨readyC_of (by decide +kernel) (by decide +kernel), issuable_of (by decide +kernel)⟩,
    ⟨rfl, readyC_of (by decide +kernel) (by decide +kernel), issuable_of (by decide +kernel), by decide +kernel⟩,
    ⟨rfl, freeC_of (by decide +kernel) (by decide +kernel), issuable_of (by decide +kernel), by decide +kernel⟩⟩

/-- A queued command of op number `op`. -/
def cmd0 (op cmd : Nat) (running : Bool) : EngCmd :=
  { bareCmd 3 op 0 2 1 cmd [] with fa := 0x00507480, fb := 0x00507480, fo := 0x03000000, running := running }

/-- The base with that command first in a queue of core 0, and one behind it. -/
def engBase (e : EngCmd) : State :=
  modCore (baseC (fun x => { x with tok := x.tok.set 2 ⟨0, 2, 0, none⟩ })) 0 (fun k => { k with mat := [e, e], vec := [e] })

theorem witness_MatrixEvents :
    ((getCore (engBase (cmd0 4 0 false)) (argN (engBase (cmd0 4 0 false)) 0)).mat = cmd0 4 0 false :: [cmd0 4 0 false]) ∧
    (∀ op ∈ [0, 2, 4, 5, 8], (getCore (engBase (cmd0 op mmaLo true)) (argN (engBase (cmd0 op mmaLo true)) 0)).mat =
        cmd0 op mmaLo true :: [cmd0 op mmaLo true] ∧
      rangePoison (engBase (cmd0 op mmaLo true)) 0 (matReads (cmd0 op mmaLo true)) = none) ∧
    ((cmd0 6 (0x1000 + 64 * 2 ^ 32) true).op = 6 ∧ (cmd0 6 0 true).amx = none ∧ (cmd0 6 0 true).fo = 0x03000000) ∧
    ReadyCompute base 1 ∧ (∀ v ∈ [FVal.fin true 3 5], finiteV v = true) :=
  ⟨by decide +kernel, by decide +kernel, by decide +kernel, readyC_of (by decide +kernel) (by decide +kernel), by decide⟩

/-- vx.ew: add of 5 elements in f32. -/
def vecLo : Nat := 0x1000 + 0x2000 * 2 ^ 32
def vecHi : Nat := 0x3000 + 5 * 2 ^ 32

theorem witness_VectorCommands :
    (let s := matBase vecLo vecHi
     let v := vcmdOf (val s 1).toNat (val s 2).toNat
     let fx := fmtOf (regA (me s) v.fx)
     let fy := fmtOf (regB (me s) v.fy)
     let fd := fmtOf (regO (me s) v.fd)
     vectorForms (.vxEw 1 2 0 none false) = some (0, 1, 2, 0, none, false) ∧ waitingCmds (getCore s (coreOf s.cur)).vec < 2 ∧
      FreeCompute s (2 + ceilDiv (vecBytes 0 fx fy fd v) 64) ∧
      Issuable s 1 0 (vecReads 0 false fx fy v ++ operandRanges fd v.dbase (dCount 0 v) true) ∧
      vecBad 0 (me s) v (match prefixOf (me s) with | some p => p.a | none => fmtIx v.fx)
        (match prefixOf (me s) with | some p => p.out | none => fmtIx v.fd) = false) ∧
    (let s := engBase (cmd0 32 (vecLo + vecHi * 2 ^ 64) false)
     (getCore s (argN s 0)).vec = cmd0 32 (vecLo + vecHi * 2 ^ 64) false :: []) ∧
    (let s := engBase (cmd0 32 (vecLo + vecHi * 2 ^ 64) true)
     (getCore s (argN s 0)).vec = cmd0 32 (vecLo + vecHi * 2 ^ 64) true :: [] ∧
      rangePoison s 0 (vecSources (cmd0 32 (vecLo + vecHi * 2 ^ 64) true)) = none) ∧
    (1 < [FVal.fin true 3 5, .fin false 1 0].length ∧ finiteV (.fin true 3 5) = true) ∧
    (∀ v ∈ [FVal.fin true 3 5, .inf false], v.isNan = false) ∧ (∀ v ∈ [FVal.fin true 3 5], finiteV v = true) :=
  ⟨⟨rfl, by decide +kernel, freeC_of (by decide +kernel) (by decide +kernel), issuable_of (by decide +kernel), by decide +kernel⟩, by decide +kernel,
    by decide, by decide, by decide⟩

end Sys2Proof.Tests
end

