-- ==== Sys2Proof/Tests/WitnessF.lean ====
section
/-! SUPPORT. For each statement about copies, far orders and memory programs, a state and operands that meet its hypotheses. -/

namespace Sys2Proof.Tests

open Sys2Proof.Machine Sys2Proof.Claims

set_option maxRecDepth 100000
set_option Elab.async false

/-- A last record of token t2 with these sides, addresses and length. -/
def recOf (kind : Nat) (sfar dfar : Bool) (src dst len x : Nat) : List Nat :=
  [2 ^ 63 + kind * 2 ^ 60 + 2 ^ 57 + 2 ^ 56 + 2 * 2 ^ 53 + 2 ^ 52 + (if sfar then 2 ^ 51 else 0) + (if dfar then 2 ^ 50 else 0),
    src, dst, len, 0, 0, x, 0]

/-- A chain of context 0 that a write of CHHEAD started, or with its chain token. -/
def chain0 (tok : Option Nat) : Chain := ⟨0, 0x40, tok, 0x800, 0, 0, []⟩

/-- A record being run. -/
def run (w : List Nat) : RunRec := ⟨5, 0x800, w, piecesOf w, 0, [], [], 0, false, false, false, [], none, false, [], []⟩

/-- The base with counts on t2, one page of far memory, and channel 1 of core 0 running a record. -/
def copyBase (o : Option RunRec) : State :=
  { modCore (baseC (fun x => { x with tok := x.tok.set 2 ⟨1, 1, 0, none⟩ })) 0
      (fun k => { k with chans := k.chans.set 1 (some ⟨chain0 none, 0x800, o⟩) }) with
    mem := memWrite (placeTables []) 0x13000 (leBytes 8 0x2011F), arg := EvArg.of [0, 1], nextId := 6 }

/-- The same with the bytes of a record in local memory, due to be taken. -/
def dueBase (w : List Nat) : State := rawWrite (copyBase none) (localBase 0 + 0x800) (w.flatMap (leBytes 8))

/-- A copy of 200 bytes within local memory. -/
def nearRec : List Nat := recOf 0 false false 0x1000 0x2040 200 0

/-- A channel that runs a chain, with two behind it. -/
def fullGoBase : State := modCore (baseR [0x800]) 0 (fun k => { k with
  chans := k.chans.set 1 (some ⟨chain0 none, 0x800, none⟩), copyQ := [(1, chain0 none), (2, chain0 none)] })

/-- What cpy.go asks of its operands. -/
abbrev goOk (s : State) : Prop :=
  (val s 1).toNat < 2 ^ 32 ∧ (me s).chfault[(1 : Fin 4)] = none ∧ (me s).tok[(2 : Fin 8)].sfree + 1 < 2 ^ 20 ∧
    (me s).tok[(2 : Fin 8)].vis + 1 < 2 ^ 20

theorem witness_CopyChains :
    (ReadyCompute (baseR [0x800]) 1 ∧ goOk (baseR [0x800]) ∧ queueFull (baseR [0x800]) (baseR [0x800]).cur 1 = false) ∧
    (ReadyCompute fullGoBase 1 ∧ goOk fullGoBase ∧ queueFull fullGoBase fullGoBase.cur 1 = true) ∧
    (getCore base 0).chans[(1 : Fin 4)] = none ∧ (getCore (copyBase none) 0).chans[(1 : Fin 4)] ≠ none :=
  ⟨⟨readyC_of (by decide +kernel) (by decide +kernel), by decide +kernel⟩, ⟨readyC_of (by decide +kernel) (by decide +kernel), by decide +kernel⟩,
    by decide +kernel⟩

/-- The record at 0x800 lies in a window of the whole of local memory. -/
theorem own_record {s : State} (whole : (getCtx s 0).lwin = 0x0003000000000000) : ownBytes s 0 0x800 64 :=
  fun i hi => ⟨0x800 + i, by simp [areaFor, areaOf, isMem, memBase]; omega, by
    simp [inWindow, winBase, winLen, whole, wBits, bitsAt]; omega⟩

theorem witness_RecordStarts :
    (let s := dueBase nearRec
     let w := recWords s [] 0 0x800
     argN s 1 = (1 : Fin 4).val ∧ (getCore s (argN s 0)).chans[(1 : Fin 4)] = some ⟨chain0 none, 0x800, none⟩ ∧
      chainActive s 0 = true ∧ 0x800 % 64 = 0 ∧ poisonTrap s 0 0x800 64 = none ∧ headerOk w = true ∧
      kindRules s ((partOf s 0).getD 0) w = true ∧ bitsAt (w.getD 0 0) 60 3 = 0 ∧
      rangesBad (modCore s (argN s 0) (fun q => { q with chans := q.chans.set 1 (some { (⟨chain0 none, 0x800, none⟩ : ChainRun) with
        running := some (badRec 0x800 w s.nextId) }) })) 0 0 w = none ∧
      recConflict s (chain0 none) (nearRanges w) = none ∧ overBudget (getCtx s 0) 0 (4 + ceilDiv (recBytes w) 256) = false) ∧
    ownBytes (dueBase nearRec) 0 0x800 64 :=
  ⟨by decide +kernel, own_record (by decide +kernel)⟩

/-- The near record with every piece moved, and one that has failed. -/
def movedRec : RunRec := { run nearRec with moved := (piecesOf nearRec).length }
def failedRec : RunRec := { run nearRec with fault := some ⟨cCONFLICT, 0, 0x1000, false, 0, 0, 0, 0⟩ }

theorem witness_NearCopies :
    (∃ l, argN (copyBase (some (run nearRec))) 1 = (1 : Fin 4).val ∧
      nearRecord (copyBase (some (run nearRec))) 1 ⟨chain0 none, 0x800, some (run nearRec)⟩ (run nearRec) ∧
      (run nearRec).suspended = false ∧ (run nearRec).fault = none ∧ (run nearRec).poisoned = false ∧
      (run nearRec).lines[(run nearRec).moved]? = some l ∧ 0 < l.len ∧ onePiece 0 l ∧ (run nearRec).tail = [] ∧
      (copyBase (some (run nearRec))).choices = [] ∧ cleanBytes (copyBase (some (run nearRec))) (phys 0 l.va) l.len = l.len) ∧
    (nearRecord (copyBase (some movedRec)) 1 ⟨chain0 none, 0x800, some movedRec⟩ movedRec ∧ movedRec.moved = movedRec.lines.length ∧
      movedRec.fault = none ∧ movedRec.readDone = false ∧ rTv movedRec.words = true ∧ allDone movedRec = true ∧
      rEnd movedRec.words = true ∧ movedRec.hostOut = [] ∧ idleBehind (copyBase (some movedRec)) 0) ∧
    ownBytes (copyBase (some movedRec)) 0 movedRec.addr 64 ∧
    (∃ f, nearRecord (copyBase (some failedRec)) 1 ⟨chain0 none, 0x800, some failedRec⟩ failedRec ∧ failedRec.fault = some f ∧
      outstanding failedRec = 0 ∧ failedRec.data = [] ∧ failedRec.tail = [] ∧ failedRec.hostOut = [] ∧ failedRec.words ≠ [] ∧ f.cause ≠ cBUDGET ∧
      rTv failedRec.words = true ∧ isMem 0 = false ∧ idleBehind (copyBase (some failedRec)) 0 ∧
      (getCtx (copyBase (some failedRec)) 0).tok[rTok failedRec.words].fault = none) :=
  ⟨⟨_, by decide +kernel, by unfold nearRecord; decide +kernel, by decide +kernel, by decide +kernel, by decide +kernel, rfl, by decide +kernel,
      by unfold onePiece; decide +kernel, by decide +kernel⟩,
    ⟨by unfold nearRecord; decide +kernel, by decide +kernel, by decide +kernel, by decide +kernel, by decide +kernel, by decide +kernel,
      by decide +kernel, by decide +kernel, by unfold idleBehind; decide +kernel⟩,
    own_record (by decide +kernel),
    ⟨_, by unfold nearRecord; decide +kernel, rfl, by unfold idleBehind; decide +kernel⟩⟩

/-- Records from and to far memory, and one from an address without a mapping. -/
def loadRec : List Nat := recOf 0 true false 0x40000010 0x2040 200 0
def storeRec : List Nat := recOf 0 false true 0x1000 0x40000010 200 0
def strayRec : List Nat := recOf 0 true false 0x80000000 0x2040 200 0

/-- The first line of a record. -/
def line0 (w : List Nat) : FarLine := (piecesOf w).headD ⟨0, 0, 0, 0⟩

/-- The copy base at the line's second visit, after its walk. -/
def visit (w : List Nat) : State := { copyBase (some (run w)) with arg := EvArg.of [0, 1, 1] }

/-- A record's visit with its page in the translation cache. -/
def hitBase (w : List Nat) : State :=
  modDie (visit w) 0 (fun d => { d with tlb := [⟨0, 1, 0x40000000, 4096, 0x20000, false, true, false, true, true⟩] })

theorem witness_FarLines :
    (farRecord (copyBase (some (run loadRec))) 1 ⟨chain0 none, 0x800, some (run loadRec)⟩ (run loadRec) (line0 loadRec) ∧
      argN (copyBase (some (run loadRec))) 1 = (1 : Fin 4).val ∧ argN (copyBase (some (run loadRec))) 2 ≠ 1 ∧
      tlbHit (copyBase (some (run loadRec))) 0 0 1 ((line0 loadRec).va + (line0 loadRec).off) = none) ∧
    (∃ s1 pa, farRecord (visit loadRec) 1 ⟨chain0 none, 0x800, some (run loadRec)⟩ (run loadRec) (line0 loadRec) ∧ argN (visit loadRec) 2 = 1 ∧
      translate (visit loadRec) 0 0 1 0x40000010 .read = .ok (s1, pa, false) ∧ (∀ e, entOfCtx s1 0 = some e → e.telig = false) ∧
      (getCtx s1 0).run = 0) ∧
    (∃ s1 pa, farRecord (visit storeRec) 1 ⟨chain0 none, 0x800, some (run storeRec)⟩ (run storeRec) (line0 storeRec) ∧
      translate (visit storeRec) 0 0 1 0x40000010 .write = .ok (s1, pa, false) ∧
      cleanBytes s1 (phys 0 (line0 storeRec).near) (line0 storeRec).len = (line0 storeRec).len ∧ (visit storeRec).choices = []) ∧
    (farRecord (visit strayRec) 1 ⟨chain0 none, 0x800, some (run strayRec)⟩ (run strayRec) (line0 strayRec) ∧
      translate (visit strayRec) 0 0 1 0x80000000 .read = .error cFAR_TRANSLATE ∧ cFAR_TRANSLATE ≠ cUNCORRECTABLE) ∧
    (∀ w ∈ [loadRec, storeRec], ∃ e, farRecord (hitBase w) 1 ⟨chain0 none, 0x800, some (run w)⟩ (run w) (line0 w) ∧
      tlbHit (hitBase w) 0 0 1 0x40000010 = some e ∧ (if recDfar (run w) then e.w && e.dirty else e.r) = true ∧
      (∀ e, entOfCtx (hitBase w) 0 = some e → e.telig = false) ∧ (getCtx (hitBase w) 0).run = 0 ∧
      cleanBytes (hitBase w) (phys 0 (line0 w).near) (line0 w).len = (line0 w).len ∧ (hitBase w).choices = []) :=
  ⟨⟨by unfold farRecord; decide +kernel, by decide +kernel⟩,
    ⟨_, _, by unfold farRecord; decide +kernel, by decide +kernel, rfl, no_of (by decide +kernel), by decide +kernel⟩,
    ⟨_, _, by unfold farRecord; decide +kernel, rfl, by decide +kernel⟩, ⟨by unfold farRecord; decide +kernel, rfl, by decide⟩,
    List.forall_mem_cons.2 ⟨⟨_, by unfold farRecord; decide +kernel, rfl, by decide +kernel, no_of (by decide +kernel), by decide +kernel⟩,
      List.forall_mem_singleton.2 ⟨_, by unfold farRecord; decide +kernel, rfl, by decide +kernel, no_of (by decide +kernel), by decide +kernel⟩⟩⟩

/-- A walk of die 0 for partition 0, process 1. -/
def walkBase : State := { copyBase none with arg := EvArg.of [0, 0, 1, 0x40000010, 0] }

/-- Tables of process 1 whose level-2 entry for 0x40000000 is `e2`, with a level-1 table at 0x12000 and a level-0 table at 0x13000 whose
first entries are `e1` and `e0`. -/
def tables (e2 e1 e0 : Nat) : State :=
  let m := memWrite (memWrite [] 0x10000 (leBytes 8 0x11001)) 0x11008 (leBytes 8 e2)
  { base with mem := memWrite (memWrite m 0x12000 (leBytes 8 e1)) 0x13000 (leBytes 8 e0) }

/-- The far address that those entries serve. -/
def va0 : Nat := 0x40000010

theorem witness_TranslationWalks :
    (va0 < 2 ^ 48 ∧ argN walkBase 3 = va0 ∧ tlbHit walkBase 0 0 1 va0 = none ∧ rootTable walkBase 0 1 = some 0x10000 ∧
      walkPoison walkBase va0 0x10000 = none ∧ leafAt walkBase.mem va0 0x10000 0x13000 0x2011F 4096 ∧ pteAddr 0x2011F % 4096 = 0 ∧
      kindOk (pteR 0x2011F) (pteW 0x2011F) (pteX 0x2011F) (kindOf (argN walkBase 4)) = true) ∧
    rootTable base 0 2 = none ∧ walkPoison { walkBase with poison := [0x11008 / 8] } va0 0x10000 = some 0x11008 ∧
    (leafAt (tables 0x40000013 0 0).mem va0 0x10000 0x11008 0x40000013 (2 ^ 30) ∧ pteAddr 0x40000013 % 2 ^ 30 = 0 ∧
      kindOk (pteR 0x40000013) (pteW 0x40000013) (pteX 0x40000013) .read = true ∧
      kindOk (pteR 0x40000013) (pteW 0x40000013) (pteX 0x40000013) .write = false) ∧
    (leafAt (tables 0x12001 0x200013 0).mem va0 0x10000 0x12000 0x200013 (2 ^ 21) ∧ pteAddr 0x200013 % 2 ^ 21 = 0) ∧
    (leafAt (tables 0x12001 0x201013 0).mem va0 0x10000 0x12000 0x201013 (2 ^ 21) ∧ pteAddr 0x201013 % 2 ^ 21 ≠ 0) ∧
    (∃ e, leafAt (tables 0x12001 0x13001 e).mem va0 0x10000 0x13000 e (2 ^ 16) ∧ pteAddr e % 2 ^ 16 = 0) ∧
    (brokenAt [] va0 0x10000 ∧ brokenAt (tables 0 0 0).mem va0 0x10000 ∧ brokenAt (tables 0x12001 0 0).mem va0 0x10000 ∧
      brokenAt (tables 0x12001 0x13001 0).mem va0 0x10000) ∧
    (∃ e, tlbHit (hitBase loadRec) 0 0 1 va0 = some e ∧ kindOk e.r e.w e.x .fetch = false ∧ kindOk e.r e.w e.x .write = true ∧ e.dirty = true) := by
  refine ⟨⟨by decide, by decide +kernel, by decide +kernel, by decide +kernel, by decide +kernel, by unfold leafAt; decide +kernel, by decide⟩,
    by decide +kernel, by decide +kernel, ⟨by unfold leafAt; decide +kernel, by decide⟩, ⟨by unfold leafAt; decide +kernel, by decide⟩,
    ⟨by unfold leafAt; decide +kernel, by decide⟩, ⟨0x10053, by unfold leafAt; decide +kernel, by decide⟩, ?_, ⟨_, rfl, by decide⟩⟩
  unfold brokenAt
  decide +kernel

/-- A line order of the copy channel at channel 0. -/
def order0 (kind : OrderKind) (stage : Nat) : FarOrder :=
  ⟨9, .copy 0 1, kind, 0, 1, 5, 0, 1, 0, 0x40000000, 0x20000, false, 16, 4, 0x2040, [1, 2, 3, 4], 5, 0, false, stage, 5⟩

/-- The copy base with that order at channel 0, and other entries in the window. -/
def orderBase (w : List Nat) (o : FarOrder) (win : List WinEnt) : State :=
  { modChan (copyBase (some { run w with fwd := 1 })) 0 (fun c => { c with orders := [o], win := win }) with arg := EvArg.of [0, 9] }

/-- The copy base with a line that has arrived. -/
def arrived : RunRec := { run loadRec with fwd := 1, done := [0], data := [(0, List.replicate (line0 loadRec).len 7)] }

theorem witness_FarOrders :
    (∃ w, let s := orderBase storeRec (order0 .write 0) []
      findOrder s (argN s 0) (argN s 1) = some (order0 .write 0) ∧ plainOrder s 0 (order0 .write 0) 0 ∧ windowHit s 0 (order0 .write 0) = false ∧
      lockedLine s 0x20000 0 5 = false ∧ enterWindow (getChan s 0).win (order0 .write 0) (recLines s 0 (order0 .write 0)) = some w) ∧
    (let s := orderBase loadRec (order0 .read 0) []
     findOrder s (argN s 0) (argN s 1) = some (order0 .read 0) ∧ plainOrder s 0 (order0 .read 0) 0 ∧ windowHit s 0 (order0 .read 0) = false) ∧
    (let s := orderBase loadRec (order0 .read 0) [⟨.copy 8 0, 3, false, [0x800]⟩]
     windowHit s 0 (order0 .read 0) = true ∧ (order0 .read 0).party = .copy 0 1 ∧
      runOf s 0 (chanIx 1) = some (⟨chain0 none, 0x800, some { run loadRec with fwd := 1 }⟩, { run loadRec with fwd := 1 }) ∧
      recKind { run loadRec with fwd := 1 } ≠ 2) ∧
    (plainOrder (orderBase storeRec (order0 .write 1) []) 0 (order0 .write 1) 1 ∧
      resending (orderBase storeRec (order0 .write 1) []) 0 (order0 .write 1) = false ∧ (∀ p k, (order0 .write 1).party ≠ .host p k) ∧
      plainOrder (orderBase loadRec (order0 .read 1) []) 0 (order0 .read 1) 1) ∧
    (let s := orderBase loadRec (order0 .read 2) []
     findOrder s (argN s 0) (argN s 1) = some (order0 .read 2) ∧ (order0 .read 2).stage = 2 ∧ resending s 0 (order0 .read 2) = false ∧
      (run loadRec).id = (order0 .read 2).rid) ∧
    (∃ l, runOf (copyBase (some arrived)) 0 1 = some (⟨chain0 none, 0x800, some arrived⟩, arrived) ∧ recKind arrived ≤ 1 ∧
      recDfar arrived = false ∧ recSfar arrived = true ∧ arrived.lines[arrived.moved]? = some l ∧
      arrived.data.find? (fun d => d.1 == arrived.moved) = some (0, List.replicate (line0 loadRec).len 7) ∧
      (List.replicate (line0 loadRec).len (7 : Byte)).length = l.len ∧ 0 < l.len ∧ onePiece 0 l ∧ arrived.tail = []) :=
  ⟨⟨_, by decide +kernel, by unfold plainOrder; decide +kernel, by decide +kernel, by decide +kernel, rfl⟩,
    ⟨by decide +kernel, by unfold plainOrder; decide +kernel, by decide +kernel⟩, by decide +kernel,
    ⟨by unfold plainOrder; decide +kernel, by decide +kernel, nofun, by unfold plainOrder; decide +kernel⟩, by decide +kernel,
    ⟨_, by decide +kernel, by decide +kernel, by decide +kernel, by decide +kernel, rfl, by decide +kernel, by decide +kernel, by decide +kernel,
      by unfold onePiece; decide +kernel, rfl⟩⟩

/-- An ATOMIC record that adds to the far doubleword at 0x40000010 with its operands at 0x2040, and the same with the old value there. -/
def atomRec : List Nat := recOf 3 false true 0x2040 0x40000010 0 0
def atomDone : RunRec := { run atomRec with fwd := 1, done := [0], data := [(0, List.replicate 8 7)] }

/-- Its order at the channel. -/
def atomOrder : FarOrder := { order0 .atomic 1 with off := 16, len := 8, near := 0x2040, data := List.replicate 16 1 }

theorem witness_AtomicRecords :
    (∃ l s1 pa, runOf (visit atomRec) 0 1 = some (⟨chain0 none, 0x800, some (run atomRec)⟩, run atomRec) ∧ recKind (run atomRec) = 3 ∧
      outstanding (run atomRec) < 64 ∧ (run atomRec).lines[(run atomRec).fwd]? = some l ∧ 0 < l.len ∧
      translate (visit atomRec) 0 0 1 (l.va + l.off) .atomic = .ok (s1, pa, false) ∧ poisonTrap s1 0 l.near 16 = none ∧
      (∀ e, entOfCtx s1 0 = some e → e.telig = false) ∧ (getCtx s1 0).run = 0) ∧
    (let s := orderBase atomRec atomOrder []
     findOrder s (argN s 0) (argN s 1) = some atomOrder ∧ plainOrder s 0 atomOrder 1 ∧ resending s 0 atomOrder = false ∧
      poisonedIn s (atomOrder.pa + atomOrder.off) atomOrder.len = none ∧
      runOf s atomOrder.core (chanIx atomOrder.k) = some (⟨chain0 none, 0x800, some { run atomRec with fwd := 1 }⟩, { run atomRec with fwd := 1 }) ∧
      64 = 8 * atomOrder.len ∧ amoNumber .add = bitsAt (atomRec.getD 6 0) 0 3) ∧
    (∃ l, runOf (copyBase (some atomDone)) 0 1 = some (⟨chain0 none, 0x800, some atomDone⟩, atomDone) ∧ recDfar atomDone = true ∧
      atomDone.lines = [l] ∧ atomDone.moved = 0 ∧ atomDone.data.find? (fun d => d.1 == 0) = some (0, List.replicate 8 7) ∧
      l.near + 8 < 2 ^ 32 ∧ sliceByte 0 l.near = false ∧ sliceByte 0 (l.near + 7) = false) :=
  ⟨⟨_, _, _, by decide +kernel, by decide +kernel, by decide +kernel, rfl, by decide +kernel, rfl, by decide +kernel, no_of (by decide +kernel),
      by decide +kernel⟩,
    ⟨by decide +kernel, by unfold plainOrder; decide +kernel, by decide +kernel⟩, ⟨_, by decide +kernel, by decide +kernel, rfl, by decide +kernel⟩⟩

/-- A PROGRAM record from far memory by loader 3. -/
def progRec : List Nat := recOf 2 true false 0x40000040 0x2040 256 (3 + 0x55 * 2 ^ 16)

/-- A memory-core context of die 0 that serves channel 1 of core 0, in a part with that record running. -/
def servBase (l : List Nat) (f : Serving → Serving) : State :=
  let s := modPart (copyBase (some (run progRec))) 0 (fun p => { p with loaders := [(3, 0x40000000)] })
  { putCtx s memBase { ctx0 with g := regs l, serving := some (f ⟨0, 1, 0, 1, 5, false, 0x40000040, 0x2040, 256, 0, [], [], false, none⟩) } with
    cur := memBase, arg := EvArg.of [memBase] }

/-- The same with a page of host memory, and one of device memory, in the translation cache. -/
def hostServBase : State := modDie (servBase [0x40000040] id) 0 (fun d => { d with
  tlb := [⟨0, 1, 0x40000000, 4096, 0x20000, true, true, false, true, true⟩] })

/-- An order of its record for the memory core. -/
def progOrder : FarOrder := { order0 .program 0 with va := 0x40000040, len := 256, near := 0x2040 }

theorem witness_MemoryPrograms :
    (let s := servBase [0x40000040] (fun v => { v with pending := [(0x40000048, [1, 2, 3, 4, 5, 6, 7, 8])] })
     let ea := (val s 1 + farOff 1 8).toNat
     Ready s 1 ∧ isMem s.cur = true ∧ ea < 2 ^ 48 ∧ ea % 8 = 0 ∧ List.length [(1 : Byte), 2, 3, 4, 5, 6, 7, 8] = 8 ∧
      (∃ v, (me s).serving = some v ∧ v.pending.find? (fun p => p.1 == ea) = some (0x40000048, [1, 2, 3, 4, 5, 6, 7, 8]))) ∧
    (∃ s1 pa, let s := servBase [0x40000040] id
      (me s).mode = .running ∧ translate s (dieOf s.cur) 0 (pidOf s s.cur) 0x40000048 .read = .ok (s1, pa, false) ∧ plainOwner s1 s.cur) ∧
    (∃ s1 pa, let s := servBase [0x40000040] id
      translate s (dieOf s.cur) 0 (pidOf s s.cur) 0x40000048 .write = .ok (s1, pa, false) ∧ plainOwner s1 s.cur ∧
      shadowLine s1 ((ownerOf s1 s.cur).getD s.cur) 0x40000040 = false) ∧
    (∃ s1 pa, let s := hostServBase
      translate s (dieOf s.cur) 0 (pidOf s s.cur) 0x40000048 .write = .ok (s1, pa, true) ∧ plainOwner s1 s.cur ∧
      shadowLine s1 ((ownerOf s1 s.cur).getD s.cur) 0x40000040 = false ∧ ∀ p, runOf s1 0 (chanIx 1) = some p → recKind p.2 = 2) ∧
    (orderFits ⟨0, 1, 0, 1, 5, false, 0x40000040, 0x2040, 256, 0, [], [], false, none⟩ 248 0x3FF8 8 ∧
      poisonedIn (servBase [] id) (stagingBase memBase + 0x3FF8) 8 = none ∧ poisonTrap (servBase [] id) 0 (0x2040 + 248) 8 = none) ∧
    (∃ v, (getCtx (servBase [] (fun v => { v with pushed := [(8, [1, 2])] })) (argN (servBase [] (fun v => { v with pushed := [(8, [1, 2])] })) 0)).serving = some v ∧
      v.pushed = (8, [1, 2]) :: [] ∧ (run progRec).tail = [] ∧ ∀ i, i ≤ 2 → phys 0 (firstNear progRec + 8 + i) = phys 0 (firstNear progRec + 8) + i) ∧
    (let s := { modChan (servBase [] id) 0 (fun c => { c with orders := [progOrder] }) with arg := EvArg.of [0, 9] }
     findOrder s (argN s 0) (argN s 1) = some progOrder ∧ progOrder.kind = .program ∧
      freeMemCtx s (argN s 0) progOrder.part = some (memBase + 1) ∧ (run progRec).id = progOrder.rid) ∧
    (∃ v, (getCtx (servBase [] (fun v => { v with retired := 576 })) memBase).serving = some v ∧ v.halted = false ∧ programLimit v ≤ v.retired) :=
  ⟨⟨ready_of (by decide +kernel), by decide +kernel, by decide +kernel, by decide +kernel, rfl, _, rfl, rfl⟩,
    ⟨_, _, by decide +kernel, rfl, some_of (a := 0) (by decide +kernel) (no_of (by decide +kernel))⟩,
    ⟨_, _, rfl, some_of (a := 0) (by decide +kernel) (no_of (by decide +kernel)), by decide +kernel⟩,
    ⟨_, _, rfl, some_of (a := 0) (by decide +kernel) (no_of (by decide +kernel)), by decide +kernel, some_of rfl (by decide +kernel)⟩,
    ⟨by unfold orderFits; decide, by decide +kernel⟩, ⟨_, rfl, rfl, rfl, by decide +kernel⟩, by decide +kernel,
    ⟨_, rfl, rfl, by decide +kernel⟩⟩

end Sys2Proof.Tests
end

