-- ==== Sys2Proof/Tests/WitnessG.lean ====
section
/-! SUPPORT. For each statement about the Drover, deadlines and pre-emption, a state and operands that meet its hypotheses. -/

namespace Sys2Proof.Tests

open Sys2Proof.Machine Sys2Proof.Claims

set_option maxRecDepth 100000
set_option Elab.async false

/-- WIN: the frame at offset 0x8000 of a window of 4,096 bytes there; PLACE: any core of the first two clusters. -/
def win0 : Nat := 0x8000 + 0x8000 / 128 * 2 ^ 18 + 32 * 2 ^ 29
def place0 : Nat := 255 + 2 * 2 ^ 16

/-- A continuation record of code 0x40000000 with counter 10, BUDGET 1,000 and SLACK 1,000,000. -/
def record0 : List Nat := [0x40000000 + 10 * 2 ^ 48, 1000 * 2 ^ 32 + 1000000, win0, place0]

/-- The base with that record at 0x400 of local memory, its result slot at 0x500. -/
def spawnBase : State := rawWrite (baseR [0x400 + 0x500 * 2 ^ 32, 0, 0x40000040, 0x500]) (localBase 0 + 0x400) (record0.flatMap (leBytes 8))

/-- The same with the Drover's queue full. -/
def fullBase : State := modDie spawnBase 0 (fun d => { d with reqs := [bareReq 2, bareReq 0, bareReq 0] })

/-- The base with a budx decided for g1's amount. -/
def budxBase (b : Option (Nat × Option Nat)) : State := baseC (fun x => { x with g := regs [50], budx := b })

theorem exempt_of {s : State} (h : isMem s.cur = false ∧ flockOf s s.cur = [] ∧ wBits (me s).st 3 1 = 0 ∧ meterFull (me s) = false ∧
    (me s).serving = none) : Exempt s :=
  ⟨h.1, h.2.1, h.2.2.1, h.2.2.2.1, h.2.2.2.2⟩

theorem witness_TaskCommands :
    (ReadyCompute spawnBase 4 ∧ droverFull spawnBase (dieOf spawnBase.cur) = false ∧ val spawnBase 2 = 0 ∧
      (let lo := (val spawnBase 1).toNat
       let w := nearWords (drain spawnBase 0) 0 (lo % 2 ^ 32) 4
       droverRanges spawnBase 0 lo 0 [(⟨lo % 2 ^ 32, 32, false, .any, lo % 2 ^ 32⟩, 32), (⟨lo / 2 ^ 32, 8, true, .any, lo / 2 ^ 32⟩, 8)] = none ∧
       poisonTrap (drain spawnBase 0) 0 (lo % 2 ^ 32) 32 = none ∧ recordOk w = true ∧ pTelig (w.getD 3 0) = false) ∧
      (me spawnBase).tok[(2 : Fin 8)].vis + 1 < 2 ^ 20) ∧
    (ReadyCompute spawnBase 8 ∧ (val spawnBase 3).toNat < 2 ^ 48 ∧ (val spawnBase 3).toNat % 64 = 0 ∧ (val spawnBase 4).toNat < 2 ^ 32 ∧
      droverRanges spawnBase 0 (val spawnBase 3).toNat (val spawnBase 4).toNat [(⟨(val spawnBase 4).toNat, 8, true, .any, (val spawnBase 4).toNat⟩, 8)] = none) ∧
    (ReadyCompute fullBase 8 ∧ droverFull fullBase (dieOf fullBase.cur) = true) ∧
    (Exempt (budxBase none) ∧ leaderOf (budxBase none) (budxBase none).cur = (budxBase none).cur ∧ 0 < (val (budxBase none) 1).toNat ∧
      (val (budxBase none) 1).toNat < 2 ^ 32 ∧ (me (budxBase none)).budx = none) ∧
    (Exempt (budxBase (some (50, some 3))) ∧ (me (budxBase (some (50, some 3)))).budx = some ((val (budxBase (some (50, some 3))) 1).toNat, some 3)) ∧
    (membersOf base 0 = [0]) ∧
    oldest { modDie base 0 (fun d => { d with reqs := [{ bareReq 2 with n := 50 }] }) with arg := EvArg.of [0] } 2 { bareReq 2 with n := 50 } :=
  ⟨⟨readyC_of (by decide +kernel) (by decide +kernel), by decide +kernel⟩, ⟨readyC_of (by decide +kernel) (by decide +kernel), by decide +kernel⟩,
    ⟨readyC_of (by decide +kernel) (by decide +kernel), by decide +kernel⟩,
    ⟨exempt_of (by decide +kernel), by decide +kernel⟩,
    ⟨exempt_of (by decide +kernel), by decide +kernel⟩, by decide +kernel,
    by unfold oldest; decide +kernel⟩

/-- A request whose oldest is `r`, with a page of far memory. -/
def reqBase (r : DReq) : State :=
  { modDie base 0 (fun d => { d with reqs := [r] }) with
    mem := memWrite (memWrite (placeTables []) 0x13000 (leBytes 8 0x2011F)) 0x20040
      (([0x40000000 + 10 * 2 ^ 48, 0x40000080 + 64 * 2 ^ 48, 10 + 2 * 2 ^ 32, 1000000 + 100 * 2 ^ 32, win0, place0, 0, 0] : List Nat).flatMap (leBytes 8))
    arg := EvArg.of [0] }

/-- Spawn, card and launch requests. -/
def spawnReq : DReq := { bareReq 0 with pid := 1, words := record0, res := 0x500, tok := 2 }
def cardReq : DReq := { bareReq 1 with pid := 1, far := 0x40000040, res := 0x500, tok := 2, win := win0, place := place0 }
def launchReq : DReq := { bareReq 3 with pid := 1, words := record0, n := 1, launch := some ⟨0, 0, 0, 7⟩ }

/-- A card entry of 20 records of 64 bytes. -/
def cardEnt : Entry :=
  { recordEntry 0 1 3 record0 with tag := 9, order := 4, state := .ready, card := some ⟨0x40000080, 64, 2, 100, 0, 20, 0, 77, []⟩ }

/-- A die with that card, to be dealt; and a chunk task whose records are being pushed to context 4. -/
def dealBase : State := { modDie (reqBase spawnReq) 0 (fun d => { d with entries := [cardEnt], nextOrder := 5 }) with arg := EvArg.of [0, 77] }
def chunkEnt : Entry := { recordEntry 0 1 3 record0 with
  tag := 9, order := 4, state := .pushing, members := [4], g2 := 0x8000, argSrc := 0x40000080, argLen := 128 }
def pushBase : State :=
  { putCtx (modDie (reqBase spawnReq) 0 (fun d => { d with entries := [chunkEnt], nextOrder := 5 })) 4 { ctx0 with mode := .loading } with
    arg := EvArg.of [0, 9] }

theorem witness_DroverDecisions :
    oldest (reqBase spawnReq) 0 spawnReq ∧
    (∃ s1 w k, oldest (reqBase cardReq) 1 cardReq ∧ readCard (reqBase cardReq) 0 0 1 5 0x40000040 1 = .words s1 w ∧
      ({ cardEntry 0 1 0 win0 place0 s1.nextId w with startView := ([] : View) }).telig = false ∧
      ({ cardEntry 0 1 0 win0 place0 s1.nextId w with startView := ([] : View) }).card = some k) ∧
    (oldest (reqBase launchReq) 3 launchReq ∧ launchReq.n = 1) ∧
    0 < (getCtx (baseC (fun x => { x with tok := x.tok.set 2 ⟨0, 1, 0, none⟩ })) spawnReq.ctx).tok[tokIx spawnReq.tok].vis ∧
    ((getDie base 0).entries.length ≤ 8192 ∧ (recordEntry 0 1 3 record0).wait = 0 ∧ (recordEntry 0 1 3 record0).telig = false ∧
      (recordEntry 0 1 3 record0).card = none) ∧
    (∃ k core, (getDie dealBase 0).entries.find? (fun e => match e.card with | some k => k.id == argN dealBase 1 | none => false) = some cardEnt ∧
      cardEnt.card = some k ∧ (getDie dealBase 0).entries.length ≤ 8192 ∧
      (∀ f ∈ (getDie dealBase 0).entries, f.order < (getDie dealBase 0).nextOrder) ∧ placeable dealBase 0 cardEnt ∧
      (tableFull dealBase 0 = true → chunkSize cardEnt k (entCores dealBase 0 cardEnt).length = k.remaining) ∧
      findGroup dealBase 0 cardEnt = some core ∧ gatedGroup dealBase core = false ∧ cardEnt.telig = false ∧ cardEnt.rootReq = none ∧
      cardEnt.saved = [] ∧ cardEnt.flw = 0 ∧ 0 < k.remaining ∧ 0 < k.rsize ∧ 0 < k.minChunk ∧ 0 < capRec cardEnt k.rsize) ∧
    (∃ s1 bs, entByTag pushBase (argN pushBase 0) (argN pushBase 1) = some chunkEnt ∧ chunkEnt.transit.runCtx = none ∧ chunkEnt.members = [4] ∧
      (getCtx pushBase 4).mode = .loading ∧ isWhistled pushBase chunkEnt.part = false ∧ chunkEnt.state = .pushing ∧
      giving pushBase (coreOf 4) = false ∧ pushRead pushBase (dieOf 4) 0 1 9 (chunkEnt.argLen / 64 + 2) chunkEnt.argSrc chunkEnt.argLen = .ok (s1, bs)) :=
  ⟨by unfold oldest; decide +kernel, ⟨_, _, _, by unfold oldest; decide +kernel, rfl, by decide +kernel, rfl⟩,
    ⟨by unfold oldest; decide +kernel, by decide⟩, by decide +kernel, by decide +kernel,
    ⟨_, _, by decide +kernel, rfl, by decide +kernel, by decide +kernel, by unfold placeable; decide +kernel, by decide +kernel, rfl, by decide +kernel⟩,
    ⟨_, _, by decide +kernel, by decide +kernel, by decide +kernel, by decide +kernel, by decide +kernel, by decide +kernel, by decide +kernel, rfl⟩⟩

/-- A task's entry, ready, and placed on context 0. -/
def readyEnt : Entry := { recordEntry 0 1 3 record0 with tag := 9, order := 4, state := .ready, deadline := 1000000 }
def placedEnt : Entry := { readyEnt with state := .placed, members := [0] }

/-- A die with one entry and the event argument given. -/
def entBase (e : Entry) (f : Ctx → Ctx) (ns : List Nat) : State :=
  { modDie (baseC (fun x => f { x with lwin := 0x0000100000000000 })) 0 (fun d => { d with entries := [e], nextOrder := 5 }) with arg := EvArg.of ns }

/-- A die with a signal for counter 10, on which the task of tag 9 is parked. -/
def signalBase (v : Int) : State :=
  let s := entBase { readyEnt with state := .parked, wait := 10 } id [0, 10]
  modDie (putCtr s 0 10 { Counter.reset with value := v, parked := [9] }) 0 (fun d => { d with signals := [⟨10, false, false, []⟩] })

theorem witness_TasksRun :
    ((getDie (signalBase 1) 0).signals.find? (fun g => g.ctr == argN (signalBase 1) 1) = some ⟨10, false, false, []⟩ ∧
      (counterStep (getCtr (signalBase 1) 0 10) ⟨10, false, false, []⟩).value = 0 ∧
      (counterStep (getCtr (signalBase 2) 0 10) ⟨10, false, false, []⟩).value ≠ 0) ∧
    (∃ core c, let s := entBase readyEnt id [0, 9]
      entByTag s (argN s 0) (argN s 1) = some readyEnt ∧ readyEnt.state = .ready ∧ placeable s 0 readyEnt ∧ findGroup s 0 readyEnt = some core ∧
      plainTask s readyEnt core ∧ (freeCtxs s readyEnt.order core).head? = some c) ∧
    (let s := entBase placedEnt (fun x => { x with mode := .halted }) [0]
     isMem (argN s 0) = false ∧ engineWork s 0 = false ∧ (getCtx s 0).mode = .halted ∧ soleEntry s 0 placedEnt ∧ placedEnt.rootReq = none ∧
      placedEnt.transit.phase ≠ 1 ∧ (getCtx s 0).successor = 0) :=
  ⟨by decide +kernel, ⟨_, _, by decide +kernel, by decide +kernel, by unfold placeable; decide +kernel, rfl, by unfold plainTask; decide +kernel, rfl⟩,
    by decide +kernel, by decide +kernel, by decide +kernel, by unfold soleEntry; decide +kernel, by decide +kernel⟩

theorem witness_DeadlinesAndRevocation :
    (let s := modDie (entBase { readyEnt with deadline := 5 } id [0, 4]) 0 (fun d => { d with counter := 5 })
     (getDie s 0).entries.find? (fun e => e.order == argN s 1) = some { readyEnt with deadline := 5 } ∧ readyEnt.transit.runCtx = none ∧
      readyEnt.state ≠ .waiting ∧ holdsPlace readyEnt = true ∧ entDeadline s { readyEnt with deadline := 5 } ≤ (getDie s 0).counter) ∧
    (∃ p, let s := entBase readyEnt id [0, 0]
      getPart? s (argN s 1) = some p ∧ min (minimumOf p 0) (partCores s 0 0).length ≠ 0 ∧
      sumsFail (getDie s 0).counter (min (minimumOf p 0) (partCores s 0 0).length) 0 (demands s 0 0 (2 ^ 64)) 0 = false) ∧
    (∃ p, let s := entBase { readyEnt with deadline := 5 } id [0, 0]
      let k := min (minimumOf p 0) (partCores s 0 0).length
      getPart? s (argN s 1) = some p ∧ k ≠ 0 ∧ sumsFail (getDie s 0).counter k 0 (demands s 0 0 (2 ^ 64)) 0 = true ∧
      (∀ f ∈ (getDie s 0).entries, f = { readyEnt with deadline := 5 }) ∧ holdsPlace { readyEnt with deadline := 5 } = true ∧
      sumsFail 0 k 0 (demands (revokeEnt s 0 { readyEnt with deadline := 5 }) 0 0 (2 ^ 64)) 0 = false) ∧
    (∃ p, let s := modPart (entBase readyEnt id [0, 0]) 0 (fun p => { p with minG := [(0, 0)] })
      getPart? s (argN s 1) = some p ∧ min (minimumOf p 0) (partCores s 0 0).length = 0) :=
  ⟨by decide +kernel, ⟨_, rfl, by decide +kernel⟩, ⟨_, rfl, by decide +kernel⟩, ⟨_, rfl, by decide +kernel⟩⟩

/-- A saved task. -/
def savedCtx : SavedCtx := ⟨{ ctx0 with mode := .loading, lwin := 0x0000100000008000, g := regs [1, 2, 3] }, [(0x8000, 7)], [], [], 0⟩

theorem witness_Preemption :
    (let e : Entry := { placedEnt with state := .asked }
     let s := entBase e id [0]
     soleEntry s 0 e ∧ e.state = .asked ∧ (getCtx s 0).mode = .running) ∧
    (let s := entBase placedEnt (fun x => { x with mode := .stopping, window := some 0 }) [0]
     isMem 0 = false ∧ soleEntry s 0 placedEnt ∧ (getCtx s 0).mode = .stopping ∧ (getCtx s 0).window = some 0 ∧ 0 ≤ dieCounter s 0 ∧
      budxDue s 0 = false) ∧
    (ReadyCompute (baseR [0xFFF, 0xFF]) 1 ∧ leaderOf (baseR [0xFFF, 0xFF]) 0 = 0 ∧ (val (baseR [0xFFF, 0xFF]) 1).toNat < 2 ^ 48) ∧
    (let s := entBase placedEnt (fun x => { x with mode := .saving }) [0]
     soleEntry s 0 placedEnt ∧ (getCtx s 0).mode = .saving ∧ engineWork s 0 = false ∧ (getCtx s 0).halted = false ∧ isMem 0 = false ∧ poisonedSave s 0 = none) ∧
    (let e : Entry := { placedEnt with state := .restoring, saved := [savedCtx] }
     let s := entBase e (fun x => { x with mode := .loading }) [0]
     soleEntry s 0 e ∧ e.saved = [savedCtx] ∧ e.state = .restoring ∧ (getCtx s 0).mode = .loading ∧ isWhistled s e.part = false ∧
      savedCtx.ctx.halted = false ∧ giving s 0 = false) ∧
    (0 ∈ partCtxs base 0 ∧ isMem 0 = false ∧ issuing (getCtx base 0).mode = true ∧ budxDue base 0 = false) ∧
    (∃ p, let s := modCtx (whistleStop base 0 none) 0 (fun x => { x with settledAt := 1 })
      getPart? s (argN s 0) = some p ∧ p.whistled = true ∧ p.settled = false ∧ p.spared = none ∧
      ∀ c ∈ partCtxs s (argN s 0), (getCtx s c).mode = .free ∨
        ((getCtx s c).mode = .whistled ∧ engineWork s c = false ∧ (getCtx s c).settledAt ≠ 0)) :=
  ⟨⟨by unfold soleEntry; decide +kernel, by decide +kernel⟩, ⟨by decide +kernel, by unfold soleEntry; decide +kernel, by decide +kernel⟩,
    ⟨readyC_of (by decide +kernel) (by decide +kernel), by decide +kernel⟩, ⟨by unfold soleEntry; decide +kernel, by decide +kernel⟩,
    ⟨by unfold soleEntry; decide +kernel, by decide +kernel⟩, by decide +kernel, ⟨_, rfl, by decide +kernel⟩⟩

end Sys2Proof.Tests
end

