-- ==== Sys2Proof/Tests/WitnessH.lean ====
section
/-! SUPPORT. For each statement about seals, scans, errors, replays, hypervisor calls and translator runs, a state and operands that
meet its hypotheses. -/

namespace Sys2Proof.Tests

open Sys2Proof.Machine Sys2Proof.Claims

set_option maxRecDepth 100000
set_option Elab.async false

/-- A state of the base with an event's argument. -/
def evArg (s : State) (ns : List Nat) : State := { s with arg := EvArg.of ns }

/-- A supervisor whose g1 names core 1, sealed in the second; a core under scan, with a tag of its partition in its taint list. -/
def scanBase : State := baseS [1]
def sealedBase : State := modCore scanBase 1 (fun k => { k with sealed := true })
def coreBase (f : CoreSt → CoreSt) (ns : List Nat) : State :=
  modDie (modCore (evArg base ns) 1 f) 0 (fun d => { d with tagParts := [(9, 0)] })

/-- The clusters of die 0, one taken by the rotation. -/
def rotBase (b : Bool) : State := evArg (modCluster base 1 (fun k => { k with rotating := b })) [0]

/-- No cluster of the part has a home context in place. -/
theorem homes_none (f : CoreSt → CoreSt) (ns : List Nat) (cl : Nat) : (getCluster (coreBase f ns) cl).homes = [] := by
  show ((Tab.get? [(0, _), (1, _)] cl).getD ClusterSt.reset).homes = []
  simp only [Tab.get?]
  split
  · rfl
  · split <;> rfl

theorem witness_SealAndScan :
    (Ready scanBase 1 ∧ 1 ≤ privOf (me scanBase) ∧ namedCore scanBase scanBase.cur (val scanBase 1) = some 1 ∧
      partOf scanBase scanBase.cur = some 0 ∧ 1 ≠ coreOf scanBase.cur ∧ (getCore scanBase 1).sealed = false ∧
      (getCore scanBase 1).fold = .service) ∧
    (Ready sealedBase 1 ∧ 1 ≤ privOf (me sealedBase) ∧ namedCore sealedBase sealedBase.cur (val sealedBase 1) = some 1 ∧
      (getCore sealedBase 1).sealed = true ∧ (getCore sealedBase 1).fold = .service ∧ (getCore sealedBase 1).errScan = false ∧
      (getCore sealedBase 1).scan ≠ 1 ∧ coreEmpty sealedBase 1) ∧
    ReadyCompute base 1 ∧
    (let s := coreBase (fun k => { k with fold := .drain }) [1]
     (getCore s (argN s 0)).fold = .drain) ∧
    (let s := coreBase (fun k => { k with scan := 1, taint := [9] }) [1, 0]
     isMem (argN s 0) = false ∧ (getCore s (argN s 0)).scan = 1 ∧ argN s 1 = 0 ∧ ∀ cl, (getCluster s cl).homes = []) ∧
    (∃ q, let s := coreBase (fun k => { k with scan := 1, taint := [9] }) [1, 1]
      isMem (argN s 0) = false ∧ (getCore s (argN s 0)).scan = 1 ∧ argN s 1 ≠ 0 ∧ s.parts = [(0, q)] ∧ (getCore s 1).taint ≠ [] ∧
      (getCore s 1).taint.length ≤ 24 ∧ (∀ tag ∈ (getCore s 1).taint, partOfTag s tag = some 0) ∧ (getCore s 1).taintOvf = false ∧
      (faultsOf q (dieOfCore 1)).length < 256 ∧ ∀ cl, (getCluster s cl).homes = []) ∧
    rotatingOf (rotBase false) (argN (rotBase false) 0) = [] ∧
    (rotatingOf (rotBase true) (argN (rotBase true) 0) = [1] ∧ (getDie (rotBase true) 0).rotCores = [] ∧ 1 % 8 ≠ 0 ∧
      (∀ core ∈ coresOf 1, coreEmpty (rotBase true) core) ∧ rotationCores (rotBase true) 1 ≠ []) :=
  ⟨⟨ready_of (by decide +kernel), by decide +kernel⟩, ⟨ready_of (by decide +kernel), by unfold coreEmpty; decide +kernel⟩,
    readyC_of (by decide +kernel) (by decide +kernel), by decide +kernel,
    ⟨by decide +kernel, by decide +kernel, by decide +kernel, homes_none _ _⟩,
    ⟨_, by decide +kernel, by decide +kernel, by decide +kernel, rfl, by decide +kernel, by decide +kernel, by decide +kernel,
      by decide +kernel, by decide +kernel, homes_none _ _⟩,
    by decide +kernel, by unfold coreEmpty; decide +kernel⟩

/-- A placed task on context 0 of which an error is met in a kind of storage. -/
def errBase (kind addr : Nat) : State := entBase placedEnt id [0, kind, addr]

/-- A channel with a transfer to be sent again, or after its fourth attempt. -/
def busBase (n : Nat) (lane : Nat) : State := evArg (modChan base 3 (fun k => { k with resend := some (77, 2, n) })) [3, 77, 2, lane]

theorem witness_UncorrectableErrors :
    (let s := evArg base [0, 5, 0x40000040, 1, 3]
     argN s 3 = 1 ∧ argN s 1 = 5 ∧ argN s 2 < 2 ^ 39) ∧
    argN (evArg base [0, 1, 0x100, 2]) 3 = 2 ∧
    (∃ q, let s := evArg base [0, 6, 0x100, 0, 0]
      argN s 3 = 0 ∧ argN s 1 = 6 ∧ argN s 4 = 0 ∧ partOf s (argN s 0) = some 0 ∧ getPart? s 0 = some q ∧ (faultsOf q (dieOf 0)).length < 256) ∧
    (∃ q, let s := errBase 1 0x100
      isMem (argN s 0) = false ∧ argN s 3 = 0 ∧ argN s 1 ≠ 6 ∧ (getCtx s 0).mode ≠ .free ∧ partOf s 0 = some 0 ∧ getPart? s 0 = some q ∧
      (faultsOf q (dieOf 0)).length < 256 ∧ errorLevel 1 true = 1) ∧
    (∃ q, let s := errBase 2 0x100000
      isMem (argN s 0) = false ∧ argN s 3 = 0 ∧ argN s 1 ≠ 6 ∧ (getCtx s 0).mode ≠ .free ∧ partOf s 0 = some 0 ∧ getPart? s 0 = some q ∧
      (faultsOf q (dieOf 0)).length < 256 ∧ errorLevel 2 true = 2 ∧ (getCtx s 0).run = 0 ∧ entOfCtx s 0 = some placedEnt ∧
      compared placedEnt = false ∧ placedEnt.transit.runCtx ≠ some 0) ∧
    (let s := evArg base [8, 1, 0x100]
     isMem (argN s 0) = false ∧ argN s 3 = 0 ∧ argN s 1 ≠ 6 ∧ (getCtx s (argN s 0)).mode = .free) ∧
    (let s := evArg base [0, 5, 0x40000040, 4]
     argN s 3 = 4 ∧ argN s 2 < 2 ^ 39) ∧ (getChan base 3).resend = none ∧
    ((getChan (busBase 1 0) (argN (busBase 1 0) 0)).resend = some (argN (busBase 1 0) 1, argN (busBase 1 0) 2 % 8, 1)) ∧
    ((getChan (busBase 4 17) (argN (busBase 4 17) 0)).resend = some (argN (busBase 4 17) 1, argN (busBase 4 17) 2 % 8, 4) ∧
      argN (busBase 4 17) 3 / 8 = argN (busBase 4 17) 2 % 8 ∧ (getChan (busBase 4 17) 3).spares.length < 2) :=
  ⟨by decide +kernel, by decide +kernel, ⟨_, by decide +kernel, by decide +kernel, by decide +kernel, by decide +kernel, rfl, by decide +kernel⟩,
    ⟨_, by decide +kernel, by decide +kernel, by decide +kernel, by decide +kernel, by decide +kernel, rfl, by decide +kernel⟩,
    ⟨_, by decide +kernel, by decide +kernel, by decide +kernel, by decide +kernel, by decide +kernel, rfl, by decide +kernel⟩, by decide +kernel⟩

/-- A task whose original run is compared, and one that waits for its replay. -/
def lockedEnt : Entry := { placedEnt with telig := true, transit := { placedEnt.transit with phase := 1, admitted := 0, locks := [] } }
def waitingEnt : Entry :=
  { readyEnt with telig := true, state := .waiting, transit := { placedEnt.transit with phase := 2, finalCharge := 500, cores := [0] } }
def thirdEnt : Entry := { waitingEnt with transit := { waitingEnt.transit with phase := 6, cores := [0, 1] } }
def lockedBase : State := modDie (entBase lockedEnt id [0, 9]) 0 (fun d => { d with counter := 20000000 })

theorem witness_Replays :
    (entByTag lockedBase (argN lockedBase 0) (argN lockedBase 1) = some lockedEnt ∧ lockedEnt.transit.phase = 1 ∧
      lockedEnt.transit.admitted + Config.lockAge ≤ (getDie lockedBase 0).counter) ∧
    (∃ core c rest, let s := entBase waitingEnt id [0, 9]
      entByTag s (argN s 0) (argN s 1) = some waitingEnt ∧ waitingEnt.transit.phase = 2 ∧ waitingEnt.saved = [] ∧ waitingEnt.argLen = 0 ∧
      waitingEnt.rootReq = none ∧ isWhistled s waitingEnt.part = false ∧
      (∀ f ∈ (getDie s 0).entries, ¬(runWaits f = true ∧ f.transit.phase = 2 ∧ f.saved = [] ∧ f.transit.seq < waitingEnt.transit.seq)) ∧
      runChoice s waitingEnt false = some core ∧ gatedGroup s core = false ∧ freeCtxs s (2 ^ 64) core = c :: rest) ∧
    (∃ core c rest, let s := entBase thirdEnt id [0, 9]
      entByTag s (argN s 0) (argN s 1) = some thirdEnt ∧ thirdEnt.transit.phase = 6 ∧ thirdEnt.saved = [] ∧ thirdEnt.argLen = 0 ∧
      thirdEnt.rootReq = none ∧ isWhistled s thirdEnt.part = false ∧
      (∀ f ∈ (getDie s 0).entries, ¬(runWaits f = true ∧ f.transit.phase = 6 ∧ f.saved = [] ∧ f.transit.seq < thirdEnt.transit.seq)) ∧
      runChoice s thirdEnt false = some core ∧ gatedGroup s core = false ∧ freeCtxs s (2 ^ 64) core = c :: rest) :=
  ⟨by decide +kernel, ⟨_, _, _, by decide +kernel, by decide +kernel, by decide +kernel, by decide +kernel, by decide +kernel,
    by decide +kernel, by decide +kernel, rfl, by decide +kernel, rfl⟩, ⟨_, _, _, by decide +kernel, by decide +kernel, by decide +kernel,
    by decide +kernel, by decide +kernel, by decide +kernel, by decide +kernel, rfl, by decide +kernel, rfl⟩⟩

/-- A task in its replay (1) or third run (2) in context 0, which has halted, with these digests and failures, and its original on core 1. -/
def ranEnt (run : Nat) (d : List Nat) (failed : List Bool) : Entry :=
  { waitingEnt with transit := { waitingEnt.transit with phase := run + 2, runCtx := some 0, d := d, failed := failed, conf := true
                                                         cores := if run = 1 then [1, 0] else [1, 2, 0] } }
def ranBase (run : Nat) (e : Entry) : State := entBase e (fun x => { x with mode := .halted, run := run, deadline := 100 }) [0]


theorem witness_ReplayOutcomes :
    (runEnded (ranBase 1 (ranEnt 1 [7, 7, 0] [false, false, false])) 0 1 (ranEnt 1 [7, 7, 0] [false, false, false]) ∧
      runCore (ranEnt 1 [7, 7, 0] [false, false, false]) 0 ≠ runCore (ranEnt 1 [7, 7, 0] [false, false, false]) 1) ∧
    (runEnded (ranBase 1 (ranEnt 1 [7, 8, 0] [false, false, false])) 0 1 (ranEnt 1 [7, 8, 0] [false, false, false]) ∧
      runEnded (ranBase 1 (ranEnt 1 [7, 7, 0] [false, true, false])) 0 1 (ranEnt 1 [7, 7, 0] [false, true, false])) ∧
    (∀ d ∈ [[7, 8, 7], [7, 8, 8], [7, 8, 9]], ∃ p, let e := ranEnt 2 d [false, false, false]
      runEnded (ranBase 2 e) 0 2 e ∧ e.transit.cores = [runCore e 0, runCore e 1, runCore e 2] ∧
      [runCore e 0, runCore e 1, runCore e 2].Nodup ∧ getPart? (ranBase 2 e) e.part = some p ∧ (faultsOf p (homeDie (ranBase 2 e) 0)).length < 256) ∧
    (∃ s1 pa, translate { base with mem := memWrite (placeTables []) 0x13000 (leBytes 8 0x2011F) } 0 0 1 0x40000000 .write = .ok (s1, pa, false)) := by
  refine ⟨⟨by unfold runEnded; decide +kernel, by decide⟩, ⟨by unfold runEnded; decide +kernel, by unfold runEnded; decide +kernel⟩, ?_, ⟨_, _, rfl⟩⟩
  simp only [List.forall_mem_cons, List.not_mem_nil, false_implies, implies_true, and_true]
  exact ⟨⟨_, by unfold runEnded; decide +kernel, by decide, by decide, rfl, by decide +kernel⟩,
    ⟨_, by unfold runEnded; decide +kernel, by decide, by decide, rfl, by decide +kernel⟩,
    ⟨_, by unfold runEnded; decide +kernel, by decide, by decide, rfl, by decide +kernel⟩⟩

/-- A supervisor that calls: the argument in g1, its reply slot in cluster memory, named by g2; and one whose pc holds the word of an
hcall of code 40, which has no row. -/
def callBase : State := baseS [0, 0x100400]
def reservedBase : State :=
  { baseC (fun x => { x with g := regs [0, 0x100400], st := 1, pc := 0x40000000 }) with
    mem := memWrite (memWrite (placeTables []) 0x13000 (leBytes 8 0x2011B)) 0x20000 (leBytes 4 0xA4225028) }

theorem callable_of {s : State} {slot : Word} (h : 1 ≤ privOf (me s) ∧ slotCheck (me s) s.cur slot.toNat = none ∧
    ∀ m ∈ membersOf s s.cur, (getCtx s m).hcallOut = false) : Callable s slot :=
  ⟨h.1, h.2.1, h.2.2⟩

theorem witness_HypervisorCalls :
    (hcalls (.hcallIdentity 1 2) = some (30, 1, 2) ∧ Ready callBase 1 ∧ bodyEnds (me callBase) (me callBase).pc.toNat = false ∧ Callable callBase (val callBase 2)) ∧
    (wordHere reservedBase = 0xA4225028 ∧ decodeWord 0xA4225028 false = .ok .hcall ∧ Ready reservedBase 1 ∧
      bodyEnds (me reservedBase) (me reservedBase).pc.toNat = false ∧ regField 0xA4225028 16 = 2 ∧
      Callable reservedBase (val reservedBase 2)) ∧
    (1 ≤ privOf (me callBase) ∧ slotArea (me callBase) callBase.cur (val callBase 1).toNat 16 = true ∧
      slotArea (me (baseS [0, 0x7000000])) 0 (val (baseS [0, 0x7000000]) 2).toNat 16 = false) ∧
    (slotArea (me (baseS [0, 0x100408])) 0 (val (baseS [0, 0x100408]) 2).toNat 16 = true ∧ (val (baseS [0, 0x100408]) 2).toNat % 16 ≠ 0) ∧
    (let s := modCtx callBase 0 (fun x => { x with hcallOut := true })
     0 ∈ membersOf s s.cur ∧ slotCheck (me s) s.cur (val s 2).toNat = none ∧ (getCtx s 0).hcallOut = true) :=
  ⟨⟨rfl, ready_of (by decide +kernel), by decide +kernel, callable_of (by decide +kernel)⟩,
    ⟨by decide +kernel, by decide +kernel, ready_of (by decide +kernel), by decide +kernel, by decide +kernel,
      callable_of (by decide +kernel)⟩, by decide +kernel⟩

/-- A request of context 0 at a stage. -/
def req0 (code arg stage : Nat) : HReq :=
  { bareHReq 7 code arg 0x100400 0 with tag := 5, part := 0, pid := 1, stage := stage }
def hvBase (r : HReq) : State := { evArg base [7] with hreqs := [r] }

theorem witness_HypervisorServices :
    requestAt (hvBase (req0 99 0 0)) (req0 99 0 0) 0 ∧ requestAt (hvBase (req0 18 0 0)) (req0 18 0 0) 0 ∧
    (∃ p, requestAt (hvBase (req0 19 0 0)) (req0 19 0 0) 0 ∧ getPart? (hvBase (req0 19 0 0)) 0 = some p) ∧
    (∃ p, requestAt (hvBase (req0 22 0 0)) (req0 22 0 0) 0 ∧ getPart? (hvBase (req0 22 0 0)) 0 = some p ∧ bitsAt 0 34 29 = 0) ∧
    (∃ p, requestAt (hvBase (req0 19 1 0)) (req0 19 1 0) 0 ∧ getPart? (hvBase (req0 19 1 0)) 0 = some p) ∧
    (∃ p, requestAt (hvBase (req0 22 65537 0)) (req0 22 65537 0) 0 ∧ getPart? (hvBase (req0 22 65537 0)) 0 = some p ∧ 65536 < 65537 % 2 ^ 17) ∧
    (∃ p, requestAt (hvBase (req0 23 0 0)) (req0 23 0 0) 0 ∧ getPart? (hvBase (req0 23 0 0)) 0 = some p) ∧
    requestAt (hvBase (req0 24 1 0)) (req0 24 1 0) 0 ∧ requestAt (hvBase (req0 25 9 0)) (req0 25 9 0) 0 ∧
    (∃ p, requestAt (hvBase (req0 30 0 2)) (req0 30 0 2) 2 ∧ reqAddr (hvBase (req0 30 0 2)) (req0 30 0 2) 0x100400 = some (some p)) ∧
    (∃ p, requestAt (hvBase (req0 30 0 3)) (req0 30 0 3) 3 ∧ reqAddr (hvBase (req0 30 0 3)) (req0 30 0 3) 0x100400 = some (some p) ∧
      entByTag (hvBase (req0 30 0 3)) (dieOf 0) 5 = none ∧ homeSaved (hvBase (req0 30 0 3)) 0 = false ∧ (getCtx (hvBase (req0 30 0 3)) 0).tag.toNat = 5) :=
  ⟨by unfold requestAt; decide +kernel, by unfold requestAt; decide +kernel, ⟨_, by unfold requestAt; decide +kernel, rfl⟩,
    ⟨_, by unfold requestAt; decide +kernel, rfl, by decide⟩, ⟨_, by unfold requestAt; decide +kernel, rfl⟩,
    ⟨_, by unfold requestAt; decide +kernel, rfl, by decide⟩, ⟨_, by unfold requestAt; decide +kernel, rfl⟩,
    by unfold requestAt; decide +kernel, by unfold requestAt; decide +kernel, ⟨_, by unfold requestAt; decide +kernel, rfl⟩,
    ⟨_, by unfold requestAt; decide +kernel, rfl, by decide +kernel⟩⟩

/-- A request whose argument names cluster memory that holds `bs`, in a part changed by `f`. -/
def hvMem (r : HReq) (bs : List Byte) (f : PartSt → PartSt) : State :=
  { modPart (hvBase r) 0 f with
    mem := memWrite (memWrite (placeTables []) 0x13000 (leBytes 8 0x2011F)) (phys 0 0x100000) bs }

/-- Descriptors: a page to invalidate, a contribution of member 3 to peer 9, and one to wait for. -/
def invBytes : List Byte := leBytes 8 0x40000000 ++ leBytes 6 4096 ++ leBytes 2 1
def postBytes : List Byte := leBytes 4 7 ++ leBytes 4 2 ++ leBytes 6 0x40000000 ++ leBytes 2 3 ++ leBytes 4 64 ++ leBytes 2 0 ++ leBytes 2 9 ++ leBytes 8 0
def awaitBytes : List Byte := leBytes 4 7 ++ leBytes 4 2 ++ leBytes 6 0 ++ leBytes 2 3 ++ leBytes 16 0

/-- A directory entry, a landed contribution, and a saved task with as many contexts as its namespace has slots. -/
def dirEnt0 : DirEnt := ⟨[1, 2], 0x40000000, 64, 0x40000400, 1, [], []⟩
def landed0 : Contribution := ⟨7, 2, 3, 64, 0x40000080, [], 0⟩
def savedEnt : Entry := { readyEnt with state := .saved, saved := List.replicate (Config.namespaceSlots 0) savedCtx }

/-- A die that holds one entry, with a request of its part. -/
def tagBase (r : HReq) (e : Entry) : State := modDie (hvBase r) 0 (fun d => { d with entries := [e] })

theorem witness_HypervisorRequests_invalidate :
    (let r := req0 17 0x100000 0
     let s := hvMem r invBytes id
     requestAt s r 0 ∧ hvRefuse s r r.arg 16 = none ∧ invPlace s r = true ∧ invOk s r (memRead s.mem (phys r.ctx r.arg) 16) = true ∧
      ordersIn s r.part (memRead s.mem (phys r.ctx r.arg) 16) = false ∧
      ordersIn (modChan s 0 (fun c => { c with orders :=
        [⟨9, .copy 0 1, .read, 0, 1, 5, 0, 1, 0, 0x40000000, 0x20000, false, 16, 4, 0x2040, [], 5, 0, false, 0, 5⟩] }))
        r.part (memRead s.mem (phys r.ctx r.arg) 16) = true) ∧
    (let r := req0 17 0x100008 0
     requestAt (hvBase r) r 0 ∧ hvRefuse (hvBase r) r r.arg 16 = none ∧ invPlace (hvBase r) r = false) := by
  unfold requestAt
  decide +kernel

theorem witness_HypervisorRequests_span :
    (∃ p s1 bs, let r := req0 31 0x100000 0
      let s := hvMem r postBytes id
      requestAt s r 0 ∧ getPart? s r.part = some p ∧ hvRefuse s r r.arg 32 = none ∧ spanDescOk s r postBytes = true ∧
      memRead s.mem (phys r.ctx r.arg) 32 = postBytes ∧ spanDesc postBytes = ⟨7, 2, 3, 0x40000000, 9, 64⟩ ∧
      p.expired.contains (7, 2) = false ∧ p.posted.contains (9, 7, 2, 3) = false ∧
      readFar s (dieOf r.ctx) r.part r.pid 0x40000000 64 = .ok (s1, bs)) ∧
    (∃ p, let s := hvMem (req0 31 0x100000 0) postBytes (fun p => { p with posted := [(9, 7, 2, 3)] })
      getPart? s 0 = some p ∧ p.expired.contains (7, 2) = false ∧ p.posted.contains (9, 7, 2, 3) = true) ∧
    (∃ p, let s := hvMem (req0 31 0x100000 0) postBytes (fun p => { p with expired := [(7, 2)] })
      getPart? s 0 = some p ∧ p.expired.contains (7, 2) = true) ∧
    (∃ p, let r := req0 32 0x100000 0
      let s := hvMem r awaitBytes id
      requestAt s r 0 ∧ getPart? s r.part = some p ∧ hvRefuse s r r.arg 32 = none ∧ spanDescOk s r awaitBytes = true ∧
      memRead s.mem (phys r.ctx r.arg) 32 = awaitBytes ∧ spanDesc awaitBytes = ⟨7, 2, 3, 0, 0, 0⟩ ∧
      p.expired.contains (7, 2) = false ∧ p.landed.find? (fun c => c.key == (7, 2, 3)) = none) ∧
    (∃ p, let s := hvMem (req0 32 0x100000 0) awaitBytes (fun p => { p with landed := [landed0] })
      getPart? s 0 = some p ∧ p.landed.find? (fun c => c.key == (7, 2, 3)) = some landed0) :=
  ⟨⟨_, _, _, by unfold requestAt; decide +kernel, rfl, by decide +kernel, by decide +kernel, by decide +kernel, by decide +kernel,
      by decide +kernel, by decide +kernel, rfl⟩, ⟨_, rfl, by decide +kernel⟩, ⟨_, rfl, by decide +kernel⟩,
    ⟨_, by unfold requestAt; decide +kernel, rfl, by decide +kernel⟩, ⟨_, rfl, by decide +kernel⟩⟩

theorem witness_HypervisorRequests_page :
    (∃ p e, let s := tagBase (req0 28 9 0) savedEnt
      requestAt s (req0 28 9 0) 0 ∧ getPart? s 0 = some p ∧ findTag s 0 9 = some (0, e) ∧ e.state = .saved ∧ e.paged = false ∧
      p.pages.length + e.saved.length ≤ Config.namespaceSlots 0) ∧
    findTag (tagBase (req0 28 8 0) readyEnt) 0 8 = none ∧
    (∃ e, findTag (tagBase (req0 28 9 0) readyEnt) 0 9 = some (0, e) ∧ e.state ≠ .saved) ∧
    (∃ e, requestAt (tagBase (req0 29 9 0) readyEnt) (req0 29 9 0) 0 ∧ findTag (tagBase (req0 29 9 0) readyEnt) 0 9 = some (0, e)) ∧
    requestAt (tagBase (req0 29 8 0) readyEnt) (req0 29 8 0) 0 :=
  ⟨⟨_, _, by unfold requestAt; decide +kernel, rfl, rfl, rfl, rfl, by
      simp only [savedEnt, List.length_replicate]
      exact Nat.le_of_eq (Nat.zero_add _)⟩,
    by decide +kernel, ⟨_, rfl, by decide +kernel⟩, ⟨_, by unfold requestAt; decide +kernel, rfl⟩, by unfold requestAt; decide +kernel⟩

theorem witness_HypervisorRequests :
    requestAt (hvBase (req0 20 1 0)) (req0 20 1 0) 0 ∧ requestAt (hvBase (req0 21 1 0)) (req0 21 1 0) 0 ∧
    (∃ p, requestAt (hvBase (req0 20 0 0)) (req0 20 0 0) 0 ∧ getPart? (hvBase (req0 20 0 0)) 0 = some p ∧
      0 ∈ membersOf (hvBase (req0 20 0 0)) 0) ∧
    (let r := { req0 20 0 0 with ctx := 4 }
     let s := putCtx (hvBase r) 4 ctx0
     0 ∈ partCtxs s r.part ∧ 0 ∉ membersOf s r.ctx ∧ isMem 0 = false ∧ issuing (getCtx s 0).mode = true ∧ budxDue s 0 = false) ∧
    (∃ p, let s := modCtx (hvBase (req0 21 0 0)) 0 (fun x => { x with mode := .whistled })
      requestAt s (req0 21 0 0) 0 ∧ getPart? s 0 = some p ∧ 0 ∈ partCtxs s 0 ∧ (getCtx s 0).mode = .whistled) ∧
    (∃ p, let s := modPart (hvBase (req0 26 0x40000000 0)) 0 (fun p => { p with dir := [dirEnt0] })
      requestAt s (req0 26 0x40000000 0) 0 ∧ getPart? s 0 = some p ∧ p.dir.find? (fun e => e.outBase == 0x40000000) = some dirEnt0 ∧
      p.dir.find? (fun e => e.outBase == 4) = none) ∧
    (∃ p, let s := modPart (hvBase (req0 27 0x100000 0)) 0 (fun p => { p with faultQ := [(0, [leBytes 128 5])] })
      requestAt s (req0 27 0x100000 0) 0 ∧ getPart? s 0 = some p ∧ faultsOf p 0 = leBytes 128 5 :: [] ∧ blockOk 0 0x100000 = true ∧
      blockOk 0 0x100040 = false ∧ faultsOf part0 0 = []) ∧
    (∃ p, requestAt (hvBase (req0 30 0x100000 0)) (req0 30 0x100000 0) 0 ∧ getPart? (hvBase (req0 30 0x100000 0)) 0 = some p ∧
      hvRefuse (hvBase (req0 30 0x100000 0)) (req0 30 0x100000 0) 0x100000 64 = none ∧
      (∀ i, i < 4 → blockOk 0 (0x100000 + i * 128) = true) ∧ blockOk 0 (0x100040 + 0 * 128) = false) :=
  ⟨by unfold requestAt; decide +kernel, by unfold requestAt; decide +kernel, ⟨_, by unfold requestAt; decide +kernel, rfl, by decide +kernel⟩,
    by decide +kernel, ⟨_, by unfold requestAt; decide +kernel, rfl, by decide +kernel⟩,
    ⟨_, by unfold requestAt; decide +kernel, rfl, by decide +kernel⟩, ⟨_, by unfold requestAt; decide +kernel, rfl, by decide +kernel⟩,
    ⟨_, by unfold requestAt; decide +kernel, rfl, by decide +kernel⟩⟩

/-- An image of one entry: its header, and zeros for its sections; and a run block that names it. -/
def header0 : List Byte :=
  leBytes 4 0x44495856 ++ leBytes 2 1 ++ leBytes 2 128 ++ leBytes 8 0x10000 ++
    (([128, 4, 0, 132, 1, 144, 1, 1000, 4, 0, 160] : List Nat).flatMap (leBytes 4)) ++ List.replicate 68 0
def block0 (image : Nat) : List Byte := ([image, 0x40000000, 0x40000400, 0] : List Nat).flatMap (leBytes 8)
def imageBase (image : Nat) (r : HReq) : State :=
  { evArg base [7] with
    mem := memWrite (memWrite (memWrite (placeTables []) 0x13000 (leBytes 8 0x2011F)) 0x20040 header0) (phys 0 0x100000) (block0 image)
    hreqs := [r] }
def runReq (stage : Nat) : HReq :=
  { req0 16 0x100000 stage with image := 0x40000040, outArea := 0x40000000, provArea := 0x40000400, rslack := 1000000, hdr := header0, key := List.replicate 32 1 }
def runEnt : Entry := { runEntry (runReq 6) 3 with tag := 9, order := 4, state := .pushing, members := [4] }
def startBase : State :=
  { putCtx (modDie (imageBase 0x40000040 (runReq 6)) 0 (fun d => { d with entries := [runEnt], nextOrder := 5 })) 4
      { ctx0 with mode := .loading } with arg := EvArg.of [7] }

/-- The key of the image that a state holds. -/
def imageKey (s : State) : List Byte :=
  match readImage s 0 0 1 0x40000040 with
  | .ok _ _ key _ => key
  | .fail .. | .poison _ => []

/-- An image that is read, and what holds of the result, as one Bool. -/
theorem image_with {x : ImageRead} {P : List Byte → List Nat → List Byte → State → Prop} [∀ a b c d, Decidable (P a b c d)]
    (h : (match x with | .ok a b c d => decide (P a b c d) | .fail .. | .poison _ => false) = true) : ∃ a b c d, x = .ok a b c d ∧ P a b c d := by
  cases x with
  | fail => simp at h
  | poison => simp at h
  | ok a b c d => exact ⟨a, b, c, d, rfl, of_decide_eq_true h⟩

/-- Whether a run's two areas are writable, and that it is what the statement asks. -/
def areasFree (s : State) (out prov lim : Nat) : Bool :=
  match rangeWritable s 0 0 1 out lim with
  | .ok u => (match rangeWritable u 0 0 1 prov (2 * lim) with | .ok _ => true | .error _ => false)
  | .error _ => false

theorem areas_free {s : State} {out prov lim : Nat} (h : areasFree s out prov lim = true) :
    ∃ u v, rangeWritable s 0 0 1 out lim = .ok u ∧ rangeWritable u 0 0 1 prov (2 * lim) = .ok v := by
  unfold areasFree at h
  split at h
  · rename_i u first
    split at h
    · rename_i v second
      exact ⟨u, v, first, second⟩
    · simp at h
  · simp at h

/-- An image that is read, whose key no entry has, and whose run's areas are writable. -/
theorem areas_of {x : ImageRead} {part key0 out prov : Nat}
    (h : (match x with
      | .ok h _ key s1 => decide (dirFind s1 part key = none) && areasFree (performBytes s1 key0 key) out prov (vexidOf h).outlim
      | .fail .. | .poison _ => false) = true) :
    ∃ h ents key s1, x = .ok h ents key s1 ∧ dirFind s1 part key = none ∧
      ∃ u1 u2, rangeWritable (performBytes s1 key0 key) 0 0 1 out (vexidOf h).outlim = .ok u1 ∧
        rangeWritable u1 0 0 1 prov (2 * (vexidOf h).outlim) = .ok u2 := by
  cases x with
  | fail => simp at h
  | poison => simp at h
  | ok a b c d =>
    have ⟨p, q⟩ := Bool.and_eq_true _ _ ▸ h
    exact ⟨a, b, c, d, rfl, of_decide_eq_true p, areas_free q⟩

theorem witness_TranslatorRuns :
    (let s := imageBase (2 ^ 48) (req0 16 0x100000 0)
     requestAt s (req0 16 0x100000 0) 0 ∧ hvRefuse s (req0 16 0x100000 0) 0x100000 0x20 = none ∧ blockWordsOk (hvWord s (req0 16 0x100000 0) 0x100000) (hvWord s (req0 16 0x100000 0) 0x100008)
      (hvWord s (req0 16 0x100000 0) 0x100010) = false) ∧
    (let s := imageBase 0x40000040 (req0 16 0x100000 0)
     requestAt s (req0 16 0x100000 0) 0 ∧ blockOk 0 0x100000 = true ∧
      hvRefuse s (req0 16 0x100000 0) 0x100000 0x20 = none ∧ blockWordsOk (hvWord s (req0 16 0x100000 0) 0x100000)
      (hvWord s (req0 16 0x100000 0) 0x100008) (hvWord s (req0 16 0x100000 0) 0x100010) = true ∧
      (∃ h ents key s1, readImage s 0 0 1 (hvWord s (req0 16 0x100000 0) 0x100000) = .ok h ents key s1 ∧ dirFind s1 0 key = none ∧
        ∃ u1 u2, rangeWritable (performBytes s1 (phys 0 0x100020) key) 0 0 1 (hvWord s (req0 16 0x100000 0) 0x100008) (vexidOf h).outlim = .ok u1 ∧
          rangeWritable u1 0 0 1 (hvWord s (req0 16 0x100000 0) 0x100010) (2 * (vexidOf h).outlim) = .ok u2) ∧ unsignedRuns s 0 = true) ∧
    (let s := modPart (imageBase 0x40000040 (req0 16 0x100000 0)) 0 (fun p => { p with
       dir := [⟨imageKey (imageBase 0x40000040 (req0 16 0x100000 0)), 0x40000000, 4, 0x40000400, 1, [], []⟩] })
     ∃ h ents key s1, readImage s 0 0 1 (hvWord s (req0 16 0x100000 0) 0x100000) = .ok h ents key s1 ∧
      dirFind s1 0 key = some ⟨imageKey (imageBase 0x40000040 (req0 16 0x100000 0)), 0x40000000, 4, 0x40000400, 1, [], []⟩) ∧
    (let s := imageBase 0x40000040 (runReq 1)
     requestAt s (runReq 1) 1 ∧ (getDie s 0).entries.find? (fun e => e.rootReq == some 7) = none) ∧
    (let s := modDie (imageBase 0x40000040 (runReq 1)) 0 (fun d => { d with reqs := [{ bareReq 4 with n := 7 }] })
     requestAt s (runReq 1) 1 ∧ (getDie s 0).reqs = { bareReq 4 with n := 7 } :: []) ∧
    (findReq startBase (argN startBase 0) = some (runReq 6) ∧
      (getDie startBase 0).entries.find? (fun e => e.rootReq == some (runReq 6).id) = some runEnt ∧ runEnt.state = .pushing ∧
      runEnt.members = [4] ∧ isWhistled startBase runEnt.part = false) ∧
    (let r := { runReq 5 with res := [1, 2, 3, 4, 5, 6, 7, 8] }
     requestAt (hvBase r) r 5 ∧ r.res.length = 8) :=
  ⟨by unfold requestAt; decide +kernel,
    ⟨by unfold requestAt; decide +kernel, by decide +kernel, by decide +kernel, by decide +kernel, areas_of (by decide +kernel), by decide +kernel⟩,
    image_with (by decide +kernel), by unfold requestAt; decide +kernel, by unfold requestAt; decide +kernel, by decide +kernel, by unfold requestAt; decide +kernel⟩

end Sys2Proof.Tests
end

