-- ==== Sys2Proof/Tests/WitnessI.lean ====
section
/-! SUPPORT. For each statement about approximable regions, the host, partitions, power and the whole machine, a state and operands
that meet its hypotheses. -/

namespace Sys2Proof.Tests

open Sys2Proof.Machine Sys2Proof.Claims

set_option maxRecDepth 100000
set_option Elab.async false

/-- A descriptor of one input and one output, with its output in v2 and four words to skip; and a threshold of 1. -/
def desc0 : Nat := 2 * 2 ^ 9 + 4 * 2 ^ 13
def apxBase (ctl : Nat) (f : Ctx → Ctx) : State :=
  baseC (fun x => f { x with g := regs [0x3F800000, desc0, 0x1000], apxctl := w64 ctl })

/-- A cached network of that key, its region, an observation and an opened region. -/
def surr0 : SurrEnt := ⟨0, 0x1000, 0, 0, 0x03000000, 0, [0x3F800000, 0], 0⟩
def surrBase (ctl : Nat) : State := modCore (apxBase ctl id) 0 (fun k => { k with surr := [surr0] })
def region0 (state fitting : Nat) (pairs : List (List Nat × List Nat)) : Region :=
  ⟨3, 0x1000, 0, 0, 0, 0x03000000, 0, state, 0, 0x3C00, 0x3F800000, 1, 0, 0, [0, 0], pairs, fitting, false, 1, []⟩
def obs0 : Obs := ⟨0, 0, 0x1000, 0, 0, 0, 0x03000000, 0, 0, 0x3F800000, [0x3F800000], [0x40000000], false⟩
def open0 (b : Bool) : ApxOpen := ⟨0x1000, 0, 0, 0, 0x03000000, 2, 0x3F800000, 4, [0], b, if b then [0x41000000] else []⟩
def endBase (b : Bool) : State := apxBase 1 (fun x => { x with apx := some (open0 b), pc := 0x1010 })
def dieBase (s : State) (f : DieSt → DieSt) (ns : List Nat) : State := evArg (modDie s 0 f) ns

/-- A core without cached networks finds none. -/
theorem no_hit {s : State} {v : VReg} {b : Reg} (h : (getCore s (coreOf s.cur)).surr = []) (e : SurrEnt) : ¬ apxHit s v b e :=
  fun k => by simpa [h] using k.2

theorem witness_ApproximableRegions :
    (ReadyCompute (apxBase 0 id) 1 ∧ apxOk (me (apxBase 0 id)) 3 (wBits (val (apxBase 0 id) 1) 0 32) (val (apxBase 0 id) 2).toNat = true ∧
      wBits (me (apxBase 0 id)).apxctl 0 1 = 0 ∧ (me (apxBase 0 id)).apx = none) ∧
    (ReadyCompute (apxBase 1 id) 1 ∧ beginsApx (apxBase 1 id) 3 1 2 ∧ ∀ e, ¬ apxHit (apxBase 1 id) 3 2 e) ∧
    (beginsApx (surrBase 3) 3 1 2 ∧ apxHit (surrBase 3) 3 2 surr0 ∧ (surr0.c + 1) % 2 ^ 16 % 2 ^ wBits (me (surrBase 3)).apxctl 1 5 ≠ 0 ∧
      ReadyCompute (surrBase 3) (surrCharge surr0.net)) ∧
    (let s := apxBase 1 (fun x => { x with run := 1 })
     ReadyCompute s 1 ∧ apxOk (me s) 3 (wBits (val s 1) 0 32) (val s 2).toNat = true ∧ wBits (me s).apxctl 0 1 = 1 ∧ (me s).run ≠ 0 ∧
      ∀ e, ¬ apxHit s 3 2 e) ∧
    (ReadyCompute (endBase true) 1 ∧ (me (endBase true)).apx = some (open0 true) ∧ (me (endBase true)).pc.toNat = (0x1000 + 4 * 4) % 2 ^ 48 ∧
      ∃ p ∈ (open0 true).held.zip (f32Lanes (me (endBase true)) 2 1), withinF 0x3F800000 p.1 p.2 = false) ∧
    ((me (endBase false)).apx = some (open0 false) ∧ (open0 false).sampled = false) ∧
    ((val (apxBase 0 id) 3).toNat < 2 ^ 48 ∧ partOf (apxBase 0 id) 0 = some 0) ∧
    (let s := modDie (apxBase 0 id) 0 (fun d => { d with regions := [region0 1 0 []] })
     (getDie s 0).regions.filter (fun r => r.part == 0 && r.addr == (val s 3).toNat % 2 ^ 48) = [region0 1 0 []]) :=
  ⟨⟨readyC_of (by decide +kernel) (by decide +kernel), by decide +kernel⟩,
    ⟨readyC_of (by decide +kernel) (by decide +kernel), ⟨by decide +kernel, by decide +kernel, by decide +kernel, no_of (by decide +kernel)⟩,
      no_hit (by decide +kernel)⟩,
    ⟨⟨by decide +kernel, by decide +kernel, by decide +kernel, no_of (by decide +kernel)⟩, by unfold apxHit; decide +kernel,
      by decide +kernel, readyC_of (by decide +kernel) (by decide +kernel)⟩,
    ⟨readyC_of (by decide +kernel) (by decide +kernel), by decide +kernel, by decide +kernel, by decide +kernel,
      no_hit (by decide +kernel)⟩,
    ⟨readyC_of (by decide +kernel) (by decide +kernel), by decide +kernel⟩, by decide +kernel⟩

theorem witness_OrreryEvents :
    ((getDie (dieBase base (fun d => { d with obsWire := [obs0] }) [0]) 0).obsWire = obs0 :: []) ∧
    (let s := { dieBase base (fun d => { d with obsBuf := [obs0] }) [0] with nextId := 4 }
     takes s obs0 [] ∧ findRegion s 0 obs0.key = none ∧ (getDie s 0).regions.length < 64 ∧ ∀ r ∈ (getDie s 0).regions, r.id < s.nextId) ∧
    (let s := dieBase base (fun d => { d with obsBuf := [obs0], regions := [region0 1 0 []] }) [0]
     takes s obs0 [] ∧ findRegion s 0 obs0.key = some (region0 1 0 []) ∧ (∀ q ∈ (getDie s 0).regions, q.id = 3 → q = region0 1 0 []) ∧
      (region0 1 0 []).fitting = 0) ∧
    (let s := dieBase base (fun d => { d with obsBuf := [obs0], regions := [region0 1 2 []] }) [0]
     takes s obs0 [] ∧ findRegion s 0 obs0.key = some (region0 1 2 []) ∧ (∀ q ∈ (getDie s 0).regions, q.id = 3 → q = region0 1 2 []) ∧
      (region0 1 2 []).fitting ≠ 0) ∧
    (let r := region0 1 1 [([0x3F800000], [0x40000000])]
     regionAt (dieBase base (fun d => { d with regions := [r] }) [0, 3]) r ∧ r.fitting = 1 ∧ r.late = []) ∧
    (let r := region0 1 2 [([0x3F800000], [0x40000000])]
     regionAt (dieBase base (fun d => { d with regions := [r] }) [0, 3]) r ∧ r.fitting = 2 ∧ r.late = []) ∧
    ((getDie (dieBase base (fun d => { d with weights := [(0, surr0)] }) [0]) 0).weights.filter (fun w => w.1 == 0) = [(0, surr0)]) ∧
    ((0, surr0) ∈ (getDie (dieBase base (fun d => { d with removals := [(0, surr0)] }) [0]) 0).removals) ∧
    (let s := dieBase base (fun d => { d with resets := [obs0], regions := [region0 2 0 []] }) [0]
     (getDie s 0).resets = obs0 :: [] ∧ (∀ p ∈ ([] : List Obs), p.id ≠ obs0.id) ∧ (∀ p ∈ (getDie s 0).obsBuf ++ (getDie s 0).obsWire, p.key = obs0.key → obs0.id ≤ p.id) ∧
      findRegion s 0 obs0.key = some (region0 2 0 []) ∧ (region0 2 0 []).state = 2 ∧ ∀ q ∈ (getDie s 0).regions, q.id = 3 → q = region0 2 0 []) :=
  ⟨by decide +kernel, ⟨by unfold takes; decide +kernel, by decide +kernel⟩, ⟨by unfold takes; decide +kernel, by decide +kernel⟩,
    ⟨by unfold takes; decide +kernel, by decide +kernel⟩, ⟨by unfold regionAt; decide +kernel, by decide⟩,
    ⟨by unfold regionAt; decide +kernel, by decide⟩, by decide +kernel⟩

/-- A launch queue with 16 entries in host memory, a command of one task at its start. -/
def queue0 : QueueCfg := ⟨1, true, 0x10000, 0x20000, 16⟩
def launch0 : LaunchQ := ⟨queue0, 1, 0, 0, 0, false, false, false, [], [], []⟩
def command0 (seq : Nat) : List Byte :=
  leBytes 4 1 ++ leBytes 4 seq ++ leBytes 8 77 ++ record0.flatMap (leBytes 8) ++ List.replicate 208 0
def queueBase (x : LaunchQ) (seq : Nat) (ns : List Nat) : State :=
  { evArg base ns with queues := [(2, x)], mem := memWrite (memWrite (placeTables []) 0x13000 (leBytes 8 0x2011F)) (farAddr 0x10000 true) (command0 seq) }

/-- A partition on its way elsewhere, with that queue. -/
def leaving0 : Leaving := ⟨0, part0, [], [], [], [], [(2, launch0)], [], [], [], [], [], 5⟩

theorem witness_LaunchQueues :
    (∃ p, let s := { base with arg := { EvArg.of [0, 2] with queue := some queue0 } }
      s.arg.queue = some queue0 ∧ getPart? s (argN s 0) = some p ∧ argN s 1 < 64 ∧ getQueue s (argN s 0) (argN s 1) = none ∧
      p.cfg.pids.any (fun q => q.1 == queue0.pid) = true ∧ ∃ i, i < 13 ∧ queue0.entries = 2 ^ (i + 4)) ∧
    (let s := modPart (queueBase launch0 0 [0, 2]) 0 (fun p => { p with whistled := true, migRound := 2 })
     queueAt s launch0 ∧ migrating s (argN s 0) = true) ∧
    (let s := { base with arg := EvArg.of [0, 2, 7], departed := [leaving0] }
     getQueue s (argN s 0) (argN s 1) = none ∧ leaving0 ∈ s.departed ∧ leaving0.part = argN s 0 ∧
      (argN s 0 * 64 + argN s 1, launch0) ∈ leaving0.queues) ∧
    (let x := { launch0 with bells := [(1, 4), (0, 7)] }
     queueAt (queueBase x 0 [0, 2]) x ∧ migrating (queueBase x 0 [0, 2]) 0 = false ∧ x.bells = [(1, 4)] ++ [(0, 7)]) ∧
    (∃ s1, queueAt (queueBase launch0 0 [0, 2]) launch0 ∧ migrating (queueBase launch0 0 [0, 2]) 0 = false ∧ takesCommands launch0 1 ∧ 1 ≤ launch0.cfg.entries ∧
      ringRead (queueBase launch0 0 [0, 2]) 0 launch0 0x10000 0 256 = .ok (s1, command0 0) ∧ fieldOf (command0 0) 4 4 = 0 ∧
      commandOk (command0 0) = true) ∧
    (∃ s1, ringRead (queueBase launch0 5 [0, 2]) 0 launch0 0x10000 0 256 = .ok (s1, command0 5) ∧ fieldOf (command0 5) 4 4 ≠ 0) ∧
    (let x := { launch0 with pending := [(0, 77, 5, 0, 9)] }
     queueAt (queueBase x 0 [0, 2]) x ∧ x.cfg.host = true ∧ migrating (queueBase x 0 [0, 2]) 0 = false ∧ ctrDiff x.completed x.release ≠ x.cfg.entries) ∧
    (∃ s1 pa host, let s := { queueBase launch0 0 [] with arg := { EvArg.of [0, 2, 0x40000008] with bytes := [1, 2, 3] } }
      queueAt s launch0 ∧ launch0.torn = false ∧ s.arg.bytes ≠ [] ∧ argN s 2 % 64 + s.arg.bytes.length ≤ 64 ∧
      translate { s with nextId := s.nextId + 1 } (homeOf s 0) 0 1 (argN s 2) .write = .ok (s1, pa, host)) :=
  ⟨⟨_, by decide +kernel, rfl, by decide +kernel, by decide +kernel, by decide +kernel, ⟨0, by decide⟩⟩,
    ⟨by unfold queueAt; decide +kernel, by decide +kernel⟩, by decide +kernel, by unfold queueAt; decide +kernel,
    ⟨_, by unfold queueAt; decide +kernel, by decide +kernel, by unfold takesCommands; decide +kernel, by decide, rfl, by decide +kernel⟩,
    ⟨_, rfl, by decide +kernel⟩, ⟨by unfold queueAt; decide +kernel, by decide +kernel⟩,
    ⟨_, _, _, by unfold queueAt; decide +kernel, by decide +kernel, by decide +kernel, by decide +kernel, rfl⟩⟩

/-- A send of 64 bytes for a request, a link with flits in its replay buffer, and a request that waits for a contribution. -/
def send0 (peer unacked : Nat) : SpanSend := ⟨5, 7, 0, peer, 9, 2, 3, List.replicate 64 7, unacked⟩
def flit0 (fails : Nat) : Flit := ⟨5, flitBytes (List.replicate 64 7) 0, fails⟩
def linkBase (fails : Nat) (ns : List Nat) : State := putLink (evArg base ns) 2 ⟨[], [(3, fails)], false, [flit0 fails]⟩
def landedPart (s : State) : State := modPart s 0 (fun p => { p with landed := [⟨9, 2, 3, 64, 0x40000000, List.replicate 64 7, 0⟩] })
def waitDesc : List Byte := leBytes 4 9 ++ leBytes 4 2 ++ leBytes 6 0 ++ leBytes 2 4 ++ List.replicate 16 0

/-- A member that a request waits for is missing. -/
theorem waits_missing {s : State} {cid epoch : Nat} (r : s.hreqs.any (fun r => onEpoch cid epoch r && r.code == 32) = true) :
    memberMissing s cid epoch = true := by
  simp [memberMissing, r]

theorem witness_SpanLinks :
    (let s := { evArg base [2] with arg := { EvArg.of [2] with bytes := List.replicate 256 0 } }
     argN s 0 < 24 ∧ (getLink s (argN s 0)).retired = false ∧ argN s 1 = 0 ∧ s.arg.bytes.length = 256 ∧
      crc32 (s.arg.bytes.take 252) ≠ leNat (s.arg.bytes.drop 252)) ∧
    (let s := { evArg base [2] with arg := { EvArg.of [2] with bytes := (flit0 0).bytes } }
     s.arg.bytes.length = 256 ∧ crc32 (s.arg.bytes.take 252) = leNat (s.arg.bytes.drop 252) ∧ argN s 2 = (getLink s 2).delivered.length) ∧
    (let s := { linkBase 15 [2, 0, 3] with arg := { EvArg.of [2, 0, 3] with bytes := List.replicate 256 0 } }
     crc32 (s.arg.bytes.take 252) ≠ leNat (s.arg.bytes.drop 252) ∧ ((getLink s 2).fails.get? (argN s 2)).getD 0 = 15) ∧
    (let s := { linkBase 16 [2, 0, 3] with arg := { EvArg.of [2, 0, 3] with bytes := List.replicate 256 0 } }
     crc32 (s.arg.bytes.take 252) ≠ leNat (s.arg.bytes.drop 252) ∧ ((getLink s 2).fails.get? (argN s 2)).getD 0 = 16) ∧
    (let s := linkBase 0 [2, 1]
     argN s 0 < 24 ∧ (getLink s (argN s 0)).retired = false ∧ (getLink s (argN s 0)).replay = flit0 0 :: [] ∧ argN s 1 = 1) ∧
    (let s := linkBase 15 [2, 2, 0]
     (getLink s (argN s 0)).replay[argN s 2]? = some (flit0 15) ∧ argN s 1 = 2 ∧ (flit0 15).fails < 16) ∧
    (let s := linkBase 16 [2, 2, 0]
     (getLink s (argN s 0)).replay[argN s 2]? = some (flit0 16) ∧ argN s 1 = 2 ∧ 16 ≤ (flit0 16).fails) ∧
    (let x := send0 (Config.linkPeer 2) 1
     let s := { evArg base [2, 3, 5] with sends := [x] }
     argN s 0 < 24 ∧ (getLink s (argN s 0)).retired = false ∧ argN s 1 = 3 ∧ s.sends.find? (fun x => x.id == argN s 2) = some x ∧
      Config.linkPeer 2 = x.peer ∧ flitsOut s x.id < x.unacked) ∧
    (∃ p, let x := send0 Config.packageId 1
      let s := { evArg base [5, 1, 0x40000000] with sends := [x], hreqs := [req0 31 0 1] }
      s.sends.find? (fun x => x.id == argN s 0) = some x ∧ argN s 1 ≠ 0 ∧ x.peer = Config.packageId ∧ getPart? s (argN s 1 - 1) = some p ∧
      p.expired.contains (x.cid, x.epoch) = false ∧ findReq s x.req = some (req0 31 0 1) ∧ (req0 31 0 1).stage = 1) ∧
    (let x := send0 (Config.packageId + 1) 0
     let s := { evArg base [5, 0, 0, 1] with sends := [x], hreqs := [req0 31 0 1] }
     s.sends.find? (fun x => x.id == argN s 0) = some x ∧ x.peer ≠ Config.packageId ∧ x.unacked = 0 ∧ argN s 3 < 2 ∧
      findReq s x.req = some (req0 31 0 1) ∧ (req0 31 0 1).stage = 1) ∧
    (send0 (Config.packageId + 1) 1).unacked ≠ 0 ∧
    (∃ p, let s := { modDie (landedPart (evArg base [0, 9, 2])) 0 (fun d => { d with counter := 2 ^ 40 }) with
        hreqs := [{ req0 32 0 1 with hdr := waitDesc }] }
      getPart? s (argN s 0) = some p ∧ p.expired.contains (argN s 1, argN s 2) = false ∧
      epochOver s (argN s 0) (argN s 1) (argN s 2) p = true ∧ memberMissing s (argN s 1) (argN s 2) = true ∧
      (∃ w ∈ s.hreqs, onEpoch 9 2 w = true ∧ w.code = 32)) :=
  ⟨by decide +kernel, by decide +kernel, by decide +kernel, by decide +kernel, by decide +kernel, by decide +kernel, by decide +kernel,
    ⟨by decide +kernel, by decide +kernel, by decide +kernel, rfl, rfl, by decide +kernel⟩,
    ⟨_, rfl, by decide +kernel, rfl, rfl, by decide +kernel⟩, ⟨rfl, Nat.succ_ne_self _, by decide +kernel⟩, by decide,
    ⟨_, rfl, by decide +kernel, by decide +kernel, waits_missing (by decide +kernel), by decide +kernel⟩⟩

/-- The parameters of a second partition, of clusters 4 and 5. -/
def cfg1 : PartCfg := { part0.cfg with clusters := [4, 5], ctrFirst := 17, mcShare := 0 }
def stopped (dst : List Nat) : State :=
  modPart (whistleStop (evArg base (0 :: dst)) 0 none) 0 (fun p => { p with settled := true, migRound := 2 })

/-- A saved task whose one slot is in its partition's namespace. -/
def pagedEnt : Entry := { placedEnt with state := .saved, members := [], saved := [savedCtx], paged := true, pageAsked := true }
def pagedBase : State :=
  modPart (entBase pagedEnt id [0, 9, 1]) 0 (fun p => { p with xtsKey := 3, pages := [⟨0, 9, 0, 3, savedCtx, []⟩] })

theorem witness_Partitions :
    (let s := { base with arg := { EvArg.of [1, 0x80000] with part := some cfg1, bytes := [1, 2, 3] } }
     s.arg.part = some cfg1 ∧ creatable s (argN s 0) cfg1) ∧
    (∃ p, let s := evArg base [0, 8, 1, 0x40000000]
      getPart? s (argN s 0) = some p ∧ p.cfg.clusters.contains (clusterOfCore (argN s 1)) = true ∧
      p.cfg.pids.any (fun q => q.1 == argN s 2) = true ∧ (getCtx s (argN s 1 * 4)).mode = .free) ∧
    (imageOk 0x4B535652 [] [] = false ∧
      let s := { evArg base [0, 8, 1, 0x40000000, 0, 0, 0x13000, 0x2011B] with mem := placeTables [] }
      mappedCode (writeEntries s 0 (s.arg.ns.drop 6)) 0 (argN s 2) (argN s 3) 4 = true) ∧
    (entByTag pagedBase (argN pagedBase 0) (argN pagedBase 1) = some pagedEnt ∧ argN pagedBase 2 ≠ 0 ∧ slotsOk pagedBase pagedEnt 0 = true) ∧
    (∃ p, getPart? (evArg base [0]) (argN (evArg base [0]) 0) = some p ∧ p.whistled = false) ∧
    (∃ p, getPart? (stopped []) (argN (stopped []) 0) = some p ∧ (stopped []).arg.leaving = none ∧ readyToMove (stopped []) 0 p = true ∧
      (∀ c ∈ liveCtxs (stopped []) 0, poisonedSave (stopped []) c = none) ∧ (stopped []).arg.ns.drop 1 = []) ∧
    (∃ p, getPart? (stopped [5, 6]) (argN (stopped [5, 6]) 0) = some p ∧ readyToMove (stopped [5, 6]) 0 p = true ∧
      (∀ c ∈ liveCtxs (stopped [5, 6]) 0, poisonedSave (stopped [5, 6]) c = none) ∧ (stopped [5, 6]).arg.ns.drop 1 ≠ [] ∧
      movesOk (depart (stopped [5, 6]) 0 p false).2 (depart (stopped [5, 6]) 0 p false).1 ((stopped [5, 6]).arg.ns.drop 1) = true) :=
  ⟨⟨rfl, by unfold creatable; decide +kernel⟩, ⟨_, rfl, by decide +kernel⟩, by decide +kernel, by decide +kernel,
    ⟨_, rfl, by decide +kernel⟩, ⟨_, rfl, by decide +kernel⟩, ⟨_, rfl, by decide +kernel⟩⟩

/-- A supervisor image of one word, signed with the private key 5, and the partition that holds the public half as its OWNERKEY. -/
def imageBody : List Byte := leBytes 4 0x4B535652 ++ leBytes 4 4 ++ leBytes 8 0 ++ List.replicate 16 7 ++ leBytes 4 0x08A60007
def signedImage : List Byte := imageBody ++ List.replicate 16 7 ++ ecdsaSign 5 76 imageBody
def publicKey (d : Nat) : List Byte :=
  let p := mulPoint 521 d g521
  let i := invMod p521 p.z
  (leBytes 66 (affineX p)).reverse ++ (leBytes 66 (mul521 p.y (mul521 i (mul521 i i)))).reverse
def signedBase : State :=
  let s := modPart base 0 (fun p => { p with cfg := { p.cfg with ownerKey := publicKey 5 } })
  { s with arg := { EvArg.of [0, 8, 1, 0x40000000, 0, 0, 0x13000, 0x2011B] with bytes := signedImage }, mem := placeTables [] }

/-- The image verifies, and its table entries map it read-only and executable. -/
theorem witness_Partitions_image :
    ∃ p, getPart? signedBase (argN signedBase 0) = some p ∧ p.cfg.clusters.contains (clusterOfCore (argN signedBase 1)) = true ∧
      p.cfg.pids.any (fun q => q.1 == argN signedBase 2) = true ∧ (getCtx signedBase (argN signedBase 1 * 4)).mode = .free ∧
      imageOk 0x4B535652 p.cfg.ownerKey signedBase.arg.bytes = true ∧
      mappedCode (writeEntries signedBase 0 (signedBase.arg.ns.drop 6)) 0 (argN signedBase 2) (argN signedBase 3)
        (fieldOf signedBase.arg.bytes 4 4) = true :=
  ⟨_, rfl, by decide +kernel, by decide +kernel, by decide +kernel, by decide +kernel, by decide +kernel⟩

theorem witness_Partitions_power :
    (({ base with power := .recovery 2, arg := { EvArg.none with bytes := [1] } } : State).power = .recovery 2 ∧
      ({ base with power := .recovery 2, arg := { EvArg.none with bytes := [1] } } : State).arg.bytes ≠ []) ∧
    (∀ k, base.power ≠ .recovery k) ∧
    islandIdle (evArg base [0, 1]) (argN (evArg base [0, 1]) 0) (argN (evArg base [0, 1]) 1) = true ∧
    islandIdle (evArg base [0, 0]) (argN (evArg base [0, 0]) 0) (argN (evArg base [0, 0]) 1) = false ∧
    ((getCluster (evArg base [0, 0]) (argN (evArg base [0, 0]) 0 * 256 + 2 * argN (evArg base [0, 0]) 1)).gated = false ∧
      argN (evArg base [0, 0]) 1 < 128 ∧ argN (evArg base [0, 0]) 0 < 8) :=
  ⟨by decide +kernel, fun k h => by simp [base] at h, by decide +kernel⟩

theorem witness_EncodingsRoundTrip :
    (wellFormed (.addi 5 6 7) = true ∧ encode (.addi 5 6 7) = some 0x08A60007) ∧
    (wellFormed (.kAdd 1 2 3) = true ∧ encode (.kAdd 1 2 3) = some 0xC0221800 ∧ 48 ≤ (0xC0221800 : BitVec 32).toNat / 2 ^ 26) := by
  decide +kernel

theorem witness_WordsHaveOneMeaning : 0x08A60007 < 2 ^ 32 ∧ decodeWord 0x08A60007 false = .ok (.addi 5 6 7) ∧ (.addi 5 6 7 : Instr) ≠ .hcall := by
  decide +kernel

/-- The base with the code of an addi at the pc, and a turn. -/
def fetchBase (t : Turn) : State :=
  { baseC (fun x => { x with pc := 0x40000000 }) with
    sched := [t], mem := memWrite (memWrite (placeTables []) 0x13000 (leBytes 8 0x2011B)) 0x20000 (leBytes 4 0x08A60007) }

theorem witness_StepRunsTheInstruction :
    (∃ s1, (fetchBase (.ctx 0)).sched = .ctx 0 :: [] ∧ canIssue (getCtx (fetchBase (.ctx 0)) 0) = true ∧
      (issueOrder (fetchBase (.ctx 0)) (groupOf 0)).head? = some 0 ∧
      fetchWord { fetchBase (.ctx 0) with sched := [], cur := 0 } 0 (getCtx (fetchBase (.ctx 0)) 0).pc.toNat = .ok (s1, 0x08A60007) ∧
      decodeWord 0x08A60007 (isRoot (getCtx (fetchBase (.ctx 0)) 0)) = .ok (.addi 5 6 7)) ∧
    (∃ s1 u, let s := putCtx (fetchBase (.ctx 1)) 1 { ctx0 with deadline := 9 }
      s.sched = .ctx 1 :: [] ∧ canIssue (getCtx s 1) = true ∧ issueOrder s (groupOf 1) = 0 :: [] ++ 1 :: [] ∧ 1 ∉ [0] ∧
      fetchWord { s with sched := [], cur := 0 } 0 (getCtx s 0).pc.toNat = .ok (s1, 0x08A60007) ∧ exec (.addi 5 6 7) s1 = .next u) ∧
    (∃ s1 u, (fetchBase (.core 0)).sched = .core 0 :: [] ∧ issueOrder (fetchBase (.core 0)) 0 = 0 :: [] ∧
      fetchWord { fetchBase (.core 0) with sched := [], cur := 0 } 0 (getCtx (fetchBase (.core 0)) 0).pc.toNat = .ok (s1, 0x08A60007) ∧
      exec (.addi 5 6 7) s1 = .next u) ∧
    ((fetchBase (.event .dieCounterTick (EvArg.of [0]))).sched = .event .dieCounterTick (EvArg.of [0]) :: [] ∧ isEvent .dieCounterTick = true) ∧
    (let s := { fetchBase (.ctx 0) with sched := [], phase := 1, agenda := [(.dieCounterTick, EvArg.of [0])] }
     s.sched = [] ∧ s.phase = 1 ∧ s.agenda = (.dieCounterTick, EvArg.of [0]) :: []) :=
  ⟨⟨_, by decide +kernel, by decide +kernel, by decide +kernel, rfl, by decide +kernel⟩,
    ⟨_, _, by decide +kernel, by decide +kernel, by decide +kernel, by decide +kernel, rfl, rfl⟩, ⟨_, _, by decide +kernel, by decide +kernel, rfl, rfl⟩,
    by decide +kernel⟩

theorem witness_MemoryStaysCanonical : Memory.wf base.mem = true ∧ ∃ t, step base = .next t := ⟨by decide +kernel, _, rfl⟩

theorem witness_TaskModeKeepsSupervisorRegisters :
    isEvent (.addi 5 6 7) = false ∧ (∀ m ∈ base.cur :: flockOf base base.cur, privOf (getCtx base m) = 0) ∧
      (∃ q, getPart? base 0 = some q) ∧ ∃ t, exec (.addi 5 6 7) base = .next t :=
  ⟨by decide +kernel, by decide +kernel, ⟨_, rfl⟩, _, rfl⟩
theorem witness_ResetAndTaskStart : (0 : Nat) ≤ 1 ∧ (1 : Nat) ≤ 1 := by decide

end Sys2Proof.Tests
end

