-- ==== Sys2Proof/Tests/WitnessJ.lean ====
section
/-! SUPPORT. For each statement about status words, fault records and surrogate outputs, a state and operands that meet its
hypotheses. -/

namespace Sys2Proof.Tests

open Sys2Proof.Machine Sys2Proof.Claims

set_option maxRecDepth 100000
set_option Elab.async false

/-- An accumulator whose second word is a NaN. -/
def nanBase : State := baseC (fun x => { x with acc := x.acc.set 0 [0x3F800000, 0x7FC00001] })

/-- A placed task. -/
def rplBase : State := entBase placedEnt id []

theorem witness_ResultWords :
    isMem 0 = false ∧ (∀ w ∈ accWords (me base).acc[(0 : Fin 4)], isNan32 w = false) ∧
    (∃ w ∈ accWords (me nanBase).acc[(0 : Fin 4)], isNan32 w = true) ∧
    (∃ q, partOf rplBase rplBase.cur = some 0 ∧ getPart? rplBase 0 = some q ∧ q.frac < 2 ^ 17 ∧ entOfCtx rplBase rplBase.cur = some placedEnt) ∧
    (let r := region0 2 0 []
     r.state ≤ 2 ∧ r.wid < 4 ∧ r.good < 2 ^ 8 ∧ r.obs < 2 ^ 16 ∧ r.samp < 2 ^ 16) ∧
    (part0.thresh < 2 ^ 16 ∧ part0.frac < 2 ^ 17) :=
  ⟨rfl, by decide +kernel, by decide +kernel, ⟨_, by decide +kernel, rfl, by decide +kernel⟩, by decide +kernel, ⟨by decide +kernel, by decide +kernel⟩⟩

theorem witness_ResultWords_record :
    let r : FaultRec := ⟨cFP, 16, 5, 9, 0xFFFFFFFF, 2 ^ 47, 0, 2 ^ 63, 31 * 128, 0, 2 ^ 35⟩
    r.cause < 2 ^ 16 ∧ r.flags < 2 ^ 16 ∧ r.thread < 2 ^ 32 ∧ r.tag < 2 ^ 32 ∧ r.poff < 2 ^ 32 ∧ r.pc < 2 ^ 64 ∧ r.addr < 2 ^ 64 ∧
      r.sst < 2 ^ 64 ∧ r.spec0 < 2 ^ 64 ∧ r.spec1 < 2 ^ 64 ∧ r.spfx < 2 ^ 64 := by decide

theorem witness_ApproximableRegions_values :
    ((⟨1, 1, 0⟩ : Net).h = 0 ∧ ([0x3F800000] : List Nat).length = 1 ∧ (⟨1, 1, 0⟩ : Net).count ≤ ([0x3F800000, 0] : List Nat).length) ∧
    (0 < (⟨1, 1, 8⟩ : Net).h ∧ (⟨1, 1, 8⟩ : Net).count ≤ (List.replicate 25 0x3F800000).length) ∧ partOf base base.cur = some 0 := by
  decide +kernel

end Sys2Proof.Tests
end

