-- ==== Sys2Proof/Tests/WitnessK.lean ====
section
/-! SUPPORT. For the statements about traps of targets, nested loops, unhandled traps, flocks, drains and the bytes of vector commands, a
state and operands that meet their hypotheses. -/

namespace Sys2Proof.Tests

open Sys2Proof.Machine Sys2Proof.Claims

set_option maxRecDepth 100000
set_option Elab.async false

theorem witness_BranchesAndCalls_traps :
    (let s := baseR [0x2000, 2 ^ 48]
     registerJump (.jr 2) = some 2 ∧ notPort 2 ∧ Ready s 1 ∧ bodyEnds (me s) (me s).pc.toNat = false ∧ (me s).follower = false ∧
      (me s).root = none ∧ 2 ^ 48 ≤ (val s 2).toNat) ∧
    (let s := baseR [0x2000, 0x2002]
     registerJump (.callr 1 2) = some 2 ∧ Ready s 1 ∧ bodyEnds (me s) (me s).pc.toNat = false ∧ (me s).follower = false ∧
      (me s).root = none ∧ (val s 2).toNat < 2 ^ 48 ∧ (val s 2).toNat % 4 ≠ 0) ∧
    (transfers .ret = true ∧ transfers (.beq 3 4 8) = true ∧ Ready (loopBase 2 5) 1 ∧
      ∃ l : Fin 4, (me (loopBase 2 5)).lc[l] ≠ 0 ∧ (me (loopBase 2 5)).le[l].toNat = (me (loopBase 2 5)).pc.toNat) :=
  ⟨⟨rfl, by decide, ready_of (by decide +kernel), by decide +kernel, by decide +kernel, by decide +kernel, by decide +kernel⟩,
    ⟨rfl, ready_of (by decide +kernel), by decide +kernel, by decide +kernel, by decide +kernel, by decide +kernel⟩,
    ⟨rfl, rfl, ready_of (by decide +kernel), 2, by decide +kernel⟩⟩

/-- Bodies of levels 1 and 3 that end at the pc, the inner one on its last turn. -/
def nestBase : State := modCtx (loopBase 1 5) 0 (fun x => { x with ls := x.ls.set 3 0xF80, le := x.le.set 3 0x1000, lc := x.lc.set 3 1 })

theorem witness_HardwareLoops_nested :
    (∃ f, oneRegister (.addi 3 4 5) = some (3, 4, f) ∧ wellFormed (.addi 3 4 5) = true ∧ notPort 3 ∧ notPort 4 ∧ Ready nestBase 1) ∧
    ((me nestBase).lc[(1 : Fin 4)] = 5 ∧ (me nestBase).le[(1 : Fin 4)].toNat = (me nestBase).pc.toNat ∧
      (me nestBase).lc[(3 : Fin 4)] = 1 ∧ (me nestBase).le[(3 : Fin 4)].toNat = (me nestBase).pc.toNat) :=
  ⟨⟨_, rfl, by decide, by decide, by decide, ready_of (by decide +kernel)⟩, by decide +kernel⟩

/-- The context at its code with a handler whose record has no place, and one in its handler. -/
def noPlace : State := modCtx handlerBase 0 (fun x => { x with tframe := 0x200040 })
def twice : State := modCtx handlerBase 0 (fun x => { x with st := 0x801048 })
def noHandler : State := modCtx handlerBase 0 (fun x => { x with tvec := 0 })

theorem witness_TrapEntry_unhandled :
    (∀ s ∈ [noPlace, twice, noHandler], isMem 0 = false ∧ (getCtx s 0).root = none ∧ (getCtx s 0).run = 0 ∧ trap0.cause ≠ cUNCORRECTABLE ∧
      trap0.cause ≠ cBUDGET ∧ trap0.opc = none ∧ privOf (getCtx s 0) = 0) ∧
    (getCtx noHandler 0).tvec = 0 ∧ ((getCtx twice 0).tvec ≠ 0 ∧ wBits (getCtx twice 0).st 23 1 = 1) ∧
    (∃ f, (getCtx noPlace 0).tvec ≠ 0 ∧ wBits (getCtx noPlace 0).st 23 1 = 0 ∧ recordCheck (unwait noPlace 0) 0 (getCtx noPlace 0).tframe.toNat = some f) ∧
    (∃ q, getPart? base 0 = some q ∧ (faultsOf q 0).length < 256) ∧
    (∃ q, getPart? (modPart base 0 (fun p => { p with faultQ := [(0, List.replicate 256 [])] })) 0 = some q ∧ 256 ≤ (faultsOf q 0).length) :=
  ⟨by decide +kernel, by decide +kernel, by decide +kernel, ⟨_, by decide +kernel, by decide +kernel, rfl⟩, ⟨_, rfl, by decide +kernel⟩,
    ⟨_, rfl, by decide +kernel⟩⟩

/-- A task on context 0 alone, and a flock of contexts 0 and 16 whose follower's budget is `b`. -/
def soleEnt (members : List Nat) : Entry :=
  { recordEntry 0 1 3 [0x40000000 + 10 * 2 ^ 48, 1000 * 2 ^ 32 + 1000000, 0, 0] with tag := 5, order := 4, state := .placed, members := members }
def flockBase (b : Word) : State :=
  let x : Ctx := { getCtx handlerBase 0 with st := 0x80000, pfx := 0, pc := 0x1000, lc := Vector.replicate 4 0 }
  modDie (putCtx (putCtx handlerBase 0 x) 16 { x with budget := b, follower := true, g := regs [7, 8, 9] }) 0
    (fun d => { d with entries := [soleEnt [0, 16]], nextOrder := 5 })

theorem member_of {s : State} {c wu : Nat} (h : isMem c = false ∧ wBits (getCtx s c).st 3 1 = 0 ∧ meterFull (getCtx s c) = false ∧
    (getCtx s c).charge.toNat + wu ≤ (getCtx s c).budget.toNat ∧ owes (getCtx s c) = false ∧ (getCtx s c).serving = none) : Member s c wu :=
  ⟨h.1, h.2.1, h.2.2.1, h.2.2.2.1, h.2.2.2.2.1, h.2.2.2.2.2⟩

theorem flock_members : flockOf (flockBase 1000) (flockBase 1000).cur = [0, 16] ∧ flockOf (flockBase 0) (flockBase 0).cur = [0, 16] := by
  decide +kernel

theorem flock_steps : LockStep (flockBase 1000) 1 where
  two := by decide +kernel
  leads := by decide +kernel
  once := by decide +kernel
  handler := by decide +kernel
  free := by
    rw [flock_members.1]
    exact List.forall_mem_cons.2 ⟨member_of (by decide +kernel), List.forall_mem_singleton.2 (member_of (by decide +kernel))⟩
  stream := by
    rw [flock_members.1]
    decide +kernel

theorem witness_Flocks :
    (∃ f, twoRegisters (.sub 3 4 5 .sats .w) = some (3, 4, 5, 1, f) ∧ wellFormed (.sub 3 4 5 .sats .w) = true ∧ LockStep (flockBase 1000) 1 ∧
      ∀ c ∈ flockOf (flockBase 1000) (flockBase 1000).cur, armedBit { flockBase 1000 with cur := c } = none) ∧
    ((∃ p, branches (.blt 4 5 8) = some (4, 5, 8, p)) ∧ (me (flockBase 1000)).root = none ∧
      bodyEnds (me (flockBase 1000)) (me (flockBase 1000)).pc.toNat = false) ∧
    (∃ u, let s := flockBase 0
      let t : Trap := ⟨cBUDGET, 0, false, 1, (getCtx s 16).charge.toNat, none⟩
      let s1 := grace (noStall (leaveObjects (leaveObjects (wrote s s.cur 1 4 3 (val s 4 - val s 5)) s.cur) 16) 16) 16 t
      let r := mkRec s1 s.cur ⟨cFLOCK, 0, false, 1 + cBUDGET * 2 ^ 16, 1, none⟩ (me s).pc.toNat
      flockOf s s.cur = [s.cur, 16] ∧ s.cur ≠ 16 ∧ Member s s.cur 1 ∧ Member s 16 0 ∧ wBits (me s).st 23 1 = 0 ∧ (me s).mode = .running ∧
      (getCtx s 16).budget.toNat < (getCtx s 16).charge.toNat + 1 ∧ handles s1 s.cur { r with flags := r.flags + 8 } u) :=
  ⟨⟨_, rfl, by decide, flock_steps, by rw [flock_members.1]; decide +kernel⟩,
    ⟨⟨_, rfl⟩, by decide +kernel⟩,
    ⟨_, by decide +kernel, by decide +kernel, member_of (by decide +kernel), member_of (by decide +kernel), by decide +kernel, by decide +kernel,
      by decide +kernel, by decide +kernel, by decide +kernel, by decide +kernel, by decide +kernel, ⟨_, rfl⟩⟩⟩

/-- A drn.t of an f32 copy at 0x1000 and one of format 3 at 0x2000. -/
def drainCmd : EngCmd := { cmd0 7 (0x1000 + 64 * 2 ^ 32 + (0x2000 + 64 * 2 ^ 32) * 2 ^ 64) true with ft := 0x00507480 }

/-- Near addresses of local memory are its physical ones, one behind the other. -/
theorem near_phys (a : Nat) (low : a < 0x30000) : phys 0 a = localBase 0 + a := by
  simp [phys, physOf, areaFor, areaOf, isMem, memBase, coreOf, low]

/-- Its two copies do not meet. -/
theorem copies_apart (a : Nat) (first : inCopy 0 (fmtOf 0x03000000) (0x1000 + 64 * 2 ^ 32) a) :
    ¬ inCopy 0 (fmtOf 0x00507480) (0x2000 + 64 * 2 ^ 32) a := by
  have c : ∀ i, i ≤ 16 → copyRow 0 (0x1000 + 64 * 2 ^ 32) i = localBase 0 + (0x1000 + 64 * i) := fun i hi => by
    simp only [copyRow, bitsAt]
    rw [near_phys _ (by omega)]
    omega
  have d : ∀ i, i ≤ 16 → copyRow 0 (0x2000 + 64 * 2 ^ 32) i = localBase 0 + (0x2000 + 64 * i) := fun i hi => by
    simp only [copyRow, bitsAt]
    rw [near_phys _ (by omega)]
    omega
  obtain ⟨i, hi, h1, h2⟩ | ⟨h, -⟩ := first
  · rw [c i (by omega)] at h1 h2
    have : (fmtOf 0x03000000).w = 32 := by decide
    rintro (⟨j, hj, g1, -⟩ | ⟨-, g1, -⟩)
    · rw [d j (by omega)] at g1
      omega
    · rw [d 16 (by omega)] at g1
      omega
  · exact absurd h (by decide)

theorem witness_MatrixEvents_drains :
    let s := engBase drainCmd
    (getCore s (argN s 0)).mat = drainCmd :: [drainCmd] ∧ drainCmd.running = true ∧ drainCmd.op = 7 ∧
    copyPlaced 0 (fmtOf (BitVec.ofNat 32 drainCmd.fo)) (drainCmd.cmd % 2 ^ 64) ∧
    copyPlaced 0 (fmtOf (BitVec.ofNat 32 drainCmd.ft)) (drainCmd.cmd / 2 ^ 64) ∧
    ∀ a, inCopy 0 (fmtOf (BitVec.ofNat 32 drainCmd.fo)) (drainCmd.cmd % 2 ^ 64) a →
      ¬inCopy 0 (fmtOf (BitVec.ofNat 32 drainCmd.ft)) (drainCmd.cmd / 2 ^ 64) a :=
  ⟨by decide +kernel, rfl, rfl, by unfold copyPlaced; decide +kernel, by unfold copyPlaced; decide +kernel, copies_apart⟩

theorem witness_VectorCommands_writes :
    (∀ op ∈ [32, 33, 34, 36, 37], let e := cmd0 op (vecLo + (0x3000 + 5 * 2 ^ 32) * 2 ^ 64) true
      (getCore (engBase e) (argN (engBase e) 0)).vec = e :: [] ∧ e.running = true ∧ rangePoison (engBase e) e.ctx (vecSources e) = none ∧
      (engBase e).choices = []) ∧
    (let v := vcmdOf vecLo (0x3000 + 5 * 2 ^ 32)
     v.dbase = 0x2000 ∧ ∀ o, o ≤ streamLen (fmtOf 0x00507480) (2 ^ (v.fn + 4)) → phys 0 (v.dbase + o) = phys 0 v.dbase + o) :=
  ⟨by decide +kernel, by decide +kernel⟩

/-- The near base with a release at cluster scope of core 1's, which carries a place of another word in its view. -/
def releasedBase : State :=
  { modCtx nearBase 0 id with stamp := 9, released := [⟨clusterBase 0 + 0x10, 8, ⟨1, 1, [(clusterBase 0 + 0x40, 3)]⟩, 5, none⟩] }

theorem witness_OrderedAccesses_acquire :
    let r : Released := ⟨clusterBase 0 + 0x10, 8, ⟨1, 1, [(clusterBase 0 + 0x40, 3)]⟩, 5, none⟩
    let b := clusterBase 0 + 0x40
    shared 0 0x100010 = true ∧ r ∈ releasedBase.released ∧ r.stamp ≤ releasedBase.stamp ∧ r.overAt = none ∧ 0 < 8 ∧
    r.addr ≤ phys 0 0x100010 + 0 ∧ phys 0 0x100010 + 0 < r.addr + r.len ∧ ownByte (getCtx releasedBase 0).stq (phys 0 0x100010 + 0) = none ∧
    scopeHas r.carry.scope r.carry.core (coreOf 0) = true ∧ scopeHas 1 (coreOf 0) r.carry.core = true ∧
    r.carry.view.get? b = some 3 ∧ ownByte (getCtx releasedBase 0).stq b = none := by
  decide +kernel

end Sys2Proof.Tests
end

section
/-! The decoder by the steps of R86, and the words of R91's table. -/

namespace Sys2Proof.Laws

/-! ## The bytes of a word -/

/-- Bytes written low end first read back as the number, as far as the bytes reach (R11). -/
theorem leNat_leBytes (n x : Nat) : leNat (leBytes n x) = x % 256 ^ n := by
  induction n generalizing x with
  | zero => simp [leBytes, leNat, Nat.mod_one]
  | succ n ih =>
    have low : (BitVec.ofNat 8 (x % 256)).toNat = x % 256 := by simp
    rw [leBytes, leNat, ih, low, pow_succ', Nat.mod_mul]

/-- A word decodes the same from its four bytes in memory (R67). -/
theorem decodeBytes_leBytes {w : Nat} (hw : w < 2 ^ 32) (root : Bool) : decodeBytes (leBytes 4 w) root = decodeWord w root := by
  rw [decodeBytes, leNat_leBytes, Nat.mod_eq_of_lt (by omega)]

/-- What a word decodes to outside root mode is its row of the table. -/
theorem decodeTableWord_of_ok {w : Nat} {i : Instr} (hw : w < 2 ^ 32) (h : decodeWord w false = .ok i) :
    decodeTableWord 32 w = some i := by
  rw [decodeTableWord, if_pos (Nat.le_refl 32), Nat.mod_eq_of_lt hw, decodeBytes_leBytes hw, h]

/-! ## The steps of R86 -/

/-- Step 1: the two majors that are ILLEGAL on every generation. -/
theorem decodeWord_illegal_major {w : Nat} (h : bitsAt w 26 6 = 0 ∨ bitsAt w 26 6 = 63) (root : Bool) :
    decodeWord w root = .error 1 := by
  have step1 : (bitsAt w 26 6 == 0 || bitsAt w 26 6 == 63) = true := by simpa using h
  rw [decodeWord, if_pos step1]

/-- Step 3: the majors reserved on this part. -/
theorem decodeWord_reserved_major {w : Nat} (h : bitsAt w 26 6 = 9 ∨ 44 ≤ bitsAt w 26 6 ∧ bitsAt w 26 6 ≤ 47) :
    decodeWord w false = .error 2 := by
  have step1 : ¬(bitsAt w 26 6 == 0 || bitsAt w 26 6 == 63) = true := by simp; omega
  have step3 : (bitsAt w 26 6 == 9 || (44 ≤ bitsAt w 26 6 && bitsAt w 26 6 ≤ 47)) = true := by simpa using h
  rw [decodeWord, if_neg step1, if_neg (by simp), if_pos step3]

/-- A root major passes steps 1 to 3 in every mode, so step 4 decides: its register fields name g0 to g15. -/
theorem decodeWord_root_major {w : Nat} (lo : 48 ≤ bitsAt w 26 6) (hi : bitsAt w 26 6 ≤ 62) (root : Bool) :
    decodeWord w root = if (rootRegTops (bitsAt w 26 6)).all (fun p => bitsAt w p.1 p.2 == 0) then decodeMajor (bitsAt w 26 6) w
      else .error 6 := by
  have step1 : ¬(bitsAt w 26 6 == 0 || bitsAt w 26 6 == 63) = true := by simp; omega
  have step2 : ¬(root && (bitsAt w 26 6 < 48 || bitsAt w 26 6 == 63)) = true := by simp; omega
  have step3 : ¬(bitsAt w 26 6 == 9 || (44 ≤ bitsAt w 26 6 && bitsAt w 26 6 ≤ 47)) = true := by simp; omega
  rw [decodeWord, if_neg step1, if_neg step2, if_neg step3]
  cases (rootRegTops (bitsAt w 26 6)).all (fun p => bitsAt w p.1 p.2 == 0) <;> rfl

/-- Only root majors have fields that step 4 tests. -/
theorem rootRegTops_of_native : ∀ m < 48, rootRegTops m = [] := by decide

/-- An assigned native major passes steps 1 to 4 outside root mode. -/
theorem decodeWord_native_major {w : Nat} (pos : 0 < bitsAt w 26 6) (lt : bitsAt w 26 6 < 44) (ne : bitsAt w 26 6 ≠ 9) :
    decodeWord w false = decodeMajor (bitsAt w 26 6) w := by
  have step1 : ¬(bitsAt w 26 6 == 0 || bitsAt w 26 6 == 63) = true := by simp; omega
  have step3 : ¬(bitsAt w 26 6 == 9 || (44 ≤ bitsAt w 26 6 && bitsAt w 26 6 ≤ 47)) = true := by simp; omega
  rw [decodeWord, if_neg step1, if_neg (by simp), if_neg step3, rootRegTops_of_native _ (by omega)]
  rfl

/-- The row of a word of an assigned native major `m` is what the decoder of that major reads. -/
theorem decodeTableWord_native {w : Nat} {i : Instr} (m : Nat) (read : decodeMajor m w = .ok i)
    (hw : w < 2 ^ 32 ∧ bitsAt w 26 6 = m := by decide) (hm : 0 < m ∧ m < 44 ∧ m ≠ 9 := by decide) : decodeTableWord 32 w = some i := by
  obtain ⟨word, rfl⟩ := hw
  obtain ⟨pos, lt, ne⟩ := hm
  exact decodeTableWord_of_ok word ((decodeWord_native_major pos lt ne).trans read)

/-! ## R91 -/

/-- Settles O50: each word passes steps 1 to 4 of R86 by its major, and the decoder of that major reads its fields; each rejected
word fails at the step that R91 names. -/
theorem decodedWords : Obligations.DecodedWords := by
  unfold Obligations.DecodedWords
  refine ⟨?ldW, ?stD, ?addSats, ?addSatu, ?addSat3, ?ldk, ?ldScoped, ?addi, ?ldScopedPair, ?bne, ?loop, ?cpyGo, ?fmtp, ?nop, ?ldV,
    ?amoAdd, ?barArr, ?ppoll, ?halt, ?kAdd, ?kAddHigh, ?major09, ?majors00And3F⟩
  case ldW => exact decodeTableWord_native 0x14 rfl
  case stD => exact decodeTableWord_native 0x15 rfl
  case addSats => exact decodeTableWord_native 0x01 rfl
  case addSatu => exact decodeTableWord_native 0x01 rfl
  case addSat3 =>
    -- the major is assigned, so the word reaches step 7
    exact (decodeWord_native_major (by decide) (by decide) (by decide)).trans rfl
  case ldk => exact decodeTableWord_native 0x07 rfl
  case ldScoped => exact decodeTableWord_native 0x18 rfl
  case addi => exact decodeTableWord_native 0x02 rfl
  case ldScopedPair => exact decodeTableWord_native 0x18 rfl
  case bne => exact decodeTableWord_native 0x0B rfl
  case loop => exact decodeTableWord_native 0x13 rfl
  case cpyGo => exact decodeTableWord_native 0x26 rfl
  case fmtp => exact decodeTableWord_native 0x25 rfl
  case nop => exact decodeTableWord_native 0x04 rfl
  case ldV => exact decodeTableWord_native 0x16 rfl
  case amoAdd => exact decodeTableWord_native 0x17 rfl
  case barArr => exact decodeTableWord_native 0x19 rfl
  case ppoll => exact decodeTableWord_native 0x1A rfl
  case halt => exact decodeTableWord_native 0x28 rfl
  case kAdd =>
    rw [decodeWord_root_major (by decide) (by decide), if_pos (by decide)]
    rfl
  case kAddHigh =>
    -- the top bit of the b field fails step 4
    intro root
    rw [decodeWord_root_major (by decide) (by decide), if_neg (by decide)]
  case major09 => exact decodeWord_reserved_major (.inl (by decide))
  case majors00And3F =>
    exact fun root => ⟨decodeWord_illegal_major (.inl (by decide)) root, decodeWord_illegal_major (.inr (by decide)) root⟩

end Sys2Proof.Laws
end

section
/-! Integer instructions: the operations of a width as bit-vector operations (R92 to R101, R255), and what an instruction writes. -/

namespace Sys2Proof.Laws

open Sys2Proof.Machine Sys2Proof.Claims

/-! ## Numbers of a width as bit vectors (R93) -/

theorem wInt_eq_ofInt (v : Int) : wInt v = BitVec.ofInt 64 v := by
  apply BitVec.eq_of_toNat_eq
  simp only [wInt, wrapInt, BitVec.toNat_ofNat, BitVec.toNat_ofInt]
  omega

theorem ofNat_wrapInt (v : Int) (n : Nat) : BitVec.ofNat n (wrapInt v n) = BitVec.ofInt n v := by
  apply BitVec.eq_of_toNat_eq
  rw [BitVec.toNat_ofNat, BitVec.toNat_ofInt, wrapInt, Nat.mod_eq_of_lt]
  have pos : 0 < 2 ^ n := Nat.two_pow_pos n
  omega

theorem signedBits_eq_toInt (x n : Nat) : signedBits x n = (BitVec.ofNat n x).toInt := by
  rw [signedBits, BitVec.toInt_eq_toNat_cond, BitVec.toNat_ofNat]
  cases n with
  | zero => simp [Nat.mod_one]
  | succ n =>
    have half : x % 2 ^ (n + 1) < 2 ^ n ↔ 2 * (x % 2 ^ (n + 1)) < 2 ^ (n + 1) := by rw [Nat.pow_succ 2 n]; omega
    simp [half]

theorem sW_eq_toInt (wd : Width) (x : Word) : sW wd x = (low wd x).toInt := by
  rw [sW, signedBits_eq_toInt, BitVec.ofNat_toNat]

theorem uW_eq_toNat (wd : Width) (x : Word) : uW wd x = (low wd x).toNat := (BitVec.toNat_setWidth _ _).symm

theorem outW_eq_written (wd : Width) (v : Int) : outW wd v = written (BitVec.ofInt wd.bits v) := by
  rw [outW, signedBits_eq_toInt, ofNat_wrapInt, wInt_eq_ofInt]
  rfl

theorem outW_toInt (wd : Width) (r : BitVec wd.bits) : outW wd r.toInt = written r := by
  rw [outW_eq_written, BitVec.ofInt_toInt]

theorem outW_ofNat (wd : Width) (n : Nat) : outW wd n = written (BitVec.ofNat wd.bits n) := by
  rw [outW_eq_written, BitVec.ofInt_natCast]

theorem outW_toNat (wd : Width) (r : BitVec wd.bits) : outW wd r.toNat = written r := by
  rw [outW_ofNat, BitVec.ofNat_toNat, BitVec.setWidth_eq]

theorem outW_word (wd : Width) (x : Word) : outW wd x.toNat = written (low wd x) := by
  rw [outW_ofNat, BitVec.ofNat_toNat]

theorem bits_le (wd : Width) : wd.bits ≤ 64 := by cases wd <;> decide

theorem bits_pos (wd : Width) : 0 < wd.bits := by cases wd <;> decide

/-! ## Sums, differences and products (R94, R95) -/

theorem clampInt_eq {lo hi : Int} (h : lo ≤ hi) (v : Int) : clampInt v lo hi = max lo (min hi v) := by
  unfold clampInt
  split
  · omega
  · split <;> omega

/-- An operation on integers wraps, or is held within the width, as its counterpart on bit vectors does. -/
theorem satW_eq_saturated {wd : Width} {f : BitVec wd.bits → BitVec wd.bits → BitVec wd.bits} {g : Int → Int → Int}
    (wraps : ∀ u v, (f u v).toInt = (g u.toInt v.toInt).bmod (2 ^ wd.bits)) (sat : Sat) (a b : Word) :
    satW sat wd a b g = saturated sat wd a b f g := by
  have pos : (0 : Int) < 2 ^ (wd.bits - 1) := by positivity
  have pos' : (0 : Int) < 2 ^ wd.bits := by positivity
  cases sat with
  | wrap =>
    have result : BitVec.ofInt wd.bits (g (low wd a).toInt (low wd b).toInt) = f (low wd a) (low wd b) :=
      BitVec.eq_of_toInt_eq (by rw [BitVec.toInt_ofInt, wraps])
    simp only [satW, saturated, sW_eq_toInt, outW_eq_written, result]
  | sats =>
    have ordered : -(2 ^ (wd.bits - 1)) ≤ (2 ^ (wd.bits - 1) - 1 : Int) := by omega
    simp only [satW, saturated, heldSigned, sW_eq_toInt, outW_eq_written, clampInt_eq ordered]
  | satu =>
    have ordered : (0 : Int) ≤ 2 ^ wd.bits - 1 := by omega
    simp only [satW, saturated, heldUnsigned, uW_eq_toNat, outW_eq_written, clampInt_eq ordered]

theorem satW_add (sat : Sat) (wd : Width) (a b : Word) :
    satW sat wd a b (· + ·) = saturated sat wd a b (· + ·) (· + ·) := satW_eq_saturated BitVec.toInt_add sat a b

theorem satW_sub (sat : Sat) (wd : Width) (a b : Word) :
    satW sat wd a b (· - ·) = saturated sat wd a b (· - ·) (· - ·) := satW_eq_saturated (fun _ _ => BitVec.toInt_sub) sat a b

theorem satW_mul (sat : Sat) (wd : Width) (a b : Word) :
    satW sat wd a b (· * ·) = saturated sat wd a b (· * ·) (· * ·) := satW_eq_saturated BitVec.toInt_mul sat a b

/-! ## Division (R96) -/

theorem outW_minusOne (wd : Width) : outW wd (-1) = BitVec.allOnes 64 := by cases wd <;> decide

theorem outW_largest (wd : Width) : outW wd (2 ^ wd.bits - 1) = BitVec.allOnes 64 := by cases wd <;> decide

theorem toInt_eq_zero {w : Nat} (r : BitVec w) : r.toInt = 0 ↔ r = 0 := by
  rw [← BitVec.toInt_inj, BitVec.ofNat_eq_ofNat, BitVec.toInt_zero]

theorem toNat_eq_zero {w : Nat} (r : BitVec w) : r.toNat = 0 ↔ r = 0 := by
  rw [← BitVec.toNat_inj, BitVec.ofNat_eq_ofNat, BitVec.toNat_zero]

theorem divS_eq (wd : Width) (x y : Word) :
    divS wd x y = if low wd y = 0 then BitVec.allOnes 64 else written ((low wd x).sdiv (low wd y)) := by
  have quotient : BitVec.ofInt wd.bits (truncDiv (low wd x).toInt (low wd y).toInt) = (low wd x).sdiv (low wd y) :=
    BitVec.eq_of_toInt_eq (by rw [BitVec.toInt_ofInt, BitVec.toInt_sdiv, truncDiv])
  rw [divS, outW_minusOne, sW_eq_toInt, sW_eq_toInt, outW_eq_written, quotient]
  exact if_congr (toInt_eq_zero _) rfl rfl

theorem divU_eq (wd : Width) (x y : Word) :
    divU wd x y = if low wd y = 0 then BitVec.allOnes 64 else written (low wd x / low wd y) := by
  rw [divU, outW_largest, uW_eq_toNat, uW_eq_toNat, ← BitVec.toNat_udiv, outW_toNat]
  exact if_congr (toNat_eq_zero _) rfl rfl

theorem remS_eq (wd : Width) (x y : Word) :
    remS wd x y = if low wd y = 0 then written (low wd x) else written ((low wd x).srem (low wd y)) := by
  rw [remS, sW_eq_toInt, sW_eq_toInt, truncDiv, ← Int.tmod_def, ← BitVec.toInt_srem, outW_toInt, outW_toInt]
  exact if_congr (toInt_eq_zero _) rfl rfl

theorem remU_eq (wd : Width) (x y : Word) :
    remU wd x y = if low wd y = 0 then written (low wd x) else written (low wd x % low wd y) := by
  rw [remU, uW_eq_toNat, uW_eq_toNat, ← BitVec.toNat_umod, outW_toNat, outW_toNat]
  exact if_congr (toNat_eq_zero _) rfl rfl

/-! ## Logic, shifts and rotation (R94) -/

theorem low_andNot (wd : Width) (x y : Word) : low wd (x &&& ~~~y) = low wd x &&& ~~~low wd y := by
  rw [low, BitVec.setWidth_and, BitVec.setWidth_not (bits_le wd)]

theorem shlW_eq (wd : Width) (a : Word) (n : Nat) : shlW wd a n = written (low wd a <<< n) := by
  rw [shlW, outW_ofNat, uW_eq_toNat]
  congr 1
  apply BitVec.eq_of_toNat_eq
  rw [BitVec.toNat_ofNat, BitVec.toNat_shiftLeft, Nat.shiftLeft_eq]

theorem shrW_eq (wd : Width) (a : Word) (n : Nat) : shrW wd a n = written (low wd a >>> n) := by
  rw [shrW, uW_eq_toNat, ← Nat.shiftRight_eq_div_pow, ← BitVec.toNat_ushiftRight, outW_toNat]

theorem sarW_eq (wd : Width) (a : Word) (n : Nat) : sarW wd a n = written ((low wd a).sshiftRight n) := by
  rw [sarW, sW_eq_toInt, outW_eq_written, BitVec.sshiftRight, Int.shiftRight_eq_div_pow]
  norm_cast

/-- The two parts of a rotation share no bit, so their sum joins them. -/
theorem rotateRight_eq_add {w : Nat} (x : BitVec w) {n : Nat} (h : n < w) : x.rotateRight n = x >>> n + x <<< (w - n) := by
  rw [BitVec.rotateRight_def, Nat.mod_eq_of_lt h, BitVec.add_eq_or_of_and_eq_zero]
  ext i hi
  simp only [BitVec.getElem_and, BitVec.getElem_ushiftRight, BitVec.getElem_shiftLeft, BitVec.getElem_zero]
  by_cases inner : i < w - n
  · simp [inner]
  · simp [BitVec.getLsbD_of_ge x (n + i) (by omega)]

theorem rotR_eq (wd : Width) (a : Word) {n : Nat} (h : n < wd.bits) : rotR wd a n = written ((low wd a).rotateRight n) := by
  rw [rotR, uW_eq_toNat, outW_ofNat, rotateRight_eq_add _ h, BitVec.ofNat_add]
  congr 2 <;> apply BitVec.eq_of_toNat_eq
  · rw [← Nat.shiftRight_eq_div_pow, ← BitVec.toNat_ushiftRight, BitVec.toNat_ofNat, Nat.mod_eq_of_lt (BitVec.isLt _)]
  · rw [BitVec.toNat_ofNat, BitVec.toNat_shiftLeft, Nat.shiftLeft_eq]

theorem count_lt (wd : Width) (y : Word) : count wd y < wd.bits := Nat.mod_lt _ (bits_pos wd)

theorem shCount_eq (wd : Width) (y : Word) : shCount wd y = count wd y := by
  rw [shCount, uW_eq_toNat]

/-! ## Order (R94) -/

theorem outW_min (wd : Width) (x y : Word) :
    outW wd (min (sW wd x) (sW wd y)) = written (if (low wd x).sle (low wd y) then low wd x else low wd y) := by
  simp only [sW_eq_toInt, min_def, ← BitVec.sle_iff_toInt_le, ← outW_toInt, apply_ite BitVec.toInt]

theorem outW_max (wd : Width) (x y : Word) :
    outW wd (max (sW wd x) (sW wd y)) = written (if (low wd x).sle (low wd y) then low wd y else low wd x) := by
  simp only [sW_eq_toInt, max_def, ← BitVec.sle_iff_toInt_le, ← outW_toInt, apply_ite BitVec.toInt]

theorem outW_minu (wd : Width) (x y : Word) :
    outW wd (min (uW wd x) (uW wd y) : Nat) = written (if low wd x ≤ low wd y then low wd x else low wd y) := by
  simp only [uW_eq_toNat, min_def, ← BitVec.le_def, ← outW_toNat, apply_ite BitVec.toNat]

theorem outW_maxu (wd : Width) (x y : Word) :
    outW wd (max (uW wd x) (uW wd y) : Nat) = written (if low wd x ≤ low wd y then low wd y else low wd x) := by
  simp only [uW_eq_toNat, max_def, ← BitVec.le_def, ← outW_toNat, apply_ite BitVec.toNat]

theorem bool01_eq_truth {b : Bool} {p : Prop} [Decidable p] (h : b = true ↔ p) : bool01 b = truth p := by
  rw [bool01, truth]
  exact if_congr h rfl rfl

theorem uW_beq (wd : Width) (x y : Word) : (uW wd x == uW wd y) = true ↔ low wd x = low wd y := by
  rw [beq_iff_eq, uW_eq_toNat, uW_eq_toNat, BitVec.toNat_inj]

theorem uW_bne (wd : Width) (x y : Word) : (uW wd x != uW wd y) = true ↔ low wd x ≠ low wd y := by
  rw [bne_iff_ne, uW_eq_toNat, uW_eq_toNat, Ne, BitVec.toNat_inj]

theorem sW_lt (wd : Width) (x y : Word) : decide (sW wd x < sW wd y) = true ↔ (low wd x).slt (low wd y) = true := by
  rw [sW_eq_toInt, sW_eq_toInt, BitVec.slt_eq_decide]

theorem uW_lt (wd : Width) (x y : Word) : decide (uW wd x < uW wd y) = true ↔ low wd x < low wd y := by
  rw [decide_eq_true_iff, uW_eq_toNat, uW_eq_toNat, BitVec.lt_def]

/-! ## Width d (R255) -/

/-- At width d a register is read whole and the result is written as it is. -/
theorem written_low_d (x : Word) (f : Word → Word) : written (n := Width.d.bits) (f (low .d x)) = f x :=
  (BitVec.signExtend_eq _).trans (congrArg f (BitVec.setWidth_eq x))

/-- At width d a wrapping operation is its counterpart on the whole registers. -/
theorem saturated_wrap_d (x y : Word) (f : Word → Word → Word) (g : Int → Int → Int) : saturated .wrap .d x y f g = f x y :=
  (BitVec.signExtend_eq _).trans (congrArg₂ f (BitVec.setWidth_eq x) (BitVec.setWidth_eq y))

theorem shCount_d (y : Word) : shCount .d y = y.toNat % 64 := by
  rw [shCount_eq, count, low, BitVec.toNat_setWidth]
  exact congrArg (· % 64) (Nat.mod_eq_of_lt y.isLt)

theorem shlW_d (x : Word) (n : Nat) : shlW .d x n = x <<< n := (shlW_eq .d x n).trans (written_low_d x (· <<< n))

theorem shrW_d (x : Word) (n : Nat) : shrW .d x n = x >>> n := (shrW_eq .d x n).trans (written_low_d x (· >>> n))

theorem sarW_d (x : Word) (n : Nat) : sarW .d x n = x.sshiftRight n :=
  (sarW_eq .d x n).trans (written_low_d x (·.sshiftRight n))

theorem rotR_d (x : Word) {n : Nat} (h : n < 64) : rotR .d x n = x.rotateRight n :=
  (rotR_eq .d x h).trans (written_low_d x (·.rotateRight n))

/-! ## Immediates, chunks and fields (R98 to R101) -/

theorem addiVal_eq (i : Nat) (x : Word) : addiVal i x = x + (BitVec.ofNat 16 i).signExtend 64 := by
  rw [addiVal, wInt_eq_ofInt, BitVec.ofInt_add, BitVec.ofInt_natCast, BitVec.ofNat_toNat, BitVec.setWidth_eq, sx,
    signedBits_eq_toInt]
  rfl

theorem w64_immediate (i : Fin 65536) : w64 i.val = (BitVec.ofNat 16 i.val).setWidth 64 := by
  apply BitVec.eq_of_toNat_eq
  simp only [w64, BitVec.toNat_ofNat, BitVec.toNat_setWidth]
  omega

theorem testBit_putBits (x lo len v i : Nat) :
    (putBits x lo len v).testBit i = if lo ≤ i ∧ i < lo + len then v.testBit (i - lo) else x.testBit i := by
  have parts : putBits x lo len v = 2 ^ lo * (2 ^ len * (x / 2 ^ (lo + len)) + v % 2 ^ len) + x % 2 ^ lo := by
    rw [putBits, Nat.pow_add]; ring
  rw [parts, Nat.testBit_two_pow_mul_add _ (Nat.mod_lt _ (Nat.two_pow_pos lo)),
    Nat.testBit_two_pow_mul_add _ (Nat.mod_lt _ (Nat.two_pow_pos len)), Nat.testBit_div_two_pow]
  by_cases below : i < lo
  · rw [if_pos below, if_neg (by omega), Nat.testBit_mod_two_pow, decide_eq_true below, Bool.true_and]
  · by_cases inside : i - lo < len
    · rw [if_neg below, if_pos inside, if_pos (by omega), Nat.testBit_mod_two_pow, decide_eq_true inside, Bool.true_and]
    · rw [if_neg below, if_neg inside, if_neg (by omega)]
      congr 1
      omega

/-- A field of a register replaced: the field's bits cleared, then joined with the low bits of the other word. -/
theorem putBits_eq_mask (y x : Word) (p len : Nat) :
    w64 (putBits y.toNat p len x.toNat) =
      (y &&& ~~~(BitVec.ofNat 64 (2 ^ len - 1) <<< p)) ||| ((x &&& BitVec.ofNat 64 (2 ^ len - 1)) <<< p) := by
  apply BitVec.eq_of_getLsbD_eq
  intro i hi
  simp only [w64, BitVec.getLsbD_ofNat, testBit_putBits, BitVec.testBit_toNat, BitVec.getLsbD_or, BitVec.getLsbD_and,
    BitVec.getLsbD_not, BitVec.getLsbD_shiftLeft, Nat.testBit_two_pow_sub_one, hi, decide_true, Bool.true_and]
  by_cases below : i < p
  · simp [below, Nat.not_le.mpr below]
  · have inside : i - p < len ↔ i < p + len := by omega
    have word : i - p < 64 := by omega
    by_cases h : i < p + len <;> simp [below, Nat.not_lt.mp below, h, inside, word]

theorem insertChunk_eq (x : Word) (k : Nat) (c : Fin 65536) :
    insertChunk x k c.val = (x &&& ~~~((0xFFFF : Word) <<< (16 * k))) ||| (BitVec.ofNat 64 c.val <<< (16 * k)) := by
  have chunk : (BitVec.ofNat 64 c.val).toNat = c.val := by rw [BitVec.toNat_ofNat]; omega
  have short : BitVec.ofNat 64 c.val &&& BitVec.ofNat 64 (2 ^ 16 - 1) = BitVec.ofNat 64 c.val := by
    apply BitVec.eq_of_toNat_eq
    rw [BitVec.toNat_and, chunk, BitVec.toNat_ofNat, Nat.mod_eq_of_lt (by decide), Nat.and_two_pow_sub_one_eq_mod]
    omega
  have field := putBits_eq_mask x (BitVec.ofNat 64 c.val) (16 * k) 16
  rwa [chunk, short] at field

theorem bfxVal_eq (l : Nat) (sg : Bool) (p : Nat) (x : Word) : bfxVal l sg p x =
    if sg then written (x.extractLsb' p (l + 1)) else (x.extractLsb' p (l + 1)).setWidth 64 := by
  have bits : wBits x p (l + 1) = (x.extractLsb' p (l + 1)).toNat := by
    rw [BitVec.extractLsb'_toNat, Nat.shiftRight_eq_div_pow, wBits, bitsAt]
  cases sg with
  | true =>
    rw [bfxVal, if_pos rfl, if_pos rfl, bits, signedBits_eq_toInt, BitVec.ofNat_toNat, BitVec.setWidth_eq, wInt_eq_ofInt]
    rfl
  | false => rw [bfxVal, if_neg (by decide), if_neg (by decide), bits, w64, BitVec.ofNat_toNat]

theorem ext_eq (z : Bool) (wd : Width) (x : Word) :
    (if z then w64 (uW wd x) else wInt (sW wd x)) = if z then (low wd x).setWidth 64 else written (low wd x) := by
  rw [uW_eq_toNat, w64, BitVec.ofNat_toNat, sW_eq_toInt, wInt_eq_ofInt]
  rfl

/-! ## Counts of bits (R99) -/

theorem bitAt_eq_testBit (x n : Nat) : bitAt x n = x.testBit n := Nat.testBit_eq_decide_div_mod_eq.symm

theorem clzN_eq (x n : Nat) :
    clzN n x = (((List.range n).map (fun i => x.testBit (n - 1 - i))).takeWhile (· == false)).length := by
  induction n with
  | zero => rfl
  | succ n ih =>
    rw [clzN, bitAt_eq_testBit, ih, List.range_succ_eq_map]
    have rest : ∀ i, n - 1 - i = n - (i + 1) := by omega
    cases h : x.testBit n <;> simp [h, Function.comp_def, rest]

theorem ctzN_eq (n x : Nat) : ctzN n x = (((List.range n).map x.testBit).takeWhile (· == false)).length := by
  induction n generalizing x with
  | zero => rfl
  | succ n ih =>
    rw [ctzN, ih, List.range_succ_eq_map]
    rcases Nat.mod_two_eq_zero_or_one x with h | h <;> simp [h, Nat.testBit_zero, Function.comp_def, Nat.testBit_succ]

theorem popCount_eq (n x : Nat) : popCount n x = ((List.range n).filter x.testBit).length := by
  induction n generalizing x with
  | zero => rfl
  | succ n ih =>
    rw [popCount, ih, List.range_succ_eq_map]
    rcases Nat.mod_two_eq_zero_or_one x with h | h <;>
      simp [h, Nat.testBit_zero, List.filter_map, Function.comp_def, Nat.testBit_succ, Nat.add_comm]

theorem clz_eq (x : Word) : w64 (clzN 64 x.toNat) =
    BitVec.ofNat 64 (((List.range 64).map (fun i => x.getMsbD i)).takeWhile (· == false)).length := by
  have bits : (List.range 64).map (fun i => x.getMsbD i) = (List.range 64).map (fun i => x.toNat.testBit (64 - 1 - i)) :=
    List.map_congr_left (fun i hi => by simp [BitVec.getMsbD, List.mem_range.mp hi, BitVec.testBit_toNat])
  rw [clzN_eq, bits, w64]

theorem ctz_eq (x : Word) : w64 (ctzN 64 x.toNat) =
    BitVec.ofNat 64 (((List.range 64).map (fun i => x.getLsbD i)).takeWhile (· == false)).length := by
  rw [ctzN_eq]; rfl

theorem popc_eq (x : Word) : w64 (popCount 64 x.toNat) =
    BitVec.ofNat 64 ((List.range 64).filter (fun i => x.getLsbD i)).length := by
  rw [popCount_eq]; rfl

/-! ## Retirement of an integer instruction -/

/-- An instruction of general registers whose effect gives a result writes it and retires (R89, R92). -/
theorem issue_wrote {s s1 : State} {i : Instr} {wu : Nat} {srcs : List Reg} {d : Reg} {body : Body} {v : Word}
    (effect : body (srcs.map (val s)) s = result s1 v) (hs : ∀ r ∈ srcs, notPort r) (hd : notPort d) (ready : Ready s wu)
    (hpc : (getCtx s1 s.cur).pc = (me s).pc) (hv : (getCtx s1 s.cur).serving = (me s).serving) :
    issue { i := i, wu := some wu, srcs := srcs, dst := some d } body s = .next (wrote s1 s.cur wu 4 d v) := by
  have dst : ∀ r, some d = some r → notPort r := fun r h => Option.some.inj h ▸ hd
  exact issue_next (sp := { i := i, wu := some wu, srcs := srcs, dst := some d }) ready effect rfl rfl rfl nofun rfl
    (Nat.zero_le _) hs dst hpc hv

/-- An operation of two registers writes its result and retires. -/
theorem alu_wrote {s : State} {i : Instr} {wu : Nat} {d a b : Reg} {f : Word → Word → Word} {v : Word}
    (value : f (val s a) (val s b) = v) (hd : notPort d) (ha : notPort a) (hb : notPort b) (ready : Ready s wu) :
    alu i wu d a b f s = .next (wrote s s.cur wu 4 d v) := by
  subst value
  exact issue_wrote rfl (by simp [ha, hb]) hd ready rfl rfl

/-- An operation of one register writes its result and retires. -/
theorem alu1_wrote {s : State} {i : Instr} {d a : Reg} {f : Word → Word} {v : Word} (value : f (val s a) = v)
    (hd : notPort d) (ha : notPort a) (ready : Ready s 1) : alu1 i d a f s = .next (wrote s s.cur 1 4 d v) := by
  subst value
  exact issue_wrote rfl (by simp [ha]) hd ready rfl rfl

/-- R97: sel serves its sources a, b, c and keeps a where c is not zero. -/
theorem execSel_wrote {s : State} {d a b c : Reg} (hd : notPort d) (ha : notPort a) (hb : notPort b) (hc : notPort c)
    (ready : Ready s 1) : execSel d a b c s = .next (wrote s s.cur 1 4 d (if val s c = 0 then val s b else val s a)) := by
  rw [← ite_not]
  exact issue_wrote rfl (by simp [ha, hb, hc]) hd ready rfl rfl

theorem addBody_unarmed {s : State} (h : armedBit s = none) (sat : Sat) (wd : Width) (x y : Word) :
    addBody sat wd [x, y] s = result s (addVal sat wd x y) := by
  simp only [addBody, h]
  rfl

theorem addBody_armed {s : State} {k : Nat} (h : armedBit s = some k) (sat : Sat) (wd : Width) (x y : Word) :
    addBody sat wd [x, y] s =
      result (modCore s (coreOf s.cur) (fun q => { q with armed := none })) (addVal sat wd x y ^^^ w64 (2 ^ k)) := by
  simp only [addBody, h]
  rfl

/-- R94: an add with no armed fault writes its sum. -/
theorem execAdd_unarmed {s : State} {d a b : Reg} (sat : Sat) (wd : Width) (hd : notPort d) (ha : notPort a) (hb : notPort b)
    (ready : Ready s 1) (h : armedBit s = none) :
    execAdd d a b sat wd s = .next (wrote s s.cur 1 4 d (addVal sat wd (val s a) (val s b))) :=
  issue_wrote (addBody_unarmed h sat wd _ _) (by simp [ha, hb]) hd ready rfl rfl

/-- R406: an add with an armed fault writes its sum with one bit inverted, and the fault is spent. -/
theorem execAdd_armed {s : State} {d a b : Reg} {k : Nat} (sat : Sat) (wd : Width) (hd : notPort d) (ha : notPort a)
    (hb : notPort b) (ready : Ready s 1) (h : armedBit s = some k) :
    execAdd d a b sat wd s = .next (wrote (modCore s (coreOf s.cur) (fun q => { q with armed := none })) s.cur 1 4 d
      (addVal sat wd (val s a) (val s b) ^^^ w64 (2 ^ k))) :=
  issue_wrote (addBody_armed h sat wd _ _) (by simp [ha, hb]) hd ready rfl rfl

theorem notPort_kreg (r : KReg) : notPort (kreg r) := by
  simp only [notPort, kreg]
  omega

/-- R255: a root operation of two registers writes its result and retires, as its registers are g0 to g15. -/
theorem kalu_wrote {s : State} {i : Instr} {d a b : KReg} {f : Word → Word → Word} {v : Word}
    (value : f (val s (kreg a)) (val s (kreg b)) = v) (ready : Ready s 1) :
    kalu i d a b f s = .next (wrote s s.cur 1 4 (kreg d) v) :=
  alu_wrote value (notPort_kreg d) (notPort_kreg a) (notPort_kreg b) ready

/-! ## The instructions, row by row -/

theorem twoRegisters_exec {s : State} {i : Instr} {d a b : Reg} {wu : Nat} {f : Word → Word → Word}
    (row : twoRegisters i = some (d, a, b, wu, f)) (hd : notPort d) (ha : notPort a) (hb : notPort b)
    (ready : Ready s wu) (unarmed : ∀ sat wd, i = .add d a b sat wd → armedBit s = none) :
    exec i s = .next (wrote s s.cur wu 4 d (f (val s a) (val s b))) := by
  cases i with
  | add _ _ _ sat wd =>
    cases row
    exact (execAdd_unarmed sat wd hd ha hb ready (unarmed sat wd rfl)).trans (by rw [addVal, satW_add])
  | sub d a b sat wd =>
    cases row
    change execSub d a b sat wd s = _
    exact alu_wrote (satW_sub _ _ _ _) hd ha hb ready
  | mul d a b sat wd =>
    cases row
    change execMul d a b sat wd s = _
    exact alu_wrote (satW_mul _ _ _ _) hd ha hb ready
  | mulh d a b wd =>
    cases row
    change execMulh d a b wd s = _
    exact alu_wrote (by rw [outW_eq_written, sW_eq_toInt, sW_eq_toInt]) hd ha hb ready
  | mulhu d a b wd =>
    cases row
    change execMulhu d a b wd s = _
    exact alu_wrote (by rw [outW_ofNat, uW_eq_toNat, uW_eq_toNat]) hd ha hb ready
  | div d a b wd =>
    cases row
    change execDiv d a b wd s = _
    exact alu_wrote (divS_eq _ _ _) hd ha hb ready
  | divu d a b wd =>
    cases row
    change execDivu d a b wd s = _
    exact alu_wrote (divU_eq _ _ _) hd ha hb ready
  | rem d a b wd =>
    cases row
    change execRem d a b wd s = _
    exact alu_wrote (remS_eq _ _ _) hd ha hb ready
  | remu d a b wd =>
    cases row
    change execRemu d a b wd s = _
    exact alu_wrote (remU_eq _ _ _) hd ha hb ready
  | and d a b wd =>
    cases row
    change execAnd d a b wd s = _
    exact alu_wrote (by rw [outW_word, low, BitVec.setWidth_and]) hd ha hb ready
  | or d a b wd =>
    cases row
    change execOr d a b wd s = _
    exact alu_wrote (by rw [outW_word, low, BitVec.setWidth_or]) hd ha hb ready
  | xor d a b wd =>
    cases row
    change execXor d a b wd s = _
    exact alu_wrote (by rw [outW_word, low, BitVec.setWidth_xor]) hd ha hb ready
  | andn d a b wd =>
    cases row
    change execAndn d a b wd s = _
    exact alu_wrote (by rw [outW_word, low_andNot]) hd ha hb ready
  | shl d a b wd =>
    cases row
    change execShl d a b wd s = _
    exact alu_wrote (by rw [shlW_eq, shCount_eq]) hd ha hb ready
  | shr d a b wd =>
    cases row
    change execShr d a b wd s = _
    exact alu_wrote (by rw [shrW_eq, shCount_eq]) hd ha hb ready
  | sar d a b wd =>
    cases row
    change execSar d a b wd s = _
    exact alu_wrote (by rw [sarW_eq, shCount_eq]) hd ha hb ready
  | rot d a b wd =>
    cases row
    change execRot d a b wd s = _
    exact alu_wrote (by rw [shCount_eq, rotR_eq _ _ (count_lt _ _)]) hd ha hb ready
  | min d a b wd =>
    cases row
    change execMin d a b wd s = _
    exact alu_wrote (outW_min _ _ _) hd ha hb ready
  | max d a b wd =>
    cases row
    change execMax d a b wd s = _
    exact alu_wrote (outW_max _ _ _) hd ha hb ready
  | minu d a b wd =>
    cases row
    change execMinu d a b wd s = _
    exact alu_wrote (outW_minu _ _ _) hd ha hb ready
  | maxu d a b wd =>
    cases row
    change execMaxu d a b wd s = _
    exact alu_wrote (outW_maxu _ _ _) hd ha hb ready
  | seq d a b wd =>
    cases row
    change execSeq d a b wd s = _
    exact alu_wrote (bool01_eq_truth (uW_beq _ _ _)) hd ha hb ready
  | sne d a b wd =>
    cases row
    change execSne d a b wd s = _
    exact alu_wrote (bool01_eq_truth (uW_bne _ _ _)) hd ha hb ready
  | slt d a b wd =>
    cases row
    change execSlt d a b wd s = _
    exact alu_wrote (bool01_eq_truth (sW_lt _ _ _)) hd ha hb ready
  | sltu d a b wd =>
    cases row
    change execSltu d a b wd s = _
    exact alu_wrote (bool01_eq_truth (uW_lt _ _ _)) hd ha hb ready
  | bfi d a l p =>
    cases row
    change execBfi d a l p s = _
    exact alu_wrote (putBits_eq_mask _ _ p.val (l.val + 1)) hd ha hb ready
  | _ => nomatch row

theorem oneRegister_exec {s : State} {i : Instr} {d a : Reg} {f : Word → Word} (row : oneRegister i = some (d, a, f))
    (hd : notPort d) (ha : notPort a) (ready : Ready s 1) : exec i s = .next (wrote s s.cur 1 4 d (f (val s a))) := by
  cases i with
  | addi d a imm =>
    cases row
    change execAddi d a imm s = _
    exact alu1_wrote (addiVal_eq _ _) hd ha ready
  | andi d a imm =>
    cases row
    change execAndi d a imm s = _
    exact alu1_wrote (by rw [w64_immediate]) hd ha ready
  | ori d a imm =>
    cases row
    change execOri d a imm s = _
    exact alu1_wrote (by rw [w64_immediate]) hd ha ready
  | xori d a imm =>
    cases row
    change execXori d a imm s = _
    exact alu1_wrote (by rw [w64_immediate]) hd ha ready
  | shli d a n =>
    cases row
    change execShli d a n s = _
    exact alu1_wrote (shlW_d _ n.val) hd ha ready
  | shri d a n =>
    cases row
    change execShri d a n s = _
    exact alu1_wrote (shrW_d _ n.val) hd ha ready
  | sari d a n =>
    cases row
    change execSari d a n s = _
    exact alu1_wrote (sarW_d _ n.val) hd ha ready
  | roti d a n =>
    cases row
    change execRoti d a n s = _
    exact alu1_wrote (rotR_d _ n.isLt) hd ha ready
  | ldk d k c =>
    cases row
    change execLdk d k c s = _
    exact alu1_wrote (insertChunk_eq _ k.val c) hd ha ready
  | mov d a =>
    cases row
    change execMov d a s = _
    exact alu1_wrote rfl hd ha ready
  | clz d a =>
    cases row
    change execClz d a s = _
    exact alu1_wrote (clz_eq _) hd ha ready
  | ctz d a =>
    cases row
    change execCtz d a s = _
    exact alu1_wrote (ctz_eq _) hd ha ready
  | popc d a =>
    cases row
    change execPopc d a s = _
    exact alu1_wrote (popc_eq _) hd ha ready
  | ext d a z wd =>
    cases row
    change execExt d a z wd s = _
    exact alu1_wrote (ext_eq z wd _) hd ha ready
  | bfx d a l sg p =>
    cases row
    change execBfx d a l sg p s = _
    exact alu1_wrote (bfxVal_eq l.val sg p.val _) hd ha ready
  | _ => nomatch row

theorem rootTwoRegisters_exec {s : State} {i : Instr} {d a b : KReg} {f : Word → Word → Word}
    (row : rootTwoRegisters i = some (d, a, b, f)) (ready : Ready s 1) :
    exec i s = .next (wrote s s.cur 1 4 (kreg d) (f (val s (kreg a)) (val s (kreg b)))) := by
  cases i with
  | kAdd d a b =>
    cases row
    change execKAdd d a b s = _
    exact kalu_wrote ((satW_add _ _ _ _).trans (saturated_wrap_d _ _ _ _)) ready
  | kSub d a b =>
    cases row
    change execKSub d a b s = _
    exact kalu_wrote ((satW_sub _ _ _ _).trans (saturated_wrap_d _ _ _ _)) ready
  | kAnd d a b =>
    cases row
    change execKAnd d a b s = _
    exact kalu_wrote rfl ready
  | kOr d a b =>
    cases row
    change execKOr d a b s = _
    exact kalu_wrote rfl ready
  | kXor d a b =>
    cases row
    change execKXor d a b s = _
    exact kalu_wrote rfl ready
  | kShl d a b =>
    cases row
    change execKShl d a b s = _
    exact kalu_wrote (by rw [shCount_d, shlW_d]) ready
  | kShr d a b =>
    cases row
    change execKShr d a b s = _
    exact kalu_wrote (by rw [shCount_d, shrW_d]) ready
  | kSar d a b =>
    cases row
    change execKSar d a b s = _
    exact kalu_wrote (by rw [shCount_d, sarW_d]) ready
  | kMul d a b =>
    cases row
    change execKMul d a b s = _
    exact kalu_wrote ((satW_mul _ _ _ _).trans (saturated_wrap_d _ _ _ _)) ready
  | kSlt d a b =>
    cases row
    change execKSlt d a b s = _
    exact kalu_wrote (bool01_eq_truth (sW_lt .d _ _)) ready
  | kSltu d a b =>
    cases row
    change execKSltu d a b s = _
    exact kalu_wrote (bool01_eq_truth (uW_lt .d _ _)) ready
  | kSeq d a b =>
    cases row
    change execKSeq d a b s = _
    exact kalu_wrote (bool01_eq_truth (uW_beq .d _ _)) ready
  | _ => nomatch row

/-- Settles O1: each row of the tables writes its result and retires, as its result in the model is the one of R92 to R101 and
R255; sel and an armed add apart. -/
theorem integerResults : Obligations.IntegerResults := by
  unfold Obligations.IntegerResults
  refine ⟨?twoRegisters, ?oneRegister, ⟨?sel, ?armed⟩, ?rootTwoRegisters, ?kAddi, ?kLdk⟩
  case twoRegisters =>
    intro s i d a b wu f row _ hd ha hb ready unarmed
    exact twoRegisters_exec row hd ha hb ready unarmed
  case oneRegister =>
    intro s i d a f row _ hd ha ready
    exact oneRegister_exec row hd ha ready
  case sel =>
    intro s d a b c hd ha hb hc ready
    exact execSel_wrote hd ha hb hc ready
  case armed =>
    intro s d a b sat wd k hd ha hb ready armed
    exact execAdd_armed sat wd hd ha hb ready armed
  case rootTwoRegisters =>
    intro s i d a b f row ready
    exact rootTwoRegisters_exec row ready
  case kAddi =>
    intro s d a i ready
    change execKAddi d a i s = _
    exact alu1_wrote (addiVal_eq i.val _) (notPort_kreg d) (notPort_kreg a) ready
  case kLdk =>
    intro s d k c ready
    change execKLdk d k c s = _
    exact alu1_wrote (insertChunk_eq _ k.val c) (notPort_kreg d) (notPort_kreg d) ready

end Sys2Proof.Laws
end

section
/-! Packed integer lanes and moves across lanes: the lanes of a register as bit vectors (R18, R140 to R145, R151, R152, R154). -/

namespace Sys2Proof.Laws

open Sys2Proof.Machine Sys2Proof.Claims

/-! ## Lanes of a register (R18, R140) -/

theorem ofNat_toNat_self {w : Nat} (x : BitVec w) : BitVec.ofNat w x.toNat = x := by
  rw [BitVec.ofNat_toNat, BitVec.setWidth_eq]

@[simp] theorem lane_eq_laneAt (v : BitVec 128) (w i : Nat) : lane v w i = (laneAt v w i).toNat := by
  rw [laneAt, BitVec.extractLsb'_toNat, Nat.shiftRight_eq_div_pow, lane, bitsAt]

/-- A lane reads its own number from the packed ones: the lanes below it are its remainder, those above its quotient. -/
theorem packed_div_mod (w j : Nat) (l : List Nat) :
    l.foldr (fun x n => x % 2 ^ w + n * 2 ^ w) 0 / 2 ^ (j * w) % 2 ^ w = l.getD j 0 % 2 ^ w := by
  have pos : 0 < 2 ^ w := Nat.two_pow_pos w
  induction l generalizing j with
  | nil => simp
  | cons x l ih =>
    cases j with
    | zero => simp
    | succ j =>
      have next : (j + 1) * w = w + j * w := by ring
      rw [List.foldr_cons, next, Nat.pow_add, ← Nat.div_div_eq_div_mul, Nat.add_mul_div_right _ _ pos,
        Nat.div_eq_of_lt (Nat.mod_lt x pos), Nat.zero_add, ih, List.getD_cons_succ]

theorem laneAt_packLanes {w j : Nat} (inside : j < 128 / w) (l : List Nat) :
    laneAt (packLanes w l) w j = BitVec.ofNat w (l.getD j 0) := by
  have fits : j * w + w ≤ 128 := by
    calc j * w + w = (j + 1) * w := by ring
      _ ≤ 128 / w * w := Nat.mul_le_mul_right w inside
      _ ≤ 128 := Nat.div_mul_le_self 128 w
  apply BitVec.eq_of_toNat_eq
  rw [← lane_eq_laneAt, lane, bitsAt, packLanes, BitVec.toNat_ofNat, BitVec.toNat_ofNat, ← packed_div_mod]
  have split : 2 ^ 128 = 2 ^ (j * w) * 2 ^ (128 - j * w) := by rw [← Nat.pow_add]; congr 1; omega
  rw [split, Nat.mod_mul_right_div_self, Nat.mod_mod_of_dvd _ (Nat.pow_dvd_pow 2 (by omega))]

/-- A register packed from one number for each lane. -/
theorem laneAt_packLanes_map {w j : Nat} (inside : j < 128 / w) (f : Nat → Nat) :
    laneAt (packLanes w ((List.range (128 / w)).map f)) w j = BitVec.ofNat w (f j) := by
  rw [laneAt_packLanes inside, List.getD_eq_getElem _ _ (by simpa using inside)]
  simp

theorem laneAt_zipLanes {w j : Nat} (inside : j < 128 / w) (a b d : BitVec 128) (f : Nat → Nat → Nat → Nat) :
    laneAt (zipLanes w a b d f) w j = BitVec.ofNat w (f (laneAt a w j).toNat (laneAt b w j).toNat (laneAt d w j).toNat) := by
  simp only [zipLanes, laneAt_packLanes_map inside, lane_eq_laneAt]

/-! ## Readings of a lane and values held in it (R143, R144) -/

theorem signedBits_toNat {w : Nat} (x : BitVec w) : signedBits x.toNat w = x.toInt := by
  rw [signedBits_eq_toInt, ofNat_toNat_self]

theorem laneInt_toNat (t : ILane) (x : BitVec t.bits) : laneInt t x.toNat = laneTyped t x := by
  rw [laneInt, laneTyped, signedBits_toNat]

theorem laneTyped_inj {w : Nat} {t : ILane} {x y : BitVec w} (h : laneTyped t x = laneTyped t y) : x = y := by
  unfold laneTyped at h
  split at h
  · exact BitVec.eq_of_toInt_eq h
  · exact BitVec.eq_of_toNat_eq (Int.ofNat_inj.mp h)

theorem ofNat_satExact (sat : Sat) (w : Nat) (v : Int) : BitVec.ofNat w (satExact sat w v) = laneHeld sat v := by
  have pos : (0 : Int) < 2 ^ (w - 1) := by positivity
  have pos' : (0 : Int) < 2 ^ w := by positivity
  cases sat with
  | wrap => rw [satExact, laneHeld, ofNat_wrapInt]
  | sats => rw [satExact, laneHeld, ofNat_wrapInt, clampInt_eq (by omega)]
  | satu => rw [satExact, laneHeld, ofNat_wrapInt, clampInt_eq (by omega)]

/-- How a saturation mode reads a lane given as a number (R144). -/
def laneReading (sat : Sat) (w x : Nat) : Int := if sat = .satu then x else signedBits x w

@[simp] theorem laneReading_toNat (sat : Sat) {w : Nat} (x : BitVec w) : laneReading sat w x.toNat = laneRead sat x := by
  rw [laneReading, laneRead, signedBits_toNat]

theorem satLane_eq_satExact (sat : Sat) (w : Nat) (f : (Nat → Int) → Int) :
    satLane sat w f = satExact sat w (f (laneReading sat w)) := by
  cases sat <;> rfl

/-- An operation under a saturation mode gives the lane that holds its exact value. -/
theorem ofNat_satLane (sat : Sat) (w : Nat) (f : (Nat → Int) → Int) :
    BitVec.ofNat w (satLane sat w f) = laneHeld sat (f (laneReading sat w)) := by
  rw [satLane_eq_satExact, ofNat_satExact]

theorem ofNat_laneMask (w : Nat) {b : Bool} {p : Prop} [Decidable p] (h : b = true ↔ p) :
    BitVec.ofNat w (laneMask w b) = laneTruth p := by
  rw [laneMask, laneTruth, apply_ite (BitVec.ofNat w)]
  refine if_congr h (BitVec.eq_of_toNat_eq ?_) rfl
  rw [BitVec.toNat_ofNat, BitVec.toNat_allOnes, Nat.mod_eq_of_lt (Nat.sub_lt (Nat.two_pow_pos w) Nat.one_pos)]

/-! ## Retirement of a SIMD instruction (R141) -/

theorem kindOk_compute {s : State} {wu : Nat} (ready : ReadyCompute s wu) : Claims.kindOk .compute s.cur = true := by
  rw [Claims.kindOk, ready.compute]
  rfl

/-- A SIMD instruction whose effect changes its context retires with that change. -/
theorem issue_simd {s : State} {i : Instr} {wu : Nat} {srcs : List Reg} {body : Body} {g : Ctx → Ctx}
    (effect : body (srcs.map (val s)) s = .ok { st := setCur s g }) (hs : ∀ r ∈ srcs, notPort r) (ready : ReadyCompute s wu)
    (hpc : (g (me s)).pc = (me s).pc) (hv : (g (me s)).serving = (me s).serving) :
    issue { simdSpec i wu with srcs := srcs } body s = .next (did (modCtx s s.cur g) s.cur wu 14) := by
  have same : getCtx (setCur s g) s.cur = g (me s) := getCtx_modCtx s s.cur g
  exact issue_next (sp := { simdSpec i wu with srcs := srcs }) ready.toReady effect rfl rfl rfl nofun (kindOk_compute ready)
    (Nat.zero_le _) hs nofun (by rw [same, hpc]) (by rw [same, hv])

/-- A SIMD instruction whose effect gives a SIMD register, read off its context, writes it and retires. -/
theorem issue_wroteV {s : State} {i : Instr} {wu : Nat} {srcs : List Reg} {d : VReg} {body : Body} {v : Ctx → BitVec 128}
    {r : BitVec 128} (effect : body (srcs.map (val s)) s = .ok { st := setCur s (fun x => setV x d (v x)) })
    (value : v (me s) = r) (hs : ∀ r ∈ srcs, notPort r) (ready : ReadyCompute s wu) :
    issue { simdSpec i wu with srcs := srcs } body s = .next (wroteV s wu d r) := by
  subst value
  rw [issue_simd effect hs ready rfl rfl, did, modCtx_modCtx]
  rfl

/-! ## Lane-wise operations (R143, R144) -/

/-- An operation that gives each lane as its counterpart on bit vectors does, gives a register of such lanes. -/
theorem simdInt_lanes {s : State} {i : Instr} {wu w : Nat} {d a b : VReg} {f : Nat → Nat → Nat → Nat}
    {g : BitVec w → BitVec w → BitVec w → BitVec w}
    (value : ∀ x y z : BitVec w, BitVec.ofNat w (f x.toNat y.toNat z.toNat) = g x y z) (ready : ReadyCompute s wu) :
    ∃ r : BitVec 128, simdInt i wu d a b w f s = .next (wroteV s wu d r) ∧
      ∀ j, j < 128 / w → laneAt r w j = g (laneAt (vec s a) w j) (laneAt (vec s b) w j) (laneAt (vec s d) w j) :=
  ⟨zipLanes w (vec s a) (vec s b) (vec s d) f, issue_wroteV (srcs := []) rfl rfl nofun ready,
    fun _ inside => (laneAt_zipLanes inside _ _ _ f).trans (value _ _ _)⟩

theorem ofNat_min (t : ILane) (x y : BitVec t.bits) :
    BitVec.ofNat t.bits (if laneInt t x.toNat ≤ laneInt t y.toNat then x.toNat else y.toNat) =
      if laneTyped t x ≤ laneTyped t y then x else y := by
  simp only [laneInt_toNat, apply_ite (BitVec.ofNat t.bits), ofNat_toNat_self]

/-- Lanes that read alike are equal, so it makes no difference which of them the greater is taken to be. -/
theorem ofNat_max (t : ILane) (x y : BitVec t.bits) :
    BitVec.ofNat t.bits (if laneInt t y.toNat ≤ laneInt t x.toNat then x.toNat else y.toNat) =
      if laneTyped t x ≤ laneTyped t y then y else x := by
  simp only [laneInt_toNat, apply_ite (BitVec.ofNat t.bits), ofNat_toNat_self]
  rcases lt_trichotomy (laneTyped t x) (laneTyped t y) with less | same | greater
  · rw [if_neg (by omega), if_pos (by omega)]
  · rw [laneTyped_inj same, ite_self]
  · rw [if_pos (by omega), if_neg (by omega)]

theorem ofNat_andNot {w : Nat} (x y : BitVec w) : BitVec.ofNat w (x.toNat &&& (2 ^ w - 1 - y.toNat)) = x &&& ~~~y := by
  rw [← BitVec.toNat_not, ← BitVec.toNat_and, ofNat_toNat_self]

theorem ofNat_shiftRight (t : ILane) (x : BitVec t.bits) (n : Nat) :
    BitVec.ofNat t.bits (wrapInt (laneInt t x.toNat / 2 ^ n) t.bits) = if t.signed then x.sshiftRight n else x >>> n := by
  rw [ofNat_wrapInt, laneInt_toNat, laneTyped]
  split
  · rw [BitVec.sshiftRight, Int.shiftRight_eq_div_pow]
    norm_cast
  · apply BitVec.eq_of_toNat_eq
    rw [BitVec.toNat_ushiftRight, Nat.shiftRight_eq_div_pow]
    norm_cast
    rw [BitVec.ofInt_natCast, BitVec.toNat_ofNat, Nat.mod_eq_of_lt (lt_of_le_of_lt (Nat.div_le_self _ _) x.isLt)]

/-- R143, R144: each row gives its lanes. -/
theorem laneOps_exec {s : State} {i : Instr} {op : LaneOp} (row : laneOps i = some op) (ready : ReadyCompute s op.wu) :
    ∃ r : BitVec 128, exec i s = .next (wroteV s op.wu op.d r) ∧ ∀ j, j < 128 / op.bits → laneAt r op.bits j =
      op.f (laneAt (vec s op.a) op.bits j) (laneAt (vec s op.b) op.bits j) (laneAt (vec s op.d) op.bits j) := by
  cases i with
  | vadd d a b t sat =>
    cases row
    exact simdInt_lanes (fun x y _ => by simp only [ofNat_satLane, laneReading_toNat]) ready
  | vsub d a b t sat =>
    cases row
    exact simdInt_lanes (fun x y _ => by simp only [ofNat_satLane, laneReading_toNat]) ready
  | vmul d a b t sat =>
    cases row
    exact simdInt_lanes (fun x y _ => by simp only [ofNat_satLane, laneReading_toNat]) ready
  | vmla d a b t sat =>
    cases row
    exact simdInt_lanes (fun x y z => by simp only [ofNat_satLane, laneReading_toNat]) ready
  | vmin d a b t =>
    cases row
    exact simdInt_lanes (fun x y _ => ofNat_min t x y) ready
  | vmax d a b t =>
    cases row
    exact simdInt_lanes (fun x y _ => ofNat_max t x y) ready
  | vabs d a t sat =>
    cases row
    exact simdInt_lanes (fun x _ _ => by rw [ofNat_satExact, signedBits_toNat, Int.natCast_natAbs]) ready
  | vneg d a t sat =>
    cases row
    exact simdInt_lanes (fun x _ _ => by rw [ofNat_satExact, signedBits_toNat]) ready
  | vand d a b t =>
    cases row
    exact simdInt_lanes (fun x y _ => by rw [← BitVec.toNat_and, ofNat_toNat_self]) ready
  | vor d a b t =>
    cases row
    exact simdInt_lanes (fun x y _ => by rw [← BitVec.toNat_or, ofNat_toNat_self]) ready
  | vxor d a b t =>
    cases row
    exact simdInt_lanes (fun x y _ => by rw [← BitVec.toNat_xor, ofNat_toNat_self]) ready
  | vandn d a b t =>
    cases row
    exact simdInt_lanes (fun x y _ => ofNat_andNot x y) ready
  | vshl d a b t sat =>
    cases row
    exact simdInt_lanes (fun x y _ => by simp only [ofNat_satLane, laneReading_toNat]) ready
  | vshr d a b t =>
    cases row
    exact simdInt_lanes (fun x y _ => ofNat_shiftRight t x _) ready
  | vceq d a b t =>
    cases row
    exact simdInt_lanes (fun x y _ => ofNat_laneMask _ (by rw [beq_iff_eq, BitVec.toNat_inj])) ready
  | vclt d a b t =>
    cases row
    exact simdInt_lanes (fun x y _ => ofNat_laneMask _ (by rw [decide_eq_true_iff, laneInt_toNat, laneInt_toNat])) ready
  | vcle d a b t =>
    cases row
    exact simdInt_lanes (fun x y _ => ofNat_laneMask _ (by rw [decide_eq_true_iff, laneInt_toNat, laneInt_toNat])) ready
  | _ => nomatch row

/-! ## Select, permute, dot product and lane access (R145, R151, R152, R154) -/

theorem laneAt_permLanes {w j : Nat} (inside : j < 128 / w) (a b : BitVec 128) : laneAt (permLanes w a b) w j =
    if (laneAt b w j).toNat < 128 / w then laneAt a w (laneAt b w j).toNat else 0 := by
  rw [permLanes, laneAt_packLanes_map inside]
  simp only [lane_eq_laneAt, apply_ite (BitVec.ofNat w), ofNat_toNat_self]
  rfl

theorem foldl_add_eq_add_sum {α : Type} (f : α → Int) (l : List α) (c : Int) :
    l.foldl (fun n k => n + f k) c = c + (l.map f).sum := by
  induction l generalizing c with
  | nil => simp
  | cons x l ih => rw [List.foldl_cons, ih, List.map_cons, List.sum_cons, add_assoc]

/-- A lane type of bytes reads them as its signedness says; vdot4 takes no other. -/
theorem laneInt_byte {t : ILane} (bytes : t.bits = 8) (x : BitVec 8) : laneInt t x.toNat = laneTyped t x := by
  rw [laneInt, laneTyped, bytes, signedBits_toNat]

theorem laneAt_dot4 {t : ILane} (bytes : t.bits = 8) {j : Nat} (inside : j < 4) (sat : Sat) (a b d : BitVec 128) :
    laneAt (dot4 t sat a b d) 32 j = laneHeld sat (laneRead sat (laneAt d 32 j) + ((List.range 4).map (fun k =>
      laneTyped t (laneAt a 8 (4 * j + k)) * laneTyped t (laneAt b 8 (4 * j + k)))).sum) := by
  refine (laneAt_packLanes_map (w := 32) inside _).trans ?_
  simp only [ofNat_satExact, foldl_add_eq_add_sum, lane_eq_laneAt, laneInt_byte bytes]
  exact congrArg (fun acc => laneHeld sat (acc + _)) (laneReading_toNat sat (laneAt d 32 j))

theorem bytes_of_wellFormed_vdot4 {d a b : VReg} {t : ILane} {sat : Sat} (h : wellFormed (.vdot4 d a b t sat) = true) :
    t.bits = 8 := by
  have byte : (t == .bs || t == .bz) = true := h
  rw [Bool.or_eq_true, beq_iff_eq, beq_iff_eq] at byte
  obtain rfl | rfl := byte <;> rfl

theorem ofNat_lowBits (x : Word) (w : Nat) : BitVec.ofNat w (lowBits x.toNat w) = x.setWidth w := by
  apply BitVec.eq_of_toNat_eq
  rw [lowBits, BitVec.toNat_ofNat, Nat.mod_mod, BitVec.toNat_setWidth]

theorem laneAt_splat {w j : Nat} (inside : j < 128 / w) (x : Word) :
    laneAt (packLanes w (List.replicate (128 / w) (lowBits x.toNat w))) w j = x.setWidth w := by
  rw [laneAt_packLanes inside, List.getD_replicate _ inside, ofNat_lowBits]

theorem laneAt_putLane {w j : Nat} (inside : j < 128 / w) (v : BitVec 128) (i : Nat) (x : Word) :
    laneAt (putLane v w i (lowBits x.toNat w)) w j = if j = i then x.setWidth w else laneAt v w j := by
  have len : ((lanes v w).set i (lowBits x.toNat w)).length = 128 / w := by simp [lanes]
  rw [putLane, laneAt_packLanes inside, List.getD_eq_getElem _ _ (len ▸ inside), List.getElem_set,
    apply_ite (BitVec.ofNat w), ofNat_lowBits]
  refine if_congr eq_comm rfl ?_
  simp only [lanes, List.getElem_map, List.getElem_range, lane_eq_laneAt, ofNat_toNat_self]

/-- R154: a lane of an integer type is extended as its signedness says. -/
theorem extLane_int (v : BitVec 128) (k : ILane) (i : Nat) : extLane (.int k) (lane v k.bits i) =
    if k.signed then (laneAt v k.bits i).signExtend 64 else (laneAt v k.bits i).setWidth 64 := by
  simp only [extLane, lane_eq_laneAt, signedBits_toNat, wInt_eq_ofInt, w64, BitVec.ofNat_toNat]
  rfl

/-- R154: a lane of a float type is zero-extended. -/
theorem extLane_flt (v : BitVec 128) (k : FLane) (i : Nat) :
    extLane (.flt k) (lane v k.bits i) = (laneAt v k.bits i).setWidth 64 := by
  rw [extLane, lane_eq_laneAt, w64, BitVec.ofNat_toNat]

theorem execVext_wrote {s : State} {a : VReg} {r : Reg} {t : Lane} {i : Fin 16} {v : Word}
    (value : extLane t (lane (vec s a) t.bits i.val) = v) (hr : notPort r) (ready : ReadyCompute s 1) :
    execVext a r t i s = .next (wrote s s.cur 1 14 r v) := by
  subst value
  have dst : ∀ q, some r = some q → notPort q := fun q h => Option.some.inj h ▸ hr
  exact issue_next (sp := { simdSpec (.vext a r t i) 1 with dst := some r })
    (body := fun _ s => result s (extLane t (lane (getV (cx s) a) t.bits i.val)))
    ready.toReady rfl rfl rfl rfl nofun (kindOk_compute ready) (Nat.zero_le _) nofun dst rfl rfl

end Sys2Proof.Laws
end

section
/-! Shapes and tensor indices: division by a reciprocal, the coordinates of an index, and what tset and tidx write (R155 to
R157). -/

namespace Sys2Proof.Laws

open Sys2Proof.Machine Sys2Proof.Claims

/-! ## The entry of a shape (R156) -/

theorem product_eq_prod (l : List Nat) : product l = l.prod := List.prod_eq_foldl.symm

theorem shapeOf_ndim (d : List Nat) : (shapeOf d).ndim = d.length := rfl

theorem shapeOf_dims_take (d : List Nat) : (shapeOf d).dims.take d.length = d := List.take_left

theorem shapeOf_dims_getD (d : List Nat) (k : Nat) (inside : k < d.length) (e : Nat) :
    (shapeOf d).dims.getD k 0 = d.getD k e := by
  rw [shapeOf, List.getD_append _ _ _ _ inside, List.getD_eq_getElem _ _ inside, List.getD_eq_getElem _ _ inside]

/-- The multipliers and shifts of the first four sizes stand at their sizes' places. -/
theorem getD_take_four_map {d : List Nat} {k : Nat} (inside : k < d.length) (low : k < 4) (f : Nat → Nat) (rest : List Nat)
    (e : Nat) : ((d.take 4).map f ++ rest).getD k 0 = f (d.getD k e) := by
  have placed : k < ((d.take 4).map f).length := by simp; omega
  rw [List.getD_append _ _ _ _ placed, List.getD_eq_getElem _ _ placed, List.getElem_map, List.getElem_take,
    List.getD_eq_getElem _ _ inside]

theorem shapeOf_muls_getD {d : List Nat} {k : Nat} (inside : k < d.length) (low : k < 4) (e : Nat) :
    (shapeOf d).muls.getD k 0 = ceilDiv (2 ^ (40 + ceilLog2 (d.getD k e))) (d.getD k e) :=
  getD_take_four_map inside low (fun x => ceilDiv (2 ^ (40 + ceilLog2 x)) x) _ e

theorem shapeOf_shfs_getD {d : List Nat} {k : Nat} (inside : k < d.length) (low : k < 4) (e : Nat) :
    (shapeOf d).shfs.getD k 0 = 40 + ceilLog2 (d.getD k e) :=
  getD_take_four_map inside low (fun x => 40 + ceilLog2 x) _ e

/-! ## Division by a reciprocal (R156) -/

theorem le_two_pow_ceilLog2 (n : Nat) : n ≤ 2 ^ ceilLog2 n := by
  unfold ceilLog2
  split
  · assumption
  · have := Nat.lt_log2_self (n := n - 1)
    omega

/-- A quotient rounded up exceeds the exact one by less than 1. -/
theorem ceilDiv_mul_bounds (a : Nat) {b : Nat} (pos : 0 < b) : a ≤ ceilDiv a b * b ∧ ceilDiv a b * b < a + b := by
  have parts := Nat.div_add_mod (a + b - 1) b
  have rest := Nat.mod_lt (a + b - 1) pos
  rw [Nat.mul_comm] at parts
  rw [ceilDiv]
  omega

/-- R156: the excess of the multiplier carries no quotient across an integer, as the index is below 2^40. -/
theorem mul_reciprocal_div {x n : Nat} (small : x < 2 ^ 40) (pos : 0 < n) :
    x * ceilDiv (2 ^ (40 + ceilLog2 n)) n / 2 ^ (40 + ceilLog2 n) = x / n := by
  have wide : 2 ^ 40 * n ≤ 2 ^ (40 + ceilLog2 n) := by
    rw [Nat.pow_add]
    exact Nat.mul_le_mul_left _ (le_two_pow_ceilLog2 n)
  generalize 2 ^ (40 + ceilLog2 n) = s at wide ⊢
  obtain ⟨lower, upper⟩ := ceilDiv_mul_bounds s pos
  generalize ceilDiv s n = m at lower upper ⊢
  apply Nat.div_eq_of_lt_le
  · refine Nat.le_of_mul_le_mul_right ?_ pos
    calc x / n * s * n = x / n * n * s := by ring
      _ ≤ x * s := Nat.mul_le_mul_right s (Nat.div_mul_le_self x n)
      _ ≤ x * (m * n) := Nat.mul_le_mul_left x lower
      _ = x * m * n := by ring
  · refine Nat.lt_of_mul_lt_mul_right (a := n) ?_
    have excess : x * (n - 1) < s := by
      calc x * (n - 1) ≤ 2 ^ 40 * (n - 1) := Nat.mul_le_mul_right _ small.le
        _ < 2 ^ 40 * n := by omega
        _ ≤ s := wide
    have next : x + 1 ≤ (x / n + 1) * n := (Nat.lt_mul_div_succ x pos).trans_eq (Nat.mul_comm _ _)
    calc x * m * n = x * (m * n) := by ring
      _ ≤ x * (s + (n - 1)) := Nat.mul_le_mul_left x (by omega)
      _ < x * s + s := by rw [Nat.mul_add]; omega
      _ = (x + 1) * s := by ring
      _ ≤ (x / n + 1) * n * s := Nat.mul_le_mul_right s next
      _ = (x / n + 1) * s * n := by ring

/-! ## The coordinates of an index (R157) -/

theorem splitIndex_length (shp : Shape) (n : Nat) : ∀ k x, (splitIndex shp k n x).length = n := by
  induction n with
  | zero => intro k x; rfl
  | succ n ih =>
    intro k x
    cases n with
    | zero => rfl
    | succ n => rw [splitIndex, List.length_cons, ih]

/-- The coordinate of a dimension but the last: the quotient goes on to the next one. -/
theorem splitIndex_shapeOf_step {sizes : List Nat} {k n x : Nat} (inside : k < sizes.length) (low : k < 4)
    (pos : 0 < sizes.getD k 1) (small : x < 2 ^ 40) : splitIndex (shapeOf sizes) k (n + 2) x =
      x % sizes.getD k 1 :: splitIndex (shapeOf sizes) (k + 1) (n + 1) (x / sizes.getD k 1) := by
  rw [splitIndex, shapeOf_muls_getD inside low 1, shapeOf_shfs_getD inside low 1, shapeOf_dims_getD _ _ inside 1,
    mul_reciprocal_div small pos, Nat.mod_eq_sub_div_mul]

theorem prod_drop_eq {sizes : List Nat} {k : Nat} (inside : k < sizes.length) :
    (sizes.drop k).prod = sizes.getD k 1 * (sizes.drop (k + 1)).prod := by
  rw [List.drop_eq_getElem_cons inside, List.prod_cons, List.getD_eq_getElem _ _ inside]

/-- From dimension `k` on, each coordinate is what the sizes from there on leave of the index. -/
theorem splitIndex_shapeOf {sizes : List Nat} (few : sizes.length ≤ 5) (pos : ∀ x ∈ sizes, 0 < x) (n : Nat) :
    ∀ k x i, k + n = sizes.length → x < (sizes.drop k).prod → x < 2 ^ 40 → i < n →
      (splitIndex (shapeOf sizes) k n x).getD i 0 = x / ((sizes.drop k).take i).prod % sizes.getD (k + i) 1 := by
  induction n with
  | zero => exact fun k x i _ _ _ hi => absurd hi (Nat.not_lt_zero i)
  | succ n ih =>
    intro k x i hk below small hi
    have inside : k < sizes.length := by omega
    have size : 0 < sizes.getD k 1 := List.getD_eq_getElem _ _ inside ▸ pos _ (List.getElem_mem inside)
    rw [prod_drop_eq inside] at below
    cases n with
    | zero =>
      -- the last dimension takes what is left of the index
      obtain rfl : i = 0 := by omega
      rw [List.drop_of_length_le (by omega), List.prod_nil, Nat.mul_one] at below
      rw [Nat.add_zero k, List.take_zero, List.prod_nil, Nat.div_one, Nat.mod_eq_of_lt below]
      rfl
    | succ n =>
      rw [splitIndex_shapeOf_step inside (by omega) size small]
      cases i with
      | zero => simp
      | succ i =>
        rw [List.getD_cons_succ, ih (k + 1) _ i (by omega) (Nat.div_lt_of_lt_mul below)
          ((Nat.div_le_self _ _).trans_lt small) (by omega), Nat.div_div_eq_div_mul, List.drop_eq_getElem_cons inside,
          List.take_succ_cons, List.prod_cons, List.getD_eq_getElem _ _ inside, Nat.add_right_comm k 1 i, Nat.add_assoc]

/-! ## Coordinates in registers (R157) -/

theorem putCoords_concat (x : Ctx) (d : Reg) (cs : List Nat) (c : Nat) :
    putCoords x d (cs ++ [c]) = setReg (putCoords x d cs) (regPlus d cs.length) (w64 c) := by
  simp [putCoords, List.zipIdx_append]

theorem putCoords_pc (x : Ctx) (d : Reg) (cs : List Nat) : (putCoords x d cs).pc = x.pc := by
  induction cs using List.reverseRecOn with
  | nil => rfl
  | append_singleton cs c ih => rw [putCoords_concat, setReg_pc, ih]

theorem putCoords_serving (x : Ctx) (d : Reg) (cs : List Nat) : (putCoords x d cs).serving = x.serving := by
  induction cs using List.reverseRecOn with
  | nil => rfl
  | append_singleton cs c ih => rw [putCoords_concat, setReg_serving, ih]

theorem putCoords_charge (x : Ctx) (d : Reg) (cs : List Nat) : (putCoords x d cs).charge = x.charge := by
  induction cs using List.reverseRecOn with
  | nil => rfl
  | append_singleton cs c ih => rw [putCoords_concat, setReg_charge, ih]

theorem regPlus_val {d : Reg} {i : Nat} (h : d.val + i < 32) : (regPlus d i).val = d.val + i := Nat.mod_eq_of_lt h

/-- Registers outside the run keep their values. -/
theorem getReg_putCoords_outside (x : Ctx) {d r : Reg} {cs : List Nat} (room : d.val + cs.length ≤ 28)
    (outside : r.val < d.val ∨ d.val + cs.length ≤ r.val) : getReg (putCoords x d cs) r = getReg x r := by
  induction cs using List.reverseRecOn with
  | nil => rfl
  | append_singleton cs c ih =>
    rw [List.length_append, List.length_singleton] at room outside
    have other : r ≠ regPlus d cs.length := by
      intro same
      have := regPlus_val (d := d) (i := cs.length) (by omega)
      rw [← same] at this
      omega
    rw [putCoords_concat, getReg_setReg_ne _ _ _ _ other, ih (by omega) (by omega)]

/-- Each register of the run reads its coordinate. -/
theorem getReg_putCoords (x : Ctx) {d : Reg} {cs : List Nat} {i : Nat} (hi : i < cs.length) (hd : 0 < d.val)
    (room : d.val + cs.length ≤ 28) : getReg (putCoords x d cs) (regPlus d i) = w64 (cs.getD i 0) := by
  induction cs using List.reverseRecOn with
  | nil => exact absurd hi (Nat.not_lt_zero i)
  | append_singleton cs c ih =>
    rw [List.length_append, List.length_singleton] at hi room
    have place := regPlus_val (d := d) (i := cs.length) (by omega)
    have here := regPlus_val (d := d) (i := i) (by omega)
    rw [putCoords_concat]
    by_cases last : i = cs.length
    · subst last
      rw [getReg_setReg _ _ _ (by omega) (by omega), List.getD_append_right _ _ _ _ le_rfl, Nat.sub_self]
      rfl
    · have other : regPlus d i ≠ regPlus d cs.length := by
        intro same
        rw [same] at here
        omega
      rw [getReg_setReg_ne _ _ _ _ other, ih (by omega) (by omega), List.getD_append _ _ _ _ (by omega)]

/-! ## The instructions (R155) -/

theorem tsetSrcs_notPort (a : Reg) (n : Nat) : ∀ r ∈ tsetSrcs a n, notPort r := by
  intro r hr
  unfold tsetSrcs at hr
  split at hr
  · exact absurd hr List.not_mem_nil
  · obtain ⟨i, hi, rfl⟩ := List.mem_map.mp hr
    have := List.mem_range.mp hi
    rw [notPort, regPlus_val (by omega)]
    omega

theorem tsetSrcs_of_fits {a : Reg} {n : Nat} (fits : a.val + n ≤ 28) :
    tsetSrcs a n = (List.range n).map (regPlus a) := if_neg (by omega)

/-- R156: sizes that pass the checks give their entry. -/
theorem tsetBody_ok {s : State} {e : Fin 16} {a : Reg} {n : Nat} {ws : List Word} (pos : 0 < n) (fits : a.val + n ≤ 28)
    (legal : ∀ x ∈ ws.map BitVec.toNat, 0 < x ∧ x ≤ 2 ^ 40) (small : (ws.map BitVec.toNat).prod ≤ 2 ^ 40) :
    tsetBody e a n ws s = .ok { st := setCur s (fun x => { x with shp := x.shp.set e (shapeOf (ws.map BitVec.toNat)) }) } := by
  have bad : (ws.map BitVec.toNat).any (fun x => x == 0 || decide (2 ^ 40 < x)) = false := by
    rw [List.any_eq_false]
    intro x hx
    have := legal x hx
    simp only [Bool.or_eq_true, beq_iff_eq, decide_eq_true_eq]
    omega
  rw [tsetBody, if_neg (by omega)]
  refine if_neg ?_
  rw [bad, product_eq_prod]
  simp only [Bool.or_eq_true, decide_eq_true_eq, Bool.false_eq_true, or_false]
  omega

/-- R156: a count of zero leaves the sizes. -/
theorem tsetBody_zero (e : Fin 16) (a : Reg) (ws : List Word) (s : State) : tsetBody e a 0 ws s =
    .ok { st := setCur s (fun x => { x with shp := x.shp.set e { x.shp[e] with ndim := 0 } }) } := if_pos rfl

theorem execTset_written {s : State} {e : Fin 16} {a : Reg} {n : Fin 6} (pos : 0 < n.val) (fits : a.val + n.val ≤ 28)
    (ready : ReadyCompute s 16) {d : List Nat} (sizes : (List.range n.val).map (fun i => (val s (regPlus a i)).toNat) = d)
    (legal : ∀ x ∈ d, 0 < x ∧ x ≤ 2 ^ 40) (small : d.prod ≤ 2 ^ 40) : execTset e a n s =
      .next (did (modCtx s s.cur (fun x => { x with shp := x.shp.set e (shapeOf d) })) s.cur 16 14) := by
  have words : ((tsetSrcs a n.val).map (val s)).map BitVec.toNat = d := by
    rw [tsetSrcs_of_fits fits, ← sizes, List.map_map, List.map_map]
    rfl
  subst words
  exact issue_simd (tsetBody_ok pos fits legal small) (tsetSrcs_notPort a n.val) ready rfl rfl

/-- R157: an index within the shape gives its coordinates. -/
theorem tidxBody_ok {s : State} {d : Reg} {e : Fin 16} {w : Word} {sizes : List Nat} (entry : (me s).shp[e] = shapeOf sizes)
    (nonempty : 0 < sizes.length) (fits : d.val + sizes.length ≤ 28) (below : w.toNat < sizes.prod) : tidxBody d e [w] s =
      .ok { st := setCur s (fun c => putCoords c d (splitIndex (shapeOf sizes) 0 sizes.length w.toNat)) } := by
  have entry' : (cx s).shp[e] = shapeOf sizes := entry
  have index : src [w] 0 = w := rfl
  rw [tidxBody]
  simp only [entry', index, shapeOf_ndim, shapeOf_dims_take, product_eq_prod, if_neg nonempty.ne']
  rw [if_neg, if_neg]
  · simp only [Bool.or_eq_true, decide_eq_true_eq]
    omega
  · simp only [Bool.and_eq_true, decide_eq_true_eq]
    omega

theorem execTidx_put {s : State} {d a : Reg} {e : Fin 16} {sizes : List Nat} (ha : notPort a) (ready : ReadyCompute s 4)
    (entry : (me s).shp[e] = shapeOf sizes) (nonempty : 0 < sizes.length) (fits : d.val + sizes.length ≤ 28)
    (below : (val s a).toNat < sizes.prod) : execTidx d a e s = .next (did (modCtx s s.cur (fun c =>
      putCoords c d (splitIndex (shapeOf sizes) 0 sizes.length (val s a).toNat))) s.cur 4 14) :=
  issue_simd (srcs := [a]) (tidxBody_ok entry nonempty fits below) (by simp [ha]) ready (putCoords_pc _ _ _)
    (putCoords_serving _ _ _)

/-- What a compute context holds after its instruction retires, by what the effect left of its registers. -/
theorem me_did_modCtx (s : State) (g : Ctx → Ctx) (wu pj : Nat) :
    me (did (modCtx s s.cur g) s.cur wu pj) = retired s.cur wu pj (g (me s)) := by
  rw [did, modCtx_modCtx]
  exact getCtx_modCtx s s.cur _

theorem getReg_retired (c wu pj : Nat) (x : Ctx) (r : Reg) : getReg (retired c wu pj x) r = getReg x r := rfl

theorem retired_charge {c : Nat} (compute : isMem c = false) (wu pj : Nat) (x : Ctx) :
    (retired c wu pj x).charge = x.charge + w64 wu := by
  show (if isMem c then x.charge else x.charge + w64 wu) = _
  rw [compute]
  rfl

theorem execTidx_coords {s : State} {d a : Reg} {e : Fin 16} {sizes : List Nat} (ha : notPort a) (ready : ReadyCompute s 4)
    (entry : (me s).shp[e] = shapeOf sizes) (nonempty : 0 < sizes.length) (few : sizes.length ≤ 5) (pos : ∀ x ∈ sizes, 0 < x)
    (small : sizes.prod ≤ 2 ^ 40) (hd : 0 < d.val) (fits : d.val + sizes.length ≤ 28) (below : (val s a).toNat < sizes.prod) :
    ∃ t, execTidx d a e s = .next t ∧
      (∀ i, i < sizes.length → (getReg (me t) (regPlus d i)).toNat =
        (val s a).toNat / (sizes.take i).prod % sizes.getD i 1) ∧
      (∀ r : Reg, notPort r → r.val < d.val ∨ d.val + sizes.length ≤ r.val → getReg (me t) r = val s r) ∧
      (me t).charge = (me s).charge + 4 ∧ t.mem = s.mem := by
  have count := splitIndex_length (shapeOf sizes) sizes.length 0 (val s a).toNat
  refine ⟨_, execTidx_put ha ready entry nonempty fits below, fun i hi => ?coordinate, fun r _ outside => ?frame, ?charge, rfl⟩
  case coordinate =>
    have word : (val s a).toNat / (sizes.take i).prod % sizes.getD i 1 < 2 ^ 64 :=
      ((Nat.mod_le _ _).trans (Nat.div_le_self _ _)).trans_lt (val s a).isLt
    rw [me_did_modCtx, getReg_retired, getReg_putCoords _ (by omega) hd (by omega),
      splitIndex_shapeOf few pos _ _ _ _ (Nat.zero_add _) below (below.trans_le small) hi, w64, BitVec.toNat_ofNat,
      List.drop_zero, Nat.zero_add, Nat.mod_eq_of_lt word]
  case frame => rw [me_did_modCtx, getReg_retired, getReg_putCoords_outside _ (by omega) (by omega)]
  case charge =>
    rw [me_did_modCtx, retired_charge ready.compute, putCoords_charge]
    rfl

/-- Settles O10: lane by lane for the rows of R143, by the lanes of the packed result for the moves, and for the shapes by the
exactness of the reciprocals that tset stores. -/
theorem laneArithmetic : Obligations.LaneArithmetic := by
  unfold Obligations.LaneArithmetic
  refine ⟨?lanes, ⟨?vsel, ?vperm, ?vdot4, ?vsplat, ?vins, ?vext⟩, ?tset, ?tsetEmpty, ?tidx⟩
  case lanes =>
    intro s i op row ready
    exact laneOps_exec row ready
  case vsel =>
    intro s d a b c ready
    change execVsel d a b c s = _
    exact issue_wroteV (srcs := []) rfl rfl nofun ready
  case vperm =>
    intro s d a b t ready
    exact ⟨permLanes t.bits (vec s a) (vec s b), issue_wroteV (srcs := []) rfl rfl nofun ready,
      fun j inside => laneAt_permLanes inside _ _⟩
  case vdot4 =>
    intro s d a b t sat legal ready
    exact ⟨dot4 t sat (vec s a) (vec s b) (vec s d), issue_wroteV (srcs := []) rfl rfl nofun ready,
      fun j inside => laneAt_dot4 (bytes_of_wellFormed_vdot4 legal) inside _ _ _ _⟩
  case vsplat =>
    intro s d a t ha ready
    exact ⟨_, issue_wroteV (srcs := [a]) rfl rfl (by simp [ha]) ready, fun j inside => laneAt_splat inside _⟩
  case vins =>
    intro s d a t i ha _ ready
    exact ⟨_, issue_wroteV (srcs := [a]) rfl rfl (by simp [ha]) ready, fun j inside => laneAt_putLane inside (vec s d) _ _⟩
  case vext =>
    intro s a r t i hr _ ready
    change execVext a r t i s = _
    refine execVext_wrote ?_ hr ready
    cases t with
    | int k => exact extLane_int _ k i.val
    | flt k => exact extLane_flt _ k i.val
  case tset =>
    intro s e a n pos fits ready d legal small
    have count : d.length = n.val := by simp [d]
    exact ⟨execTset_written pos fits ready rfl legal small, count, count ▸ shapeOf_dims_take d⟩
  case tsetEmpty =>
    intro s e a ready
    change execTset e a 0 s = _
    exact issue_simd (tsetBody_zero e a _ s) (tsetSrcs_notPort a 0) ready rfl rfl
  case tidx =>
    intro s d a e sizes ha ready entry nonempty few pos small hd fits below
    exact execTidx_coords ha ready entry nonempty few pos small hd fits below

end Sys2Proof.Laws
end
